-- ==== Sys2Proof/Word.lean ====
section
/-! DEFINITION. The byte, the character as a receiver sees it, and the modulus of the energy registers. -/
namespace Sys2Proof

/-- One byte on a link, a port or in a store slot (R197). -/
abbrev Byte := BitVec 8

/-- One received character: its byte, and whether its stop bit was there (R1, R129, R181). -/
structure RxChar where
  byte : Byte
  stopOk : Bool
  deriving DecidableEq, Repr

/-- Characters of a run on the Metrology Link, and whether the line is then idle for 1 ms, which ends the run (R1). -/
structure LinkRun where
  chars : List RxChar
  ended : Bool
  deriving DecidableEq, Repr

/-- A character received without a framing fault. -/
abbrev goodChar (b : Byte) : RxChar := ⟨b, true⟩

/-- 10^9: every energy register holds its sum modulo this (R24). -/
abbrev whModulus : Nat := 1000000000

/-- The largest UTC count (R39). -/
abbrev utcMax : Nat := 4294967295

/-- The period number that cannot be closed (R29, R90). -/
abbrev periodMax : Nat := 4294967295

/-- An increase of a counter that holds 0..65,535 and saturates (R9, R165, R167, R181). -/
def satAdd (a n : Nat) : Nat := min 65535 (a + n)

end Sys2Proof
end

