-- ==== Sys2Proof/Syntax.lean ====
section
/-! DEFINITION. The commands of the NR3: one constructor of `Instr` per row of spec/opcode_table.json, and the
forty-one requests of the catalogue (section 10.10) with their parameters as a frame carries them. -/
namespace Sys2Proof

/-- The Utility Port and the Premises Port (R180). -/
inductive Port where
  | upt | ppt
  deriving DecidableEq, Repr

/-- A 4-character band name and an 8-character calendar name (R197). -/
abbrev Name4 := Vector Byte 4
abbrev Name8 := Vector Byte 8

/-- An override map entry as carried: kind code and band (R62). -/
structure RawMapEntry where
  kind : Nat
  band : Nat
  deriving DecidableEq, Repr

/-- A band entry as PASSIVE_BANDS carries it (R65). -/
structure RawBand where
  name : Name4
  value : Nat
  rank : Nat
  deriving DecidableEq, Repr

/-- A season entry as carried: start month-day and week index (R66). -/
structure RawSeason where
  month : Nat
  day : Nat
  week : Nat
  deriving DecidableEq, Repr

/-- A switch point as carried: minute of day and band (R67). -/
structure RawPoint where
  minute : Nat
  band : Nat
  deriving DecidableEq, Repr

/-- A special-day entry as carried: kind code (0 recurring, 1 full), date with years after 2000, profile (R68, R200). -/
structure RawSpecial where
  kind : Nat
  year : Nat
  month : Nat
  day : Nat
  profile : Nat
  deriving DecidableEq, Repr

/-- A local date-time as carried: years after 2000, month, day, minute of day (R70, R197). -/
structure RawDateTime where
  year : Nat
  month : Nat
  day : Nat
  minute : Nat
  deriving DecidableEq, Repr

/-- How READ_SNAPSHOT names a record (R157). -/
inductive SnapshotKey where
  | number (n : Nat)
  | offset (k : Nat)
  deriving DecidableEq, Repr

/-- The sectors LOCK_ARCHIVE and UNLOCK_ARCHIVE name (R150). -/
inductive SectorList where
  | all
  | list (sectors : List Nat)
  deriving DecidableEq, Repr

/-- The forty-one requests of the catalogue, each parameter as the frame carries it: an enumeration or an ON/OFF
field is its byte, so that a value outside its list can be carried and refused. -/
inductive Request where
  | clearFrameLoss
  | setNettingMethod (method : Option Nat)
  | readRegisters
  | setTime (utc : Nat)
  | setLocalOffset (offset : Option Int)
  | readTime
  | setOverrideSource (line : Nat) (source : Option Nat)
  | setOverride (line : Nat) (value : Nat)
  | setOverrideMap (entries : Option (Vector RawMapEntry 4))
  | passiveClear (name : Name8)
  | passiveBands (nb : Nat) (fallback : Nat) (bands : List RawBand)
  | passiveSeason (index : Nat) (entry : Option RawSeason)
  | passiveWeek (index : Nat) (days : Option (Vector Nat 7))
  | passiveDay (index : Nat) (points : Option (List RawPoint))
  | passiveSpecial (index : Nat) (entry : Option RawSpecial)
  | passiveActivateAt (time : RawDateTime)
  | passiveActivateNow
  | readCalendar (calendar : Nat) (part : Nat) (index : Nat)
  | setSettlement (mode : Option Nat) (cap : Option Nat) (day : Option Nat)
  | closePeriod
  | setUtilityCap (limit : Nat) (hysteresis : Nat) (expiry : Option Nat)
  | clearUtilityCap
  | setPremisesCap (limit : Nat) (hysteresis : Nat) (expiry : Option Nat)
  | clearPremisesCap
  | setCapControl (fsc : Option Nat) (enable : Option Nat) (trip : Option Nat) (hold : Option Nat)
  | readCaps
  | setUnitConfig (unit : Nat) (enable : Option Nat) (slot : Option Nat) (maskOff : Option Nat)
  | setUnitStandby (unit : Nat) (standby : Option Nat)
  | setProfileWeights (weights : Vector (Option Nat) 4)
  | readUnits
  | readSnapshot (key : SnapshotKey)
  | lockArchive (sectors : SectorList)
  | unlockArchive (sectors : SectorList)
  | restart
  | getStatus
  | readNotices
  | setNoticeMask (mask : Option (BitVec 16))
  | freezeView
  | releaseView
  | lockPremises
  | unlockPremises
  deriving DecidableEq, Repr

/-- The commands: events of the links, lines, clocks and store, then the requests, each on the port it is taken on. -/
inductive Instr where
  | phaseFrame (run : LinkRun)
  | silence500
  | silence2000
  | secondTick
  | backupDomainLoss
  | overrideLineLevelChange (line : Fin 2) (level : Bool)
  | overrideDebounceExpiry (line : Fin 2)
  | mainsWarnAssert
  | mainsWarnDeassert
  | supplyDebounceExpiry
  | writeSequenceEnd
  | powerOnReset
  | resetLine
  | recoveryCheckpointScan
  | recoveryLogScan
  | recoveryCalendarLoad
  | periodicCheckpointTimer
  | snapshotProgramComplete (valid : Bool)
  | checkpointProgramComplete (valid0 : Bool) (valid1 : Bool)
  | calendarPartProgramComplete (valid : Bool)
  | sectorEraseComplete (notBlank : BitVec 16)
  | eraseSuspend
  | slotReadComplete (decayed : Bool)
  | requestFrame (port : Port) (chars : List RxChar)
  | frameLengthOverflow (port : Port) (length : BitVec 16)
  | frameStall (port : Port)
  | ignoreIdleExpiry (port : Port)
  | responseTransmitComplete (port : Port)
  | viewExpiry (port : Port)
  | pollCycleStart
  | allowanceSent
  | unitReport (chars : List RxChar)
  | replyWindowExpiry
  | clearFrameLoss (port : Port)
  | setNettingMethod (port : Port) (method : Option Nat)
  | readRegisters (port : Port)
  | setTime (port : Port) (utc : Nat)
  | setLocalOffset (port : Port) (offset : Option Int)
  | readTime (port : Port)
  | setOverrideSource (port : Port) (line : Nat) (source : Option Nat)
  | setOverride (port : Port) (line : Nat) (value : Nat)
  | setOverrideMap (port : Port) (entries : Option (Vector RawMapEntry 4))
  | passiveClear (port : Port) (name : Name8)
  | passiveBands (port : Port) (nb : Nat) (fallback : Nat) (bands : List RawBand)
  | passiveSeason (port : Port) (index : Nat) (entry : Option RawSeason)
  | passiveWeek (port : Port) (index : Nat) (days : Option (Vector Nat 7))
  | passiveDay (port : Port) (index : Nat) (points : Option (List RawPoint))
  | passiveSpecial (port : Port) (index : Nat) (entry : Option RawSpecial)
  | passiveActivateAt (port : Port) (time : RawDateTime)
  | passiveActivateNow (port : Port)
  | readCalendar (port : Port) (calendar : Nat) (part : Nat) (index : Nat)
  | setSettlement (port : Port) (mode : Option Nat) (cap : Option Nat) (day : Option Nat)
  | closePeriod (port : Port)
  | setUtilityCap (port : Port) (limit : Nat) (hysteresis : Nat) (expiry : Option Nat)
  | clearUtilityCap (port : Port)
  | setPremisesCap (port : Port) (limit : Nat) (hysteresis : Nat) (expiry : Option Nat)
  | clearPremisesCap (port : Port)
  | setCapControl (port : Port) (fsc : Option Nat) (enable : Option Nat) (trip : Option Nat) (hold : Option Nat)
  | readCaps (port : Port)
  | setUnitConfig (port : Port) (unit : Nat) (enable : Option Nat) (slot : Option Nat) (maskOff : Option Nat)
  | setUnitStandby (port : Port) (unit : Nat) (standby : Option Nat)
  | setProfileWeights (port : Port) (weights : Vector (Option Nat) 4)
  | readUnits (port : Port)
  | readSnapshot (port : Port) (key : SnapshotKey)
  | lockArchive (port : Port) (sectors : SectorList)
  | unlockArchive (port : Port) (sectors : SectorList)
  | restart (port : Port)
  | getStatus (port : Port)
  | readNotices (port : Port)
  | setNoticeMask (port : Port) (mask : Option (BitVec 16))
  | freezeView (port : Port)
  | releaseView (port : Port)
  | lockPremises (port : Port)
  | unlockPremises (port : Port)
  | mainSupplyLoss
  deriving DecidableEq, Repr

end Sys2Proof
end

