-- ==== Sys2Proof/Config.lean ====
section
/-! DEFINITION. The free values: what the spec leaves open and every machine settles for itself. None has a body, so
no proof can see one; each is applied to the number of free values taken before it (`State.draws`). -/
namespace Sys2Proof

/-- What an interrupted slot program left in its slot: nothing yet, the whole record, or content that is INVALID
(R156: "left as the interrupted program left it, normally INVALID"). -/
inductive Torn where
  | blank | written | invalid
  deriving DecidableEq, Repr, Inhabited

/-- Of two occurrences that fall together inside one command, whether the first named is taken first (R47, R55, R89, R115,
R137: "either may be taken first"). FREE VALUE, assumption 5. -/
opaque Config.firstTaken : Nat → Bool

/-- What an interrupted slot program left. FREE VALUE, assumption 6. -/
opaque Config.tornSlot : Nat → Torn

/-- The rank of a field of the checkpoint content, by its place in R163's list: the order of the content "is not fixed
here" (R204). FREE VALUE, assumption 9. -/
opaque Config.checkpointOrder : Nat → Nat

/-- Where the checkpoint content is cut between its halves (R204). FREE VALUE, assumption 9. -/
opaque Config.checkpointCut : Nat

end Sys2Proof
end

