-- ==== Sys2Proof/Machine/State.lean ====
section
/-! DEFINITION. The state of the NR3: every register, queue, counter, mode and pin the spec names, block by block
(section 2), the queue of waiting commands, and the machine right after reset. Plain data throughout. -/
namespace Sys2Proof.Machine

/-! ### Frame Receiver and Netting Engine (chapters 1 and 2) -/

/-- Frame health (R10 to R12). -/
inductive Health where
  | noSignal | locked | gap | lost | relocking
  deriving DecidableEq, Repr

/-- The five period frame counters, each 0..65,535 (R9). -/
structure Counters where
  missed : Nat
  errors : Nat
  clamped : Nat
  dups : Nat
  discarded : Nat
  deriving DecidableEq, Repr

/-- The Frame Receiver's state (R17). `run` is the partial frame in the receiver: the characters of the run that has not
ended, those beyond the twelfth dropped (R1). -/
structure Frx where
  run : List RxChar
  lastSeq : Option Byte
  health : Health
  lastArrival : Option Nat
  relock : Nat
  lostSeen : Bool
  counters : Counters
  deriving DecidableEq, Repr

/-- The netting method (R18). -/
inductive Netting where
  | vector | phase
  deriving DecidableEq, Repr

/-! ### Register Bank (chapter 2) -/

/-- The five period flags, in the order of section 2.8. -/
structure PeriodFlags where
  timeInvalidSeen : Bool
  frontendFaultSeen : Bool
  resyncSeen : Bool
  frameLossSeen : Bool
  restartLoss : Bool
  deriving DecidableEq, Repr

/-- The Register Bank: what R163 lists under it, all carried in a checkpoint (R22 to R35). -/
structure RegBank where
  ti : Nat
  te : Nat
  ri : Nat
  re : Nat
  imp : Vector Nat 8
  exp : Vector Nat 8
  tiOpen : Nat
  teOpen : Nat
  period : Nat
  openTime : Option Nat
  credit : Nat
  forfeit : Nat
  flags : PeriodFlags
  deriving DecidableEq, Repr

/-! ### Time Base (chapter 3) -/

/-- A UTC count with its validity, as events and checkpoints carry it (R48, R163). -/
structure WallTime where
  utc : Nat
  valid : Bool
  deriving DecidableEq, Repr

/-- The Time Base (R39 to R51). `lastClose` is a local day, counted from local 2000-01-01 (R45). -/
structure Tim where
  utc : Nat
  subMs : Nat
  valid : Bool
  retained : Bool
  offset : Int
  lastClose : Option Nat
  runMs : Nat
  resumeFrom : Option WallTime
  deriving DecidableEq, Repr

/-! ### Tariff Calendar (chapter 4) -/

structure BandEntry where
  name : Name4
  value : Nat
  rank : Fin 8
  deriving DecidableEq, Repr

/-- The header's fallback band and the band table; nb is the number of entries (R65). -/
structure BandTable where
  fallback : Fin 8
  entries : List BandEntry
  deriving DecidableEq, Repr

structure Season where
  month : Nat
  day : Nat
  week : Fin 4
  deriving DecidableEq, Repr

structure SwitchPoint where
  minute : Nat
  band : Fin 8
  deriving DecidableEq, Repr

/-- A special day's date: recurring month-day or full date (R53, R68). -/
inductive SpecialDate where
  | recurring (month day : Nat)
  | full (year month day : Nat)
  deriving DecidableEq, Repr

structure Special where
  date : SpecialDate
  profile : Fin 12
  deriving DecidableEq, Repr

/-- A calendar: name, band table (absent in an empty passive calendar), and the indexed tables (section 4.1). -/
structure Calendar where
  name : Name8
  bands : Option BandTable
  seasons : Vector (Option Season) 4
  weeks : Vector (Option (Vector (Fin 12) 7)) 4
  days : Vector (Option (List SwitchPoint)) 12
  specials : Vector (Option Special) 24
  deriving DecidableEq, Repr

/-- Where the band in effect came from (R55). -/
inductive BandSource where
  | schedule | specialDay | override | timeFallback | overrideFallback
  deriving DecidableEq, Repr

inductive LineSource where
  | pin | virtual
  deriving DecidableEq, Repr

/-- One override line: level on the pin, debounced state, run time at which a running debounce ends (R59 to R61). -/
structure OvLine where
  level : Bool
  debounced : Bool
  timer : Option Nat
  source : LineSource
  virt : Bool
  deriving DecidableEq, Repr

/-- An override map entry (R62). -/
inductive MapEntry where
  | calendar
  | force (k : Fin 8)
  deriving DecidableEq, Repr

/-- An activation time: local day and minute of day (R70). -/
structure ActTime where
  day : Nat
  minute : Nat
  deriving DecidableEq, Repr

structure Cal where
  active : Calendar
  passive : Option Calendar
  activation : Option ActTime
  persisted : Bool
  passiveAt : Nat
  designation : Option Nat
  imageHeld : Bool
  lines : Vector OvLine 2
  map : Vector MapEntry 4
  band : Fin 8
  source : BandSource
  deriving DecidableEq, Repr

/-! ### Settlement Unit (chapter 5) -/

inductive SetMode where
  | total | banded
  deriving DecidableEq, Repr

inductive Reason where
  | scheduled | commanded | calendar
  deriving DecidableEq, Repr

/-- The owed-close record (R86). `date` is the owed billing date, a local day. -/
structure Owed where
  first : Reason
  count : Nat
  calFlag : Bool
  date : Option Nat
  deriving DecidableEq, Repr

structure SetUnit where
  mode : SetMode
  cap : Nat
  day : Nat
  owed : Option Owed
  deriving DecidableEq, Repr

/-- One band's entry in a snapshot; `billable` is present in BANDED mode (R99). -/
structure SnapBand where
  imp : Nat
  exp : Nat
  billable : Option Nat
  deriving DecidableEq, Repr

/-- The snapshot record of a close (R99). -/
structure Snapshot where
  number : Nat
  reason : Reason
  merged : Nat
  openTime : Option Nat
  closeTime : Option Nat
  calName : Name8
  mode : SetMode
  bands : List SnapBand
  billable : Nat
  applied : Nat
  creditIn : Nat
  creditOut : Nat
  forfeit : Nat
  ti : Nat
  te : Nat
  billingDate : Option Nat
  flags : PeriodFlags
  counters : Counters
  deriving DecidableEq, Repr

/-! ### Export Cap Controller (chapter 6) -/

/-- A cap record (R102). -/
structure CapRecord where
  limit : Nat
  hyst : Nat
  expiry : Option Nat
  setTime : Option Nat
  deriving DecidableEq, Repr

/-- The cap records and control settings, all checkpointed (R107, R163). -/
structure CapSettings where
  util : Option CapRecord
  prem : Option CapRecord
  fsc : Nat
  fsEnable : Bool
  trip : Nat
  hold : Nat
  deriving DecidableEq, Repr

inductive CurtState where
  | uncapped | normal | curtailing | failsafe
  deriving DecidableEq, Repr

structure Xcc where
  cfg : CapSettings
  q : Nat
  state : CurtState
  holdEnd : Option Nat
  lastXs : Option Int
  load : Option Nat
  allowance : Option Nat
  deriving DecidableEq, Repr

/-! ### Unit Link Controller (chapter 7) -/

/-- The checkpointed fields of a unit table entry (R123). -/
structure UnitConfig where
  enable : Bool
  slot : Fin 4
  standby : Bool
  maskOff : Bool
  deriving DecidableEq, Repr

inductive LinkState where
  | disabled | probing | online | offline
  deriving DecidableEq, Repr

inductive UnitStatus where
  | generating | idle | fault
  deriving DecidableEq, Repr

/-- A unit's last report (R130). -/
structure Report where
  output : Nat
  status : UnitStatus
  echo : Byte
  clamped : Bool
  deriving DecidableEq, Repr

/-- One unit (R123, R128, R131, R132). `lastSent = none` is the spec's "none"; an absent allowance sent is `some none`. -/
structure UnitEntry where
  cfg : UnitConfig
  link : LinkState
  miss : Nat
  last : Option Report
  mismatch : Nat
  notFollowing : Bool
  seq : Byte
  lastSent : Option (Option Nat)
  allowance : Option Nat
  deriving DecidableEq, Repr

/-- An ALLOWANCE message (R128, R201). -/
structure AllowanceMsg where
  unit : Fin 4
  allowance : Option Nat
  seq : Byte
  deriving DecidableEq, Repr

/-- The exchange on the Unit Link (R127, R129). -/
inductive Exchange where
  | none
  | sending (msg : AllowanceMsg)
  | window (msg : AllowanceMsg) (closes : Nat) (got : List RxChar)
  deriving DecidableEq, Repr

structure Ulc where
  units : Vector UnitEntry 4
  weights : Vector Nat 4
  handState : CurtState
  handA : Option Nat
  pool : Option Nat
  noActive : Bool
  nextCycle : Nat
  rest : List (Fin 4)
  exchange : Exchange
  deriving DecidableEq, Repr

/-! ### Checkpoints and the History Store (chapters 8 and 9) -/

inductive Cause where
  | periodic | close | config | calendar | powerFail | restart
  deriving DecidableEq, Repr

/-- The set of causes of a checkpoint request, bit n for the nth cause of R163. -/
abbrev CauseSet := BitVec 6

/-- The part of the Tariff Calendar a checkpoint carries (R163). `passiveAt` goes with the passive-persisted flag: the
image sector the flag speaks of (R78; assumption 42). -/
structure CalSaved where
  designation : Option Nat
  persisted : Bool
  passiveAt : Nat
  activation : Option ActTime
  sources : Vector LineSource 2
  virts : Vector Bool 2
  map : Vector MapEntry 4
  deriving DecidableEq, Repr

/-- The content of a checkpoint (R163). -/
structure Checkpoint where
  seq : Nat
  capture : WallTime
  causes : CauseSet
  reg : RegBank
  counters : Counters
  netting : Netting
  set : SetUnit
  offset : Int
  lastClose : Option Nat
  cal : CalSaved
  caps : CapSettings
  units : Vector UnitConfig 4
  weights : Vector Nat 4
  premLock : Bool
  uptMask : BitVec 11
  pptMask : BitVec 11
  deriving DecidableEq, Repr

/-- What a slot that is not BLANK holds: a record of one of the three kinds of R204, or content that is INVALID
(R142). A checkpoint half and a calendar part each carry their share of the content named. -/
inductive SlotContent where
  | snapshot (r : Snapshot)
  | half (number : Fin 2) (c : Checkpoint)
  | part (number : Nat) (total : Nat) (c : Calendar)
  | junk
  deriving DecidableEq, Repr

/-- The memory of the History Store: content by slot number 16 × sector + slot, slot numbers strictly rising; a slot
not listed is BLANK, every byte erased (R142, R204). -/
abbrev Store := List (Nat × SlotContent)

/-- A pending snapshot: its record, the slot it is bound to, its program failures (R145, R158). -/
structure PendingSnap where
  snap : Snapshot
  slot : Nat
  fails : Nat
  deriving DecidableEq, Repr

/-- Who asked for a slot read (R154). -/
inductive Reader where
  | port (p : Port) (number : Nat)
  | recovery
  deriving DecidableEq, Repr

/-- What the store engine is doing (R154). A checkpoint program carries its captured content, its record position
(8 × sector + position) and whether it is the retry of R159. -/
inductive Engine where
  | idle
  | snapshot
  | checkpoint (c : Checkpoint) (position : Nat) (retry : Bool)
  | part
  | read (who : Reader) (slot : Nat)
  | erase (sector : Nat)
  deriving DecidableEq, Repr

/-- A waiting calendar image write (R71, R153). -/
structure CalWrite where
  sector : Nat
  ofActive : Bool
  deriving DecidableEq, Repr

/-- The calendar image write in progress (R71, R153, R159): `ofActive` once its calendar has been activated,
`grantedActive` where that was so at its grant. -/
structure CalJob where
  sector : Nat
  ofActive : Bool
  grantedActive : Bool
  edited : Bool
  content : Calendar
  parts : Nat
  next : Nat
  slot : Nat
  failed : Bool
  erasing : Bool
  deriving DecidableEq, Repr

structure Hst where
  store : Store
  index : List (Nat × Nat)
  queue : List PendingSnap
  writePtr : Nat
  curLog : Nat
  ckptSector : Nat
  ckptLast : Option Nat
  ckptReq : Option CauseSet
  ckptRetry : Option Checkpoint
  newestSeq : Option Nat
  periodicFrom : Nat
  periodicFired : Bool
  calWaiting : List CalWrite
  calJob : Option CalJob
  eraseList : List Nat
  engine : Engine
  suspended : Option Nat
  reads : List (Port × Nat × Nat)
  locks : Vector Bool 6
  retired : List Nat
  logFailed : Bool
  ckptFailed : Bool
  calFailed : Bool
  gap : Option Nat
  deriving DecidableEq, Repr

/-! ### Supply Monitor and recovery (chapter 9) -/

inductive Supply where
  | starting | run | warning | down
  deriving DecidableEq, Repr

/-- Which scan of R172 recovery has reached. -/
inductive Stage where
  | ring | log | images | done
  deriving DecidableEq, Repr

/-- What recovery keeps of the selected checkpoint for stages 4 and 5 (R174). -/
structure Selected where
  period : Nat
  causes : CauseSet
  deriving DecidableEq, Repr

structure Sup where
  supply : Supply
  powered : Bool
  mainsWarn : Bool
  debounce : Option Nat
  rideThrough : Nat
  lostCkpt : Nat
  restarting : Bool
  stage : Stage
  unread : List Nat
  selected : Option Selected
  ringHeld : Bool
  deriving DecidableEq, Repr

/-! ### Master ports (chapter 10) -/

/-- The status codes, in the order of R187. -/
inductive Status where
  | ok | accepted | deferred | busy | badFrame | unknown | denied | state | locked | range | notFound | viewExpired
  deriving DecidableEq, Repr

/-- The notice kinds, in the order of section 10.6. -/
inductive Notice where
  | band | periodClosed | closeDeferred | capState | capRecord | frameHealth | unit | time | calendar | storeFault
  | supply
  deriving DecidableEq, Repr

/-- A copy of the register state, for READ_REGISTERS and for a frozen view (R36, R193). -/
structure RegCopy where
  ti : Nat
  te : Nat
  tiOpen : Nat
  teOpen : Nat
  ri : Nat
  re : Nat
  imp : Vector Nat 8
  exp : Vector Nat 8
  credit : Nat
  forfeit : Nat
  period : Nat
  openTime : Option Nat
  band : Fin 8
  capture : Option Nat
  deriving DecidableEq, Repr

/-- A port's view (R193). -/
inductive View where
  | none
  | held (copy : RegCopy) (expiry : Nat)
  | expired (copy : RegCopy) (expiry : Nat)
  deriving DecidableEq, Repr

/-- The part of a calendar READ_CALENDAR names, other than SUMMARY (R77). -/
inductive CalPart where
  | bands | seasons | weeks | day (index : Fin 12) | specials
  deriving DecidableEq, Repr

/-- What is read of an override line (R77). -/
structure LineReport where
  debounced : Bool
  source : LineSource
  virt : Bool
  effective : Bool
  deriving DecidableEq, Repr

/-- What SUMMARY carries beside the calendar's own items (R77). -/
structure SummaryExtras where
  band : Fin 8
  source : BandSource
  lines : Vector LineReport 2
  map : Vector MapEntry 4
  activation : Option ActTime
  persisted : Bool
  owed : Bool
  designation : Option Nat
  deriving DecidableEq, Repr

/-- READ_TIME (R52). -/
structure TimeReport where
  utc : Nat
  valid : Bool
  offset : Int
  localDay : Nat
  weekday : Nat
  secondOfDay : Nat
  runSeconds : Nat
  lastClose : Option Nat
  deriving DecidableEq, Repr

/-- READ_CAPS (R121). -/
structure CapsReport where
  util : Option CapRecord
  prem : Option CapRecord
  ceff : Option (Nat × Nat)
  state : CurtState
  q : Nat
  trip : Nat
  holdEndSec : Option Nat
  holdLeft : Option Nat
  lastXs : Option Int
  load : Option Nat
  allowance : Option Nat
  fsc : Nat
  fsEnable : Bool
  hold : Nat
  deriving DecidableEq, Repr

/-- One unit in READ_UNITS (R140). -/
structure UnitItem where
  entry : UnitEntry
  effStandby : Bool
  active : Bool
  deriving DecidableEq, Repr

/-- READ_UNITS (R140). -/
structure UnitsReport where
  units : Vector UnitItem 4
  weights : Vector Nat 4
  handState : CurtState
  handA : Option Nat
  pool : Option Nat
  noActive : Bool
  deriving DecidableEq, Repr

/-- The engine's activity as GET_STATUS shows it (R154). -/
inductive Activity where
  | idle | program | read | erase
  | suspended (serving : Activity)
  deriving DecidableEq, Repr

/-- GET_STATUS (R195). -/
structure StatusReport where
  supply : Supply
  rideThrough : Nat
  lostCkpt : Nat
  restarting : Bool
  health : Health
  relock : Nat
  lostSeen : Bool
  valid : Bool
  band : Fin 8
  source : BandSource
  debounced : Vector Bool 2
  effective : Vector Bool 2
  period : Nat
  owed : Option Owed
  curt : CurtState
  ceff : Option (Nat × Nat)
  allowance : Option Nat
  links : Vector LinkState 4
  notFollowing : Vector Bool 4
  noActive : Bool
  activity : Activity
  ckptFailed : Bool
  logFailed : Bool
  calFailed : Bool
  retired : List Nat
  pendingCount : Nat
  locks : Vector Bool 6
  gap : Option Nat
  premLock : Bool
  notices : BitVec 11
  mask : BitVec 11
  viewState : Nat
  stalled : Nat
  bad : Nat
  dropped : Nat
  deriving DecidableEq, Repr

/-- The payload of a response, before it is laid out in bytes (R197, R202, R203). -/
inductive Answer where
  | empty
  | detail (item : Nat) (index : Nat)
  | method (m : Netting)
  | registers (copy : RegCopy) (viewLeft : Option Nat)
  | utc (n : Nat)
  | offset (n : Int)
  | time (r : TimeReport)
  | overrideLine (source : LineSource) (debounced : Bool) (virt : Bool)
  | overrideMap (m : Vector MapEntry 4)
  | calendarSummary (c : Calendar) (x : SummaryExtras)
  | calendarPart (c : Calendar) (p : CalPart)
  | settlement (mode : SetMode) (cap : Nat) (day : Nat)
  | closed (number : Nat)
  | owedClose (o : Owed)
  | capRecord (r : CapRecord) (limitClamped : Bool) (hystClamped : Bool)
  | capCleared (noneWas : Bool)
  | capControl (fsc : Nat) (enable : Bool) (trip : Nat) (hold : Nat) (fscClamped : Bool) (tripClamped : Bool)
      (holdClamped : Bool)
  | caps (r : CapsReport)
  | unitConfig (c : UnitConfig)
  | standby (request : Bool) (maskOff : Bool) (effective : Bool)
  | weights (w : Vector Nat 4) (clamped : Vector Bool 4)
  | units (r : UnitsReport)
  | snapshot (r : Snapshot)
  | locks (v : Vector Bool 6)
  | status (r : StatusReport)
  | notices (set : BitVec 11)
  | mask (set : BitVec 11)
  | view (capture : Option Nat) (expirySec : Nat)
  | released (was : Nat)
  | premLock (b : Bool)
  deriving DecidableEq, Repr

/-- A response: the request code it carries, its status and its payload (R183). -/
structure Response where
  code : Nat
  status : Status
  answer : Answer
  deriving DecidableEq, Repr

/-- A response in a transmit queue; `own` when it answers the buffered request (R182, R183). -/
structure TxEntry where
  own : Bool
  resp : Response
  deriving DecidableEq, Repr

/-- A port's receiver (R180). -/
inductive RxState where
  | hunt
  | collect (got : List RxChar) (lastAt : Nat)
  | ignore (lastAt : Nat)
  deriving DecidableEq, Repr

structure PortState where
  rx : RxState
  buffer : Option Nat
  tx : List TxEntry
  notices : BitVec 11
  mask : BitVec 11
  view : View
  stalled : Nat
  bad : Nat
  dropped : Nat
  deriving DecidableEq, Repr

/-! ### The machine -/

/-- The whole state of the NR3. `draws` counts the free values taken (the MODEL's own field); `pending` is the queue of
commands waiting, first in first out. -/
structure State where
  frx : Frx
  netting : Netting
  reg : RegBank
  tim : Tim
  cal : Cal
  set : SetUnit
  xcc : Xcc
  ulc : Ulc
  hst : Hst
  sup : Sup
  upt : PortState
  ppt : PortState
  premLock : Bool
  draws : Nat
  pending : List Instr
  deriving DecidableEq, Repr

/-- Faults. None: no command stops the NR3; what goes wrong is a status code, a FAILED area or a notice (R187, R158). -/
inductive Fault where
  deriving DecidableEq, Repr

/-- Refusals. `notModelled` is raised by `exec` alone, for a command that has no meaning in the model yet (safe: the
model says nothing about it). No arm uses it. -/
inductive Refusal where
  | notModelled (mnemonic : String)
  deriving DecidableEq, Repr

/-! ### After-reset and factory values -/

def Counters.zero : Counters := ⟨0, 0, 0, 0, 0⟩

def PeriodFlags.clear : PeriodFlags := ⟨false, false, false, false, false⟩

/-- The Frame Receiver after any reset (R17). -/
def Frx.reset : Frx :=
  { run := [], lastSeq := none, health := .noSignal, lastArrival := none, relock := 0, lostSeen := false, counters := .zero }

/-- The factory Register Bank (R38). -/
def RegBank.factory : RegBank :=
  { ti := 0, te := 0, ri := 0, re := 0, imp := .replicate 8 0, exp := .replicate 8 0, tiOpen := 0, teOpen := 0,
    period := 1, openTime := none, credit := 0, forfeit := 0, flags := .clear }

/-- The built-in calendar (R54). -/
def Calendar.builtIn : Calendar :=
  { name := #v[0x46#8, 0x41#8, 0x43#8, 0x54#8, 0x4F#8, 0x52#8, 0x59#8, 0x20#8]
    bands := some { fallback := 0, entries := [{ name := #v[0x42#8, 0x41#8, 0x53#8, 0x45#8], value := 1000, rank := 0 }] }
    seasons := (Vector.replicate 4 none).set 0 (some { month := 1, day := 1, week := 0 })
    weeks := (Vector.replicate 4 none).set 0 (some (.replicate 7 0))
    days := (Vector.replicate 12 none).set 0 (some [{ minute := 0, band := 0 }])
    specials := .replicate 24 none }

/-- An override line after a reset that reads `level` (R78). -/
def OvLine.reset (level : Bool) : OvLine :=
  { level := level, debounced := level, timer := none, source := .pin, virt := false }

/-- The Tariff Calendar after any reset, before recovery, with the line levels read (R78). -/
def Cal.reset (level0 level1 : Bool) : Cal :=
  { active := .builtIn, passive := none, activation := none, persisted := false, passiveAt := 10, designation := none,
    imageHeld := false, lines := #v[OvLine.reset level0, OvLine.reset level1], map := .replicate 4 .calendar,
    band := 0, source := .schedule }

/-- The factory settlement settings (R101). -/
def SetUnit.factory : SetUnit := { mode := .total, cap := 999999999, day := 1, owed := none }

/-- The factory cap settings (R107, R122). -/
def CapSettings.factory : CapSettings :=
  { util := none, prem := none, fsc := 0, fsEnable := true, trip := 20, hold := 60 }

/-- The Export Cap Controller after any reset (R122). -/
def Xcc.reset : Xcc :=
  { cfg := .factory, q := 0, state := .uncapped, holdEnd := none, lastXs := none, load := none, allowance := none }

/-- A unit after any reset, before recovery (R141). -/
def UnitEntry.reset : UnitEntry :=
  { cfg := { enable := false, slot := 0, standby := false, maskOff := false }, link := .disabled, miss := 0,
    last := none, mismatch := 0, notFollowing := false, seq := 0, lastSent := none, allowance := none }

/-- The Unit Link Controller after any reset (R141). The table of R141 does not list the curtailment state and the site
allowance last handed on nor the start of the next cycle: that they are UNCAPPED, absent and 0 until the first handing and
the first polling is the model's choice (assumption 11). -/
def Ulc.reset : Ulc :=
  { units := .replicate 4 .reset, weights := .replicate 4 1, handState := .uncapped, handA := none, pool := none,
    noActive := false, nextCycle := 0, rest := [], exchange := .none }

/-- The History Store after any reset, its memory kept (R162). The write pointer, the current sectors and the last record
position are the model's choice until the scan sets them (assumption 11). -/
def Hst.reset (store : Store) : Hst :=
  { store := store, index := [], queue := [], writePtr := 63, curLog := 4, ckptSector := 0, ckptLast := none,
    ckptReq := none, ckptRetry := none, newestSeq := none, periodicFrom := 0, periodicFired := false, calWaiting := [],
    calJob := none, eraseList := [], engine := .read .recovery 0, suspended := none, reads := [],
    locks := .replicate 6 true, retired := [], logFailed := false, ckptFailed := false, calFailed := false, gap := none }

/-- The Supply Monitor after any reset: STARTING, recovery about to read the 64 slots of the ring (R165, R172). -/
def Sup.reset (mainsWarn : Bool) : Sup :=
  { supply := .starting, powered := true, mainsWarn := mainsWarn, debounce := none, rideThrough := 0, lostCkpt := 0,
    restarting := false, stage := .ring, unread := List.range 64, selected := none, ringHeld := false }

/-- A port after any reset (R196): the factory mask holds all eleven kinds. -/
def PortState.reset : PortState :=
  { rx := .hunt, buffer := none, tx := [], notices := 0, mask := BitVec.allOnes 11, view := .none, stalled := 0,
    bad := 0, dropped := 0 }

/-- Every RAM item at its after-reset value, around what a reset keeps: the memory, the backup domain (`tim` with the
run clock at 0 and the settings at their factory values), the pin levels, and the model's own two fields. -/
def State.afterReset (store : Store) (utc subMs : Nat) (valid : Bool) (level0 level1 mainsWarn : Bool) (draws : Nat)
    (pending : List Instr) : State :=
  { frx := .reset
    netting := .vector
    reg := .factory
    tim := { utc := utc, subMs := subMs, valid := valid, retained := true, offset := 0, lastClose := none, runMs := 0,
             resumeFrom := none }
    cal := .reset level0 level1
    set := .factory
    xcc := .reset
    ulc := .reset
    hst := .reset store
    sup := .reset mainsWarn
    upt := .reset
    ppt := .reset
    premLock := false
    draws := draws
    pending := pending }

/-- The machine right after a power-on with a blank store and a lost backup domain: time 2000-01-01 INVALID, STARTING,
recovery beginning (R42, R162, R170). The pin levels are the model's choice (assumption 11). -/
def State.reset : State := State.afterReset [] 0 0 false false false false 0 []

end Sys2Proof.Machine
end

