-- ==== Sys2Proof/Machine/Flags.lean ====
section
/-! DEFINITION. Flag sets: notice sets with their masks and attention lines, checkpoint causes, and the flags of the
open period. -/
namespace Sys2Proof.Machine

/-- The bit of a notice kind: its position in the table of section 10.6 (R197). -/
def Notice.bit : Notice → BitVec 11
  | .band => 1#11
  | .periodClosed => 2#11
  | .closeDeferred => 4#11
  | .capState => 8#11
  | .capRecord => 16#11
  | .frameHealth => 32#11
  | .unit => 64#11
  | .time => 128#11
  | .calendar => 256#11
  | .storeFault => 512#11
  | .supply => 1024#11

/-- The bit of a checkpoint cause: its position in R163's list. -/
def Cause.bit : Cause → CauseSet
  | .periodic => 1#6
  | .close => 2#6
  | .config => 4#6
  | .calendar => 8#6
  | .powerFail => 16#6
  | .restart => 32#6

/-- Whether a set of causes holds a cause. -/
def Cause.isIn (c : Cause) (set : CauseSet) : Bool := set &&& c.bit != 0

/-- A port's notice set takes a kind; a kind already in it stays there once (R189). -/
def PortState.raise (n : Notice) (p : PortState) : PortState := { p with notices := p.notices ||| n.bit }

/-- The attention line, UATN or PATN, is asserted while the set less the kinds outside the mask is not empty (R190). -/
def PortState.attention (p : PortState) : Bool := p.notices &&& p.mask != 0

/-- A notice is added to the sets of both ports at the same moment (R189). -/
def raise (n : Notice) (s : State) : State := { s with upt := s.upt.raise n, ppt := s.ppt.raise n }

/-- An update of the open period's flags (R33). -/
def setFlags (f : PeriodFlags → PeriodFlags) (s : State) : State :=
  { s with reg := { s.reg with flags := f s.reg.flags } }

/-- The byte of the five period flags, in the order of section 2.8 (R197, R203). -/
def PeriodFlags.byte (f : PeriodFlags) : Nat :=
  f.timeInvalidSeen.toNat + 2 * f.frontendFaultSeen.toNat + 4 * f.resyncSeen.toNat + 8 * f.frameLossSeen.toNat
    + 16 * f.restartLoss.toNat

end Sys2Proof.Machine
end

