-- ==== Sys2Proof/Machine/Ops.lean ====
section
/-! DEFINITION. The shared operations: a port of the state, the free order of two occurrences, the passing of run time,
checkpoint requests, and the memory of the History Store. -/
namespace Sys2Proof.Machine

/-! ### Ports -/

def State.port (s : State) : Port → PortState
  | .upt => s.upt
  | .ppt => s.ppt

def State.updPort (p : Port) (f : PortState → PortState) (s : State) : State :=
  match p with
  | .upt => { s with upt := f s.upt }
  | .ppt => { s with ppt := f s.ppt }

/-! ### Free order -/

/-- Of two courses either may be taken: a free value decides (assumption 5). -/
def oneOf (f g : State → State) (s : State) : State :=
  if Config.firstTaken s.draws then f { s with draws := s.draws + 1 } else g { s with draws := s.draws + 1 }

/-- Two occurrences that fall together: either may be taken first (assumption 5). -/
def either (f g : State → State) (s : State) : State := oneOf (fun s => g (f s)) (fun s => f (g s)) s

/-- `f` and `g` fall together; their order is taken as free only where `matters`. -/
def eitherIf (matters : Bool) (f g : State → State) (s : State) : State :=
  if matters then either f g s else g (f s)

/-- A course put into a free place among courses that stand in order, with the count of the free values taken
(assumption 5). -/
def weave (f : State → State) : List (State → State) → Nat → List (State → State) × Nat
  | [], n => ([f], n)
  | g :: rest, n =>
    if Config.firstTaken n then (f :: g :: rest, n + 1)
    else
      let r := weave f rest (n + 1)
      (g :: r.1, r.2)

/-- Courses in an order that free values decide, any order being possible (assumption 5). -/
def freeOrder : List (State → State) → Nat → List (State → State) × Nat
  | [], n => ([], n)
  | f :: rest, n =>
    let r := freeOrder rest n
    weave f r.1 r.2

/-- Courses taken one after another. -/
def inTurn (l : List (State → State)) (s : State) : State := l.foldl (fun t f => f t) s

/-- Several occurrences that fall together: any may be taken first, and any of the others next (assumption 5). -/
def anyOrder (l : List (State → State)) (s : State) : State :=
  let r := freeOrder l s.draws
  inTurn r.1 { s with draws := r.2 }

/-! ### Run time -/

/-- Run time passes up to `t`; the sub-second divider counts the same time, to at most the end of its second, which
SECOND_TICK then takes (assumptions 2, 32). A `t` already past changes nothing. -/
def passTo (t : Nat) (s : State) : State :=
  { s with tim := { s.tim with runMs := max s.tim.runMs t, subMs := min 1000 (s.tim.subMs + (t - s.tim.runMs)) } }

/-! ### Checkpoint requests (R152) -/

/-- A checkpoint is requested with a cause: it makes the outstanding request or joins it; while the area is FAILED the
request is not made. -/
def requestCheckpoint (c : Cause) (s : State) : State :=
  if s.hst.ckptFailed then s
  else { s with hst := { s.hst with ckptReq := some (s.hst.ckptReq.getD 0 ||| c.bit) } }

/-! ### The memory of the History Store (R142, R143) -/

/-- The content of a slot; `none` is BLANK. -/
def Store.at (m : Store) (k : Nat) : Option SlotContent :=
  match m with
  | [] => none
  | (j, c) :: rest => if j = k then some c else Store.at rest k

/-- A slot is BLANK. -/
def Store.blank (m : Store) (k : Nat) : Bool := (Store.at m k).isNone

/-- A slot takes a content, the list staying in order. -/
def Store.put (m : Store) (k : Nat) (c : SlotContent) : Store :=
  match m with
  | [] => [(k, c)]
  | (j, d) :: rest =>
    if k < j then (k, c) :: (j, d) :: rest
    else if k = j then (k, c) :: rest
    else (j, d) :: Store.put rest k c

/-- The slots of a sector are BLANK but for those of `notBlank`, which hold INVALID content (R142, R160). -/
def Store.erased (m : Store) (sector : Nat) (notBlank : BitVec 16) : Store :=
  ((List.range 16).filter fun i => notBlank.getLsbD i).foldl (fun m i => Store.put m (16 * sector + i) .junk)
    (m.filter fun e => e.1 / 16 != sector)

/-- Every slot of a sector is BLANK. -/
def Store.sectorBlank (m : Store) (sector : Nat) : Bool :=
  (List.range 16).all fun i => Store.blank m (16 * sector + i)

/-- The canonical form: slot numbers strictly rising. An entry is never BLANK, by its type. -/
abbrev Store.wf (m : Store) : Prop := (m.map Prod.fst).Pairwise (· < ·)

def updHst (f : Hst → Hst) (s : State) : State := { s with hst := f s.hst }

/-- The sectors whose erase has begun and not ended, running or suspended (R149, R155). -/
def Hst.underErase (h : Hst) (sector : Nat) : Bool :=
  h.suspended == some sector || h.engine == .erase sector

/-- The ring after `sector`: the `len` sectors from `first`, starting behind it and ending with it (R143). -/
def ringAfter (first len sector : Nat) : List Nat :=
  (List.range len).map fun i => first + (sector - first + 1 + i) % len

/-- The next sector of a ring: the first after `sector`, in ring order, that is not retired (R144, R160). -/
def Hst.nextSector (h : Hst) (first len sector : Nat) : Nat :=
  ((ringAfter first len sector).find? fun x => !h.retired.contains x).getD sector

def Hst.nextLog (h : Hst) (sector : Nat) : Nat := h.nextSector 4 6 sector

def Hst.nextRing (h : Hst) (sector : Nat) : Nat := h.nextSector 0 4 sector

/-- A sector is entered in the ERASE list, once, and not while its erase is running or suspended (R148, R154;
assumption 22). -/
def Hst.enterErase (sector : Nat) (h : Hst) : Hst :=
  if h.eraseList.contains sector || h.underErase sector then h else { h with eraseList := h.eraseList ++ [sector] }

/-- A slot is BLANK and not reserved: the reserved slots are those the pending entries are bound to (R144). -/
def Hst.free (h : Hst) (k : Nat) : Bool := Store.blank h.store k && !(h.queue.map (·.slot)).contains k

/-- The free slots of a sector above slot number `ptr`, ascending. -/
def Hst.freeAfter (h : Hst) (ptr sector : Nat) : List Nat :=
  ((List.range 16).map fun i => 16 * sector + i).filter fun k => decide (ptr < k) && h.free k

/-- The candidate slot of R144. -/
def Hst.candidate (h : Hst) : Option Nat :=
  match h.freeAfter h.writePtr h.curLog with
  | k :: _ => some k
  | [] =>
    let next := h.nextLog h.curLog
    if next != h.curLog && Store.sectorBlank h.store next then some (16 * next) else none

/-- The margin behind a candidate (R144). -/
def Hst.margin (h : Hst) (k : Nat) : Nat :=
  let next := h.nextLog (k / 16)
  (h.freeAfter k (k / 16)).length + if next != k / 16 && Store.sectorBlank h.store next then 16 else 0

/-- The slot a reservation would be granted, if it is granted (R144). -/
def Hst.grant (h : Hst) : Option Nat :=
  if h.queue.length < 2 && !h.logFailed then
    match h.candidate with
    | some k => if 3 ≤ h.margin k then some k else none
    | none => none
  else none

/-- The log pre-erase (R148). -/
def Hst.judgeLogPreErase (h : Hst) : Hst :=
  let next := h.nextLog h.curLog
  if (h.freeAfter h.writePtr h.curLog).length ≤ 4 && !Store.sectorBlank h.store next && next != h.curLog then
    h.enterErase next
  else h

/-- The write pointer moves to a reserved slot, and the current sector with it (R144). -/
def Hst.reserve (k : Nat) (h : Hst) : Hst := { h with writePtr := k, curLog := k / 16 }

/-- A record position of the checkpoint ring, 8 × sector + position, is used once either slot is not BLANK (R151). -/
def Hst.positionUsed (h : Hst) (p : Nat) : Bool := !Store.blank h.store (2 * p) || !Store.blank h.store (2 * p + 1)

/-- The next record position, if one is available (R151, R173). -/
def Hst.nextPosition (h : Hst) : Option Nat :=
  let sect := h.ckptSector
  let from0 := match h.ckptLast with
    | some p => p + 1
    | none => 0
  match ((List.range 8).filter fun p => decide (from0 ≤ p) && !h.positionUsed (8 * sect + p)) with
  | p :: _ => some (8 * sect + p)
  | [] =>
    let next := h.nextRing sect
    if next != sect && Store.sectorBlank h.store next then some (8 * next) else none

/-- The ring pre-erase (R151). The Bool says that the ring can go on nowhere and the area becomes FAILED. -/
def Hst.judgeRingPreErase (h : Hst) : Hst × Bool :=
  let next := h.nextRing h.ckptSector
  let used := ((List.range 8).filter fun p => h.positionUsed (8 * h.ckptSector + p)).length
  if next == h.ckptSector then (h, used == 8)
  else if 4 ≤ used && !Store.sectorBlank h.store next then (h.enterErase next, false)
  else (h, false)

/-- The checkpoint area is marked FAILED: requests stop and what waits is dropped (R152, R159; assumption 38). -/
def failCheckpoints (s : State) : State :=
  raise .storeFault
    { s with hst := { s.hst with ckptFailed := true, ckptReq := none, ckptRetry := none } }

/-- The ring pre-erase is judged, and the area marked FAILED where R151 says so. -/
def judgeRing (s : State) : State :=
  let (h, dead) := s.hst.judgeRingPreErase
  if dead && !s.hst.ckptFailed then failCheckpoints { s with hst := h } else { s with hst := h }

end Sys2Proof.Machine
end

