-- ==== Sys2Proof/Machine/Link.lean ====
section
/-! DEFINITION. The Unit Link Controller's shared operations: the active set, the sharing of the site allowance, and
the exchanges of a poll cycle (chapter 7). -/
namespace Sys2Proof.Machine

/-- The four unit numbers, ascending. -/
abbrev unitNumbers : List (Fin 4) := [0, 1, 2, 3]

/-- Effective standby (R123). -/
def UnitConfig.effStandby (c : UnitConfig) : Bool := c.standby && !c.maskOff

def UnitEntry.reportsFault (u : UnitEntry) : Bool :=
  match u.last with
  | some r => r.status == .fault
  | none => false

/-- Membership of the active set (R135). -/
def UnitEntry.isActive (u : UnitEntry) : Bool :=
  u.cfg.enable && u.link == .online && !u.cfg.effStandby && !u.reportsFault

def Ulc.activeSet (l : Ulc) : List (Fin 4) := unitNumbers.filter fun i => l.units[i].isActive

/-- A unit's weight: that of the slot it names (R126). -/
def Ulc.weight (l : Ulc) (i : Fin 4) : Nat := l.weights[l.units[i].cfg.slot]

/-- The output of a unit's last report, 0 when there is none. -/
def UnitEntry.output (u : UnitEntry) : Nat :=
  match u.last with
  | some r => r.output
  | none => 0

/-- G: the last reports of the units that are enabled and ONLINE or OFFLINE (R118). -/
def Ulc.generation (l : Ulc) : Nat :=
  ((unitNumbers.filter fun i =>
    l.units[i].cfg.enable && (l.units[i].link == .online || l.units[i].link == .offline)).map
      fun i => l.units[i].output).sum

/-- What OFFLINE units may still be producing, taken out of the pool (R136). -/
def Ulc.offlineOutput (l : Ulc) : Nat :=
  ((unitNumbers.filter fun i => l.units[i].cfg.enable && l.units[i].link == .offline).map
    fun i => l.units[i].output).sum

/-- The allocation pool (R136 item 1). -/
def Ulc.sharePool (l : Ulc) : Nat := l.handA.getD 0 - l.offlineOutput

/-- W, the weights of the active set (R136 item 2). -/
def Ulc.totalWeight (l : Ulc) : Nat := (l.activeSet.map l.weight).sum

/-- A unit's share before the remainder (R136 item 3). -/
def Ulc.rawShare (l : Ulc) (i : Fin 4) : Nat := l.sharePool * l.weight i / l.totalWeight

/-- The remainder (R136 item 4). -/
def Ulc.remainder (l : Ulc) : Nat := l.sharePool - (l.activeSet.map l.rawShare).sum

/-- A unit's share, the remainder going to the lowest-numbered unit of the active set (R136). -/
def Ulc.share (l : Ulc) (i : Fin 4) : Nat :=
  l.rawShare i + if l.activeSet.head? = some i then l.remainder else 0

/-- Whether a site allowance is shared: CURTAILING or FAILSAFE (R136). -/
def Ulc.curtailed (l : Ulc) : Bool := l.handState == .curtailing || l.handState == .failsafe

/-- The allowance in force a sharing gives a unit (R138). -/
def Ulc.allowanceFor (l : Ulc) (i : Fin 4) : Option Nat :=
  let u := l.units[i]
  if !u.cfg.enable then none
  else if u.cfg.effStandby then some 0
  else if l.curtailed then (if u.isActive then some (l.share i) else some 0)
  else none

/-- The sharing of R136 to R139: every unit's allowance at once, the pool, and "no active unit". -/
def Ulc.reshare (l : Ulc) : Ulc :=
  { l with
    units := Vector.ofFn fun i => { l.units[i] with allowance := l.allowanceFor i }
    pool := if l.curtailed then some l.sharePool else none
    noActive := l.curtailed && l.activeSet.isEmpty }

def share (s : State) : State := { s with ulc := s.ulc.reshare }

/-- The Export Cap Controller hands the curtailment state and the site allowance on, and the ULC shares (R120, R137). -/
def handOn (s : State) : State :=
  share { s with ulc := { s.ulc with handState := s.xcc.state, handA := s.xcc.allowance } }

def Ulc.updUnit (i : Fin 4) (f : UnitEntry → UnitEntry) (l : Ulc) : Ulc :=
  { l with units := l.units.set i (f l.units[i]) }

/-- The sharing that follows a change of the units (R137): with the active set changed it is reported to the Export Cap
Controller, which in FAILSAFE hands the fail-safe cap on again (R119, R135). -/
def activeSetChanged (s : State) : State :=
  if s.xcc.state = .failsafe then handOn { s with xcc := { s.xcc with allowance := some s.xcc.cfg.fsc } } else share s

/-- The sharing on a change of the units from `before` that always shares, through the Export Cap Controller where the
active set has changed (R135, R137). -/
def shareAnyway (before : Ulc) (s : State) : State :=
  if s.ulc.activeSet ≠ before.activeSet then activeSetChanged s else share s

/-- The enabled OFFLINE units, whose outputs correct the pool (R137). -/
def Ulc.offlineSet (l : Ulc) : List (Fin 4) :=
  unitNumbers.filter fun i => l.units[i].cfg.enable && l.units[i].link == .offline

/-- The enabled ONLINE units (R131). -/
def Ulc.onlineSet (l : Ulc) : List (Fin 4) :=
  unitNumbers.filter fun i => l.units[i].cfg.enable && l.units[i].link == .online

/-- The sharing on a change of a unit from `before`: the active set, or a unit into or out of ONLINE or OFFLINE (R131,
R137). -/
def shareIfChanged (before : Ulc) (s : State) : State :=
  if s.ulc.activeSet ≠ before.activeSet then activeSetChanged s
  else if s.ulc.offlineSet ≠ before.offlineSet ∨ s.ulc.onlineSet ≠ before.onlineSet then share s
  else s

/-! ### Exchanges (R127 to R129) -/

/-- The allowance sequence of the next ALLOWANCE message: one more when the allowance in force differs from the one
last sent (R128). -/
def UnitEntry.nextSeq (u : UnitEntry) : Byte :=
  match u.lastSent with
  | none => u.seq
  | some a => if a = u.allowance then u.seq else u.seq + 1

/-- An ALLOWANCE message to unit `i` is formed and begins to be sent (R128). -/
def Ulc.sendAllowance (i : Fin 4) (l : Ulc) : Ulc :=
  let u := l.units[i]
  { l.updUnit i fun u => { u with seq := u.nextSeq, lastSent := some u.allowance } with
    exchange := .sending { unit := i, allowance := u.allowance, seq := u.nextSeq } }

/-- The exchange ends, and the next unit of the cycle is polled (R127). -/
def Ulc.nextExchange (l : Ulc) : Ulc :=
  match l.rest with
  | [] => { l with exchange := .none }
  | i :: rest => { l with rest := rest }.sendAllowance i

/-- A poll cycle begins: the units enabled at that moment, ascending (R127). -/
def Ulc.beginCycle (now : Nat) (l : Ulc) : Ulc :=
  { l with nextCycle := now + 250, rest := unitNumbers.filter fun i => l.units[i].cfg.enable }.nextExchange

def beginCycle (s : State) : State := { s with ulc := s.ulc.beginCycle s.tim.runMs }

/-- A miss of unit `i` (R131). -/
def UnitEntry.missed (u : UnitEntry) : UnitEntry :=
  match u.link with
  | .disabled | .offline => u
  | .probing | .online =>
    if 3 ≤ u.miss + 1 then { u with miss := 3, link := .offline } else { u with miss := u.miss + 1 }

/-- A valid report of a unit, echoing `r.echo` where `sent` was the sequence of the exchange (R130 to R132). -/
def UnitEntry.reported (r : Report) (sent : Byte) (u : UnitEntry) : UnitEntry :=
  let mismatch := if r.echo = sent then 0 else min 8 (u.mismatch + 1)
  { u with
    last := some r
    link := if u.link = .disabled then .disabled else .online
    miss := 0
    mismatch := mismatch
    notFollowing := if r.echo = sent then false else u.notFollowing || decide (8 ≤ u.mismatch + 1) }

/-- An update of unit `i` at the end of its exchange: a change of its link state or of its not-following flag raises
UNIT (R134), the allowances are shared again where R137 says so, and then the next exchange begins, so that the next unit
is sent its new allowance at once, as in the worked example of section 7.5 (assumption 33). -/
def endExchange (i : Fin 4) (f : UnitEntry → UnitEntry) (s : State) : State :=
  let u := s.ulc.units[i]
  let s1 := { s with ulc := s.ulc.updUnit i f }
  let s2 := if (f u).link ≠ u.link ∨ (f u).notFollowing ≠ u.notFollowing then raise .unit s1 else s1
  let s3 := shareIfChanged s.ulc s2
  { s3 with ulc := s3.ulc.nextExchange }

/-- Every unit's link state after a link-enable change (R131): DISABLED forgets what R131 lists. -/
def UnitEntry.setEnable (on : Bool) (u : UnitEntry) : UnitEntry :=
  if on = u.cfg.enable then u
  else if on then
    { u with cfg := { u.cfg with enable := true }, link := .probing, miss := 0, last := none }
  else
    { u with cfg := { u.cfg with enable := false }, link := .disabled, miss := 0, last := none, lastSent := none,
             mismatch := 0, notFollowing := false }

/-- The exchange in progress is with unit `i` (R127). -/
def Ulc.exchangesWith (i : Fin 4) (l : Ulc) : Bool :=
  match l.exchange with
  | .none => false
  | .sending m => m.unit == i
  | .window m _ _ => m.unit == i

/-- A unit disabled during a cycle is not polled again in it, and an exchange in progress with it is abandoned, the
next beginning (R127), also where its ALLOWANCE message is still being sent (assumption 56). -/
def Ulc.dropFromCycle (i : Fin 4) (l : Ulc) : Ulc :=
  let left := { l with rest := l.rest.filter (· ≠ i) }
  if l.exchangesWith i then left.nextExchange else left

def dropUnit (i : Fin 4) (s : State) : State := { s with ulc := s.ulc.dropFromCycle i }

/-- The disable of unit `i` brings a poll: the exchange in progress is with it, and another unit of the cycle follows
(R127). -/
def Ulc.dropPolls (i : Fin 4) (l : Ulc) : Bool := l.exchangesWith i && l.rest.any (· ≠ i)

/-- Polling stops at once at the entry to WARNING (R133). The units keep their miss counts, and misses after the return
count on from them (assumption 54). -/
def Ulc.stopPolling (l : Ulc) : Ulc := { l with rest := [], exchange := .none }

/-- The ULC's running state at stage 8 of recovery: each enabled unit PROBING (R141, R179). -/
def Ulc.establish (l : Ulc) : Ulc :=
  { l with units := Vector.ofFn fun i =>
      { l.units[i] with link := if l.units[i].cfg.enable then .probing else .disabled } }

end Sys2Proof.Machine
end

