-- ==== Sys2Proof/Machine/Cap.lean ====
section
/-! DEFINITION. The Export Cap Controller's shared operations: the effective cap, curtailment states, the site
allowance, and what frames, health changes and record changes do to them (chapter 6). -/
namespace Sys2Proof.Machine

/-- The effective cap with its hysteresis, or absent (R106). -/
def CapSettings.ceff (c : CapSettings) : Option (Nat × Nat) :=
  match c.util, c.prem with
  | none, none => none
  | some u, none => some (u.limit, u.hyst)
  | none, some p => some (p.limit, p.hyst)
  | some u, some p =>
    if u.limit < p.limit then some (u.limit, u.hyst)
    else if p.limit < u.limit then some (p.limit, p.hyst)
    else some (u.limit, max u.hyst p.hyst)

/-- The curtailment state and what goes with it change together: CAP_STATE is raised and the result handed on (R117,
R120). -/
def changeCurt (x : Xcc) (s : State) : State := handOn (raise .capState { s with xcc := x })

/-- Entry to FAILSAFE (R114): Q keeps its value. -/
def Xcc.toFailsafe (x : Xcc) : Xcc :=
  { x with state := .failsafe, holdEnd := none, load := none, allowance := some x.cfg.fsc }

/-- Entry to UNCAPPED (R106). -/
def Xcc.toUncapped (x : Xcc) : Xcc :=
  { x with state := .uncapped, q := 0, holdEnd := none, load := none, allowance := none }

/-- Entry to NORMAL from UNCAPPED, or of CURTAILING's end (R106, R112); Q is 0 in both. -/
def Xcc.toNormal (x : Xcc) : Xcc :=
  { x with state := .normal, q := 0, holdEnd := none, load := none, allowance := none }

/-- FAILSAFE left for CURTAILING at run time `now`: Q is T, the hold starts, A stands (R115). -/
def Xcc.leaveFailsafe (now : Nat) (x : Xcc) : Xcc :=
  { x with state := .curtailing, q := x.cfg.trip, holdEnd := some (now + 1000 * x.cfg.hold), load := none }

/-- Entry to FAILSAFE where the state is NORMAL or CURTAILING, a cap is present and fail-safe enabled (R108, R114). -/
def failsafeIfDue (s : State) : State :=
  if s.xcc.cfg.fsEnable && s.xcc.cfg.ceff.isSome && (s.xcc.state == .normal || s.xcc.state == .curtailing) then
    changeCurt s.xcc.toFailsafe s
  else s

/-- A change of frame health reaches the Export Cap Controller (R114 to R116). -/
def capHealth (h : Health) (s : State) : State :=
  match h with
  | .lost => failsafeIfDue s
  | .locked => if s.xcc.state = .failsafe then changeCurt (s.xcc.leaveFailsafe s.tim.runMs) s else s
  | _ => s

/-- The cap records have changed from `before`: Ceff appears, stays or becomes absent (R106, R113). -/
def capRecordsChanged (before : CapSettings) (s : State) : State :=
  if s.xcc.cfg.ceff.isSome && !before.ceff.isSome then
    if s.xcc.cfg.fsEnable && s.frx.health == .lost then changeCurt s.xcc.toFailsafe s
    else changeCurt s.xcc.toNormal s
  else if !s.xcc.cfg.ceff.isSome && before.ceff.isSome then changeCurt s.xcc.toUncapped s
  else s

/-- A change of the cap records by a request or by expiry: CAP_RECORD is raised and Ceff formed again (R102, R105,
R106). -/
def setCapRecords (f : CapSettings → CapSettings) (s : State) : State :=
  capRecordsChanged s.xcc.cfg (raise .capRecord { s with xcc := { s.xcc with cfg := f s.xcc.cfg } })

/-- A record's expiry has come at UTC count `utc` (R105). -/
def CapRecord.expired (utc : Nat) (r : CapRecord) : Bool :=
  match r.expiry with
  | some e => decide (e ≤ utc)
  | none => false

/-- A record that has not expired stays. -/
def keepUnexpired (utc : Nat) (r : Option CapRecord) : Option CapRecord :=
  match r with
  | some r => if r.expired utc then none else some r
  | none => none

/-- The expiry check of R105 against the present wall time. -/
def capExpiry (s : State) : State :=
  let cfg := { s.xcc.cfg with
    util := keepUnexpired s.tim.utc s.xcc.cfg.util, prem := keepUnexpired s.tim.utc s.xcc.cfg.prem }
  if s.tim.valid && decide (cfg ≠ s.xcc.cfg) then setCapRecords (fun _ => cfg) s else s

/-- The export power of a frame: (−S × 144) / 10 truncated toward zero (R109). -/
def exportPower (sum : Int) : Int := (-sum * 144).tdiv 10

/-- The qualification counter at a frame with export power `xs` (R110). -/
def qualify (xs : Int) (limit hyst trip q : Nat) : Nat :=
  if (limit : Int) < xs then min trip (q + 1)
  else if xs < (limit : Int) - hyst then q - 1
  else q

/-- The load estimate (R118). -/
def loadEstimate (generation : Nat) (xs : Int) : Nat := ((generation : Int) - xs).toNat

/-- The hold is a condition: it has expired when the run time is at or past its end (R112). -/
def holdExpired (now : Nat) (holdEnd : Option Nat) : Bool :=
  match holdEnd with
  | some t => decide (t ≤ now)
  | none => true

/-- The site allowance of a frame taken in CURTAILING (R118). -/
def Xcc.formAllowance (xs : Int) (limit generation : Nat) (x : Xcc) : Xcc :=
  { x with load := some (loadEstimate generation xs),
           allowance := some (min (limit + loadEstimate generation xs) 100000) }

/-- The four stages of an accepted frame (R111): the export power is recorded; Q is updated; the transitions are judged;
in CURTAILING the allowance is formed and handed on. -/
def capFrame (sum : Int) (s : State) : State :=
  let xs := exportPower sum
  let s := { s with xcc := { s.xcc with lastXs := some xs } }
  match s.xcc.state, s.xcc.cfg.ceff with
  | .normal, some (limit, hyst) =>
    let q := qualify xs limit hyst s.xcc.cfg.trip s.xcc.q
    let x := { s.xcc with q := q }
    if q = x.cfg.trip then
      changeCurt
        ({ x with state := .curtailing, holdEnd := some (s.tim.runMs + 1000 * x.cfg.hold) }.formAllowance xs limit
          s.ulc.generation) s
    else { s with xcc := x }
  | .curtailing, some (limit, hyst) =>
    let q := qualify xs limit hyst s.xcc.cfg.trip s.xcc.q
    let x := { s.xcc with q := q }
    if holdExpired s.tim.runMs x.holdEnd && q == 0 then changeCurt x.toNormal s
    else handOn { s with xcc := x.formAllowance xs limit s.ulc.generation }
  | _, _ => s

/-- The control settings change, and reach the running state at once (R107, R108). -/
def setCapControl (fsc : Option Nat) (enable : Option Bool) (trip hold : Option Nat) (s : State) : State :=
  let old := s.xcc
  let cfg := { old.cfg with
    fsc := fsc.getD old.cfg.fsc, fsEnable := enable.getD old.cfg.fsEnable, trip := trip.getD old.cfg.trip,
    hold := hold.getD old.cfg.hold }
  let s : State := { s with xcc := { old with cfg := cfg, q := min old.q cfg.trip } }
  let s : State :=
    if s.xcc.state = .failsafe ∧ cfg.fsc ≠ old.cfg.fsc then handOn { s with xcc := { s.xcc with allowance := some cfg.fsc } }
    else s
  if cfg.fsEnable && !old.cfg.fsEnable && s.frx.health == .lost then failsafeIfDue s else s

/-- The running state at stage 8 of recovery, no change of state and so no notice (R117, R122). -/
def establishCap (s : State) : State :=
  if s.xcc.cfg.ceff.isSome then
    if s.xcc.cfg.fsEnable && s.frx.health == .lost then { s with xcc := { s.xcc.toFailsafe with q := 0 } }
    else { s with xcc := s.xcc.toNormal }
  else { s with xcc := s.xcc.toUncapped }

end Sys2Proof.Machine
end

