-- ==== Sys2Proof/Machine/Energy.lean ====
section
/-! DEFINITION. The Netting Engine and the Register Bank: the effective values of a frame, the increments, the
residues, the booking, and the band fold (chapters 1 and 2). -/
namespace Sys2Proof.Machine

/-- The front end's status codes (R7, R199). -/
inductive FeStatus where
  | ok | saturated | calFault
  deriving DecidableEq, Repr

/-- A checked phase frame (R199). -/
structure PhaseFrame where
  seq : Byte
  p1 : Int
  p2 : Int
  p3 : Int
  present1 : Bool
  present2 : Bool
  present3 : Bool
  status : FeStatus
  deriving DecidableEq, Repr

/-- What a phase value counts for (R6). -/
def effective (present : Bool) (p : Int) : Int :=
  if present then (if p < -2047 then -2047 else if 2047 < p then 2047 else p) else 0

/-- Whether a phase value is clamped (R6). -/
def isClamped (present : Bool) (p : Int) : Nat := if present ∧ (p < -2047 ∨ 2047 < p) then 1 else 0

def PhaseFrame.e1 (f : PhaseFrame) : Int := effective f.present1 f.p1
def PhaseFrame.e2 (f : PhaseFrame) : Int := effective f.present2 f.p2
def PhaseFrame.e3 (f : PhaseFrame) : Int := effective f.present3 f.p3

/-- The site sum S (R19, R20). -/
def PhaseFrame.siteSum (f : PhaseFrame) : Int := f.e1 + f.e2 + f.e3

/-- How many phase values a frame clamps (R6). -/
def PhaseFrame.clampCount (f : PhaseFrame) : Nat :=
  isClamped f.present1 f.p1 + isClamped f.present2 f.p2 + isClamped f.present3 f.p3

/-- The import increment (R19, R20). -/
def importOf (m : Netting) (p1 p2 p3 : Int) : Nat :=
  match m with
  | .vector => (p1 + p2 + p3).toNat
  | .phase => p1.toNat + p2.toNat + p3.toNat

/-- The export increment (R19, R20). -/
def exportOf (m : Netting) (p1 p2 p3 : Int) : Nat :=
  match m with
  | .vector => (-(p1 + p2 + p3)).toNat
  | .phase => (-p1).toNat + (-p2).toNat + (-p3).toNat

/-- An addition to an energy register, modulo 10^9 (R24, R32). -/
def addWh (a w : Nat) : Nat := (a + w) % whModulus

/-- The booking of an increment pair to a band (R22, R23). -/
def RegBank.book (i e : Nat) (b : Fin 8) (r : RegBank) : RegBank :=
  { r with
    ri := (r.ri + i) % 1000
    re := (r.re + e) % 1000
    ti := addWh r.ti ((r.ri + i) / 1000)
    te := addWh r.te ((r.re + e) / 1000)
    imp := r.imp.set b (addWh r.imp[b] ((r.ri + i) / 1000))
    exp := r.exp.set b (addWh r.exp[b] ((r.re + e) / 1000)) }

/-- The fold of one register set: the bands at or above `nb` go into the fallback band, one after another (R28). -/
def foldBands (nb : Nat) (fb : Fin 8) (v : Vector Nat 8) : Vector Nat 8 :=
  ([0, 1, 2, 3, 4, 5, 6, 7] : List (Fin 8)).foldl
    (fun v b => if nb ≤ b.val ∧ b ≠ fb then (v.set fb (addWh v[fb] v[b])).set b 0 else v) v

/-- The band fold (R28). -/
def RegBank.fold (nb : Nat) (fb : Fin 8) (r : RegBank) : RegBank :=
  { r with imp := foldBands nb fb r.imp, exp := foldBands nb fb r.exp }

end Sys2Proof.Machine
end

