-- ==== Sys2Proof/Machine/Clock.lean ====
section
/-! DEFINITION. Dates and local time (R39, R45): days counted from 2000-01-01, the Gregorian calendar, weekdays. -/
namespace Sys2Proof.Machine

/-- A Gregorian date. -/
structure Date where
  year : Nat
  month : Nat
  day : Nat
  deriving DecidableEq, Repr

/-- Leap years (R39). -/
def isLeap (y : Nat) : Bool := y % 4 == 0 && (y % 100 != 0 || y % 400 == 0)

def daysInMonth (y m : Nat) : Nat :=
  if m = 2 then (if isLeap y then 29 else 28)
  else if m = 4 ∨ m = 6 ∨ m = 9 ∨ m = 11 then 30
  else if 1 ≤ m ∧ m ≤ 12 then 31 else 0

/-- A month-day that exists in year `y`. -/
def validDate (y m d : Nat) : Bool := decide (1 ≤ d) && decide (d ≤ daysInMonth y m)

/-- A month-day, where 29 February is valid (R53). -/
def validMonthDay (m d : Nat) : Bool := validDate 2000 m d

/-- Days from 0000-03-01 to 2000-01-01. -/
abbrev epochShift : Nat := 730425

/-- The date of a day counted from 2000-01-01 (R39, R45), by 400-year eras that begin on 1 March. -/
def dateOf (day : Nat) : Date :=
  let z := day + epochShift
  let doe := z % 146097
  let yoe := (doe - doe / 1460 + doe / 36524 - doe / 146096) / 365
  let doy := doe - (365 * yoe + yoe / 4 - yoe / 100)
  let mp := (5 * doy + 2) / 153
  let m := if mp < 10 then mp + 3 else mp - 9
  { year := yoe + z / 146097 * 400 + if m ≤ 2 then 1 else 0, month := m, day := doy - (153 * mp + 2) / 5 + 1 }

/-- The day, counted from 2000-01-01, of a date from 2000 on. -/
def dayNumber (y m d : Nat) : Nat :=
  let y' := if m ≤ 2 then y - 1 else y
  let yoe := y' % 400
  let doy := (153 * ((m + 9) % 12) + 2) / 5 + d - 1
  y' / 400 * 146097 + (yoe * 365 + yoe / 4 - yoe / 100 + doy) - epochShift

/-- The weekday of a day, Monday 0 to Sunday 6: day 0 was a Saturday (R45). -/
def weekdayOf (day : Nat) : Fin 7 := Fin.ofNat 7 (day + 5)

/-- Local time in seconds since local 2000-01-01, taken as 0 before it (R45). -/
def localSeconds (utc : Nat) (offset : Int) : Nat := ((utc : Int) + 60 * offset).toNat

def Tim.localSec (t : Tim) : Nat := localSeconds t.utc t.offset

def Tim.localDay (t : Tim) : Nat := t.localSec / 86400

/-- The local minute of day, 0..1,439 (R45). -/
def Tim.localMinute (t : Tim) : Nat := t.localSec % 86400 / 60

def Tim.wall (t : Tim) : WallTime := { utc := t.utc, valid := t.valid }

/-- The capture time of a read: the UTC count, or absent when time is INVALID (R36, R193). -/
def Tim.stamp (t : Tim) : Option Nat := if t.valid then some t.utc else none

end Sys2Proof.Machine
end

