-- ==== Sys2Proof/Machine/Tariff.lean ====
section
/-! DEFINITION. The Tariff Calendar's shared operations: band evaluation, override lines, whole-calendar validation,
passive edits, image write requests, and the activation itself (chapter 4). -/
namespace Sys2Proof.Machine

/-- nb of a calendar: the number of its bands, 0 when it has no band table. -/
def Calendar.nb (c : Calendar) : Nat :=
  match c.bands with
  | some t => t.entries.length
  | none => 0

def Calendar.fallback (c : Calendar) : Fin 8 :=
  match c.bands with
  | some t => t.fallback
  | none => 0

/-- The present entries of an indexed table with their indices, ascending. -/
def presentOf {α : Type} {n : Nat} (v : Vector (Option α) n) : List (Nat × α) :=
  (List.range n).filterMap fun i => if h : i < n then v[i].map fun a => (i, a) else none

/-! ### Band evaluation (R55 to R58, R62) -/

/-- The order of month-days within a year. -/
def monthDayKey (month day : Nat) : Nat := 32 * month + day

/-- The season with the latest start among some (R57). -/
def latestSeason (l : List Season) : Option Season :=
  l.foldl (fun best x =>
    match best with
    | none => some x
    | some b => if monthDayKey b.month b.day < monthDayKey x.month x.day then some x else some b) none

/-- The season in force on a month-day (R57). -/
def Calendar.seasonFor (c : Calendar) (month day : Nat) : Option Season :=
  let all := (presentOf c.seasons).map (·.2)
  match latestSeason (all.filter fun x => decide (monthDayKey x.month x.day ≤ monthDayKey month day)) with
  | some x => some x
  | none => latestSeason all

/-- The day profile of a special day on a full date, or else on its month-day (R57). -/
def Calendar.specialFor (c : Calendar) (d : Date) : Option (Fin 12) :=
  let all := (presentOf c.specials).map (·.2)
  match all.find? fun x => x.date = .full d.year d.month d.day with
  | some x => some x.profile
  | none => (all.find? fun x => x.date = .recurring d.month d.day).map (·.profile)

/-- The day profile for a local day, with its source (R57). -/
def Calendar.profileFor (c : Calendar) (day : Nat) : Option (Fin 12 × BandSource) :=
  let d := dateOf day
  match c.specialFor d with
  | some p => some (p, .specialDay)
  | none =>
    match c.seasonFor d.month d.day with
    | none => none
    | some season =>
      match c.weeks[season.week] with
      | none => none
      | some week => some (week[weekdayOf day], .schedule)

/-- The band of a day profile at a minute of day: the latest point at or before it, or the profile's last (R58). -/
def bandAt (points : List SwitchPoint) (minute : Nat) : Option (Fin 8) :=
  match points.reverse.find? fun x => decide (x.minute ≤ minute) with
  | some x => some x.band
  | none => points.getLast?.map (·.band)

/-- The calendar band with its source (R57, R58). A calendar that has passed validation always gives one; where a table
is missing the fallback band stands in (assumption 31). -/
def Calendar.bandFor (c : Calendar) (day minute : Nat) : Fin 8 × BandSource :=
  match c.profileFor day with
  | none => (c.fallback, .schedule)
  | some (p, src) =>
    match c.days[p] with
    | none => (c.fallback, src)
    | some points => ((bandAt points minute).getD c.fallback, src)

/-- An override line's effective value (R59). -/
def OvLine.effective (l : OvLine) : Bool :=
  match l.source with
  | .pin => l.debounced
  | .virtual => l.virt

/-- The index of the override map entry the lines select: (OV1, OV0) (R62). -/
def Cal.mapIndex (c : Cal) : Fin 4 :=
  match c.lines[1].effective, c.lines[0].effective with
  | false, false => 0
  | false, true => 1
  | true, false => 2
  | true, true => 3

/-- The evaluation of the band in effect (R55, R56, R62). -/
def evaluate (t : Tim) (c : Cal) : Fin 8 × BandSource :=
  if t.valid then
    match c.map[c.mapIndex] with
    | .calendar => c.active.bandFor t.localDay t.localMinute
    | .force k => if k.val < c.active.nb then (k, .override) else (c.active.fallback, .overrideFallback)
  else (c.active.fallback, .timeFallback)

/-- The band is evaluated; a new band raises BAND (R55). -/
def evalBand (s : State) : State :=
  let r := evaluate s.tim s.cal
  let s1 := { s with cal := { s.cal with band := r.1, source := r.2 } }
  if r.1 ≠ s.cal.band then raise .band s1 else s1

/-- An override change is evaluated (R55), but not in STARTING: the band is 0 with source SCHEDULE until the start-up
evaluation at the end of recovery (R78). -/
def overrideChange (s : State) : State := if s.sup.supply = .starting then s else evalBand s

/-- An update of one override line; when its effective value changes it is an override change (R59 to R61). -/
def updLine (i : Fin 2) (f : OvLine → OvLine) (s : State) : State :=
  let l := s.cal.lines[i]
  let s1 := { s with cal := { s.cal with lines := s.cal.lines.set i (f l) } }
  if (f l).effective ≠ l.effective then overrideChange s1 else s1

/-! ### Whole-calendar validation (R69) -/

/-- A failure: the table in R69's order, BANDS 1 to SPECIAL 5, and the index. -/
abbrev CalFault := Nat × Nat

/-- The first of some checks that fails. -/
def firstFault (checks : List (Bool × CalFault)) : Option CalFault :=
  (checks.find? fun c => !c.1).map (·.2)

/-- R69's conditions over a calendar, in its order. -/
def Calendar.checks (c : Calendar) : List (Bool × CalFault) :=
  let entries := match c.bands with
    | some t => t.entries
    | none => []
  let nb := entries.length
  let seasons := presentOf c.seasons
  let specials := presentOf c.specials
  let hasDay (d : Fin 12) : Bool := c.days[d].isSome
  [(c.bands.isSome, (1, 0)), (decide (c.fallback.val < nb), (1, 0))] ++
  entries.zipIdx.map (fun (e, i) =>
    (decide (e.rank.val < nb) && !((entries.take i).map (·.rank)).contains e.rank, (1, i))) ++
  [(!seasons.isEmpty, (2, 0))] ++
  seasons.map (fun (i, x) =>
    (c.weeks[x.week].isSome &&
      !(seasons.any fun (j, y) => decide (j < i) && y.month == x.month && y.day == x.day), (2, i))) ++
  (presentOf c.weeks).map (fun (i, w) => (w.toList.all hasDay, (3, i))) ++
  (presentOf c.days).map (fun (i, points) => (points.all fun p => decide (p.band.val < nb), (4, i))) ++
  specials.map (fun (i, x) =>
    (hasDay x.profile && !(specials.any fun (j, y) => decide (j < i) && y.date == x.date), (5, i)))

/-- Whole-calendar validation: the first failure, if any (R69). -/
def Calendar.validate (c : Calendar) : Option CalFault := firstFault c.checks

/-! ### Image writes (R71, R153) -/

/-- The image sector that is not designated for the active calendar, or 10 when none is (R71). -/
def Cal.writeSector (c : Cal) : Nat := if c.designation = some 10 then 11 else 10

/-- A calendar image write of the passive calendar is requested; it replaces one waiting for its sector (R71, R153).
While the area is FAILED it ends failed at once, with no effect on the calendar. -/
def requestImage (s : State) : State :=
  let sector := s.cal.writeSector
  let s := { s with cal := { s.cal with passiveAt := sector } }
  if s.hst.calFailed then s
  else
    let w : CalWrite := { sector := sector, ofActive := false }
    updHst (fun h => { h with calWaiting :=
      if (h.calWaiting.any (·.sector == sector)) then h.calWaiting.map fun x => if x.sector = sector then w else x
      else h.calWaiting ++ [w] }) s

/-- An owed activation is cancelled; the close stays owed (R64, R70). -/
def cancelOwedActivation (s : State) : State :=
  { s with set := { s.set with owed := s.set.owed.map fun o => { o with calFlag := false } } }

/-- Whether an activation is owed: the calendar-activation-owed flag of the owed-close record. -/
def State.activationOwed (s : State) : Bool :=
  match s.set.owed with
  | some o => o.calFlag
  | none => false

/-- The common effects of a passive edit that leaves the passive calendar `c` (R64). -/
def passiveEdit (c : Calendar) (s : State) : State :=
  let changed := s.cal.activation.isSome || s.activationOwed || s.cal.persisted
  let s := cancelOwedActivation
    { s with cal := { s.cal with passive := some c, activation := none, persisted := false } }
  let s := updHst (fun h => { h with
    calWaiting := h.calWaiting.filter (·.ofActive)
    calJob := h.calJob.map fun j => if j.grantedActive then j else { j with edited := true } }) s
  if changed then requestCheckpoint .config s else s

/-- The activation within a close, its four stages (R75, R76): the passive calendar becomes the active one, the
designation swaps, the band is evaluated, CALENDAR is raised and a checkpoint requested. The image writes of the
passive calendar become writes of the active one (R71). -/
def activate (s : State) : State :=
  match s.cal.passive with
  | none => s
  | some c =>
    let s := { s with cal := { s.cal with
      active := c, passive := none, designation := some s.cal.passiveAt, imageHeld := s.cal.persisted,
      persisted := false } }
    let s := updHst (fun h => { h with
      calWaiting := h.calWaiting.map fun w => { w with ofActive := true }
      calJob := h.calJob.map fun j => { j with ofActive := true } }) s
    requestCheckpoint .calendar (raise .calendar (evalBand s))

/-- The designation a checkpoint carries: none until the sector holds an image of the active calendar (R76). -/
def Cal.savedDesignation (c : Cal) : Option Nat := if c.imageHeld then c.designation else none

/-- An activation time has come (R72). -/
def activationDue (s : State) : Bool :=
  match s.cal.activation with
  | some a => s.tim.valid && decide (a.day * 1440 + a.minute ≤ s.tim.localSec / 60)
  | none => false

end Sys2Proof.Machine
end

