-- ==== Sys2Proof/Machine/Settle.lean ====
section
/-! DEFINITION. The Settlement Unit: the settlement arithmetic, the close, owed closes with their triggers and retries,
and the wall-time events on which the owners act (chapter 5; R47 to R50, R72). -/
namespace Sys2Proof.Machine

/-! ### Settlement arithmetic (R94 to R98) -/

/-- The figures of a settlement (R94). -/
structure Settlement where
  bands : List SnapBand
  earned : Nat
  billable : Nat
  applied : Nat
  creditOut : Nat
  forfeit : Nat
  deriving DecidableEq, Repr

/-- The bands of a calendar with `nb` bands, ascending. -/
def bandsBelow (nb : Nat) : List (Fin 8) := ([0, 1, 2, 3, 4, 5, 6, 7] : List (Fin 8)).filter fun b => decide (b.val < nb)

/-- The credit a band earns: its surplus times its value factor, in per mille, the remainder discarded (R96). -/
def earnOf (imp exp value : Nat) : Nat := (exp - imp) * value / 1000

/-- The value factor of a band, 0 where the table has no such band. -/
def valueOf (entries : List BandEntry) (b : Fin 8) : Nat :=
  match entries[b.val]? with
  | some e => e.value
  | none => 0

/-- The bands below nb in ascending offset rank (R97). -/
def rankOrder (entries : List BandEntry) : List (Fin 8) :=
  ([0, 1, 2, 3, 4, 5, 6, 7] : List (Fin 8)).flatMap fun r =>
    (bandsBelow entries.length).filter fun b =>
      match entries[b.val]? with
      | some e => e.rank == r
      | none => false

/-- The pool is applied to the bands with net import, one at a time in the order given (R97): the pool that remains,
and what was applied to each band. -/
def applyPool (imp exp : Vector Nat 8) : List (Fin 8) → Nat → Nat × List (Fin 8 × Nat)
  | [], pool => (pool, [])
  | b :: rest, pool =>
    let a := min pool (imp[b] - exp[b])
    let r := applyPool imp exp rest (pool - a)
    (r.1, (b, a) :: r.2)

/-- What `applied` gives to a band: 0 for a band passed over (R97). -/
def appliedTo (applied : List (Fin 8 × Nat)) (b : Fin 8) : Nat := ((applied.filter fun x => x.1 == b).map (·.2)).sum

/-- TOTAL mode (R95, R98). -/
def settleTotal (nb : Nat) (imp exp : Vector Nat 8) (credit cap : Nat) : Settlement :=
  let bands := bandsBelow nb
  let totImp := (bands.map fun b => imp[b]).sum
  let totExp := (bands.map fun b => exp[b]).sum
  let earned := totExp - totImp
  let applied := min credit (totImp - totExp)
  let pool := credit + earned - applied
  { bands := bands.map fun b => { imp := imp[b], exp := exp[b], billable := none }
    earned := earned
    billable := totImp - totExp - applied
    applied := applied
    creditOut := min pool cap
    forfeit := pool - min pool cap }

/-- BANDED mode (R96 to R98). -/
def settleBanded (entries : List BandEntry) (imp exp : Vector Nat 8) (credit cap : Nat) : Settlement :=
  let bands := bandsBelow entries.length
  let earned := (bands.map fun b => earnOf imp[b] exp[b] (valueOf entries b)).sum
  let r := applyPool imp exp (rankOrder entries) (credit + earned)
  let billable (b : Fin 8) := imp[b] - exp[b] - appliedTo r.2 b
  { bands := bands.map fun b => { imp := imp[b], exp := exp[b], billable := some (billable b) }
    earned := earned
    billable := (bands.map billable).sum
    applied := (r.2.map (·.2)).sum
    creditOut := min r.1 cap
    forfeit := r.1 - min r.1 cap }

/-- The entries of a calendar's band table. -/
def Calendar.entries (c : Calendar) : List BandEntry :=
  match c.bands with
  | some t => t.entries
  | none => []

/-- The settlement of a period (R94). -/
def settle (mode : SetMode) (c : Calendar) (imp exp : Vector Nat 8) (credit cap : Nat) : Settlement :=
  match mode with
  | .total => settleTotal c.nb imp exp credit cap
  | .banded => settleBanded c.entries imp exp credit cap

/-! ### The close (R85, R91, R92, R99) -/

/-- What a close is performed for: its reason, its merged-trigger count, the billing date it records when SCHEDULED,
and whether it carries an activation (R91). -/
structure CloseOrder where
  reason : Reason
  merged : Nat
  date : Option Nat
  activates : Bool
  deriving DecidableEq, Repr

/-- The slot a close performed now would take: all of R85's conditions hold. -/
def closeSlot (s : State) : Option Nat :=
  if s.sup.supply = .run ∧ s.sup.restarting = false ∧ s.reg.period < periodMax then s.hst.grant else none

/-- The billing date a close records, for a SCHEDULED reason alone (R91 stage 7, R99). -/
def CloseOrder.billingDate (o : CloseOrder) : Option Nat :=
  match o.reason with
  | .scheduled => o.date
  | _ => none

/-- The settlement of the open period as it stands (R94). -/
def settlementNow (s : State) : Settlement :=
  settle s.set.mode s.cal.active s.reg.imp s.reg.exp s.reg.credit s.set.cap

/-- The snapshot record of a close performed now (R99). -/
def snapshotNow (o : CloseOrder) (s : State) : Snapshot :=
  let x := settlementNow s
  { number := s.reg.period, reason := o.reason, merged := o.merged, openTime := s.reg.openTime,
    closeTime := s.tim.stamp, calName := s.cal.active.name, mode := s.set.mode, bands := x.bands,
    billable := x.billable, applied := x.applied, creditIn := s.reg.credit, creditOut := x.creditOut,
    forfeit := x.forfeit, ti := s.reg.ti, te := s.reg.te, billingDate := o.billingDate, flags := s.reg.flags,
    counters := s.frx.counters }

/-- The flags a period opens with (R92): FRAME_LOSS_SEEN while the lost-seen flag stands (R15), TIME_INVALID_SEEN while
time is INVALID (R34). -/
def openingFlags (s : State) : PeriodFlags :=
  { PeriodFlags.clear with frameLossSeen := s.frx.lostSeen, timeInvalidSeen := !s.tim.valid }

/-- Stage 4 of a close: the Register Bank and the frame counters of the new period (R92). -/
def openPeriod (s : State) : State :=
  let x := settlementNow s
  { s with
    reg := { s.reg with
      credit := x.creditOut, forfeit := addWh s.reg.forfeit x.forfeit, imp := .replicate 8 0, exp := .replicate 8 0,
      tiOpen := s.reg.ti, teOpen := s.reg.te, period := s.reg.period + 1, openTime := s.tim.stamp,
      flags := openingFlags s }
    frx := { s.frx with counters := .zero } }

/-- A close is performed in the slot granted, its eight stages as one event (R91). -/
def performClose (o : CloseOrder) (slot : Nat) (s : State) : State :=
  let snap := snapshotNow o s
  let s := updHst (fun h => ({ h.reserve slot with
    queue := h.queue ++ [{ snap := snap, slot := slot, fails := 0 }] } : Hst).judgeLogPreErase) s
  let s := openPeriod s
  let s := if o.activates then activate s else s
  let s := raise .periodClosed s
  let s := if o.reason = .scheduled then { s with tim := { s.tim with lastClose := o.date } } else s
  { s with set := { s.set with owed := none } }

/-- The close of a trigger that finds none owed (R85, R91). -/
def triggerOrder (r : Reason) (date : Option Nat) : CloseOrder :=
  { reason := r, merged := 1, date := date, activates := r == .calendar }

/-- The close of an owed-close record (R91). -/
def Owed.order (o : Owed) : CloseOrder :=
  { reason := o.first, merged := o.count, date := o.date, activates := o.calFlag }

/-- The later of two dates of which either may be absent. -/
def laterDate : Option Nat → Option Nat → Option Nat
  | some a, some b => some (max a b)
  | some a, none => some a
  | none, b => b

/-- A trigger merges into the owed-close record (R87). -/
def Owed.merge (r : Reason) (date : Option Nat) (o : Owed) : Owed :=
  { o with count := min 65535 (o.count + 1), calFlag := o.calFlag || r == .calendar, date := laterDate o.date date }

/-- A close trigger (R85 to R87): merged into an owed close, else performed at once, else owed. -/
def trigger (r : Reason) (date : Option Nat) (s : State) : State :=
  match s.set.owed with
  | some o => raise .closeDeferred { s with set := { s.set with owed := some (o.merge r date) } }
  | none =>
    match closeSlot s with
    | some slot => performClose (triggerOrder r date) slot s
    | none =>
      raise .closeDeferred { s with set := { s.set with
        owed := some { first := r, count := 1, calFlag := r == .calendar, date := date } } }

/-- The retry of an owed close (R88). -/
def retryOwed (s : State) : State :=
  match s.set.owed with
  | some o =>
    match closeSlot s with
    | some slot => performClose o.order slot s
    | none => s
  | none => s

/-! ### Scheduled closes (R81, R82) -/

/-- A billing date is already closed (R81). -/
def alreadyClosed (s : State) (day : Nat) : Bool :=
  match s.tim.lastClose with
  | some d => decide (day ≤ d)
  | none => false

/-- A billing date that the owed-close record already holds (R81). -/
def alreadyOwed (s : State) (day : Nat) : Bool :=
  match s.set.owed with
  | some o => o.date == some day
  | none => false

/-- A local day is a billing date under a billing day (R81). -/
def isBillingDate (billingDay day : Nat) : Bool := billingDay != 0 && (dateOf day).day == billingDay

/-- The judgement of one local date for a scheduled close (R81). -/
def scheduledDue (s : State) (day : Nat) : Bool :=
  isBillingDate s.set.day day && !alreadyClosed s day && !alreadyOwed s day

/-- A local midnight: the scheduled-close judgement, then the retry of an owed close (R81, R88). -/
def localMidnight (s : State) : State :=
  let day := s.tim.localDay
  retryOwed (if scheduledDue s day then trigger .scheduled (some day) s else s)

/-- The latest billing date whose midnight lies after local time `earlier` and at or before `present` (R82). A billing
day recurs within 31 days. -/
def passedBilling (billingDay earlier present : Nat) : Option Nat :=
  ((List.range 31).find? fun k => decide (k ≤ present / 86400) && isBillingDate billingDay (present / 86400 - k)).bind
    fun k => if earlier < 86400 * (present / 86400 - k) then some (present / 86400 - k) else none

/-- Whether a span of local time holds a local midnight (R82). -/
def midnightPassed (earlier present : Nat) : Bool := decide (earlier / 86400 < present / 86400)

/-- The date a step or resume event makes a trigger for, its earlier local time given where it is VALID (R82). -/
def stepDue (earlier : Option Nat) (s : State) : Option Nat :=
  match earlier with
  | some e =>
    if s.tim.valid then
      match passedBilling s.set.day e s.tim.localSec with
      | some d => if !alreadyClosed s d && !alreadyOwed s d then some d else none
      | none => none
    else none
  | none => none

/-- Whether a step event prompts the retry of an owed close; a resume event always does (R82, R88). With the earlier or
the present time INVALID a step covers no midnight (assumption 48). -/
def stepRetries (resume : Bool) (earlier : Option Nat) (s : State) : Bool :=
  resume ||
    match earlier with
    | some e => s.tim.valid && midnightPassed e s.tim.localSec
    | none => false

/-- The scheduled trigger of a step or resume event, for the date its judgement found. Where the retry came first and
the close it performed has closed that date, none is made (R81, R89; assumption 43). -/
def stepTrigger (due : Option Nat) (s : State) : State :=
  match due with
  | some d => if alreadyClosed s d then s else trigger .scheduled (some d) s
  | none => s

/-- A new trigger and the retry of a close owed already fall together on a step or resume event (R89). -/
def triggerMeetsRetry (resume : Bool) (earlier : Option Nat) (s : State) : Bool :=
  s.set.owed.isSome && (stepDue earlier s).isSome && stepRetries resume earlier s

/-- The Settlement Unit's part of a step or resume event (R82). With a close owed, the new trigger and the retry fall
together (R89, assumption 5). -/
def settleStep (resume : Bool) (earlier : Option Nat) (s : State) : State :=
  let due := stepDue earlier s
  let retries := stepRetries resume earlier s
  eitherIf (triggerMeetsRetry resume earlier s) (stepTrigger due)
    (fun s => if retries then retryOwed s else s) s

/-! ### Activation (R72 to R74) and the wall-time events -/

/-- The activation time, if it has come, becomes absent and the activation is triggered (R72, R74). -/
def checkActivation (s : State) : State :=
  if activationDue s then trigger .calendar none { s with cal := { s.cal with activation := none } } else s

/-- The Tariff Calendar's part of a local minute: the evaluation and the activation check, two evaluation events that fall
together where an activation is due (R55, R72). -/
def calendarEvent (s : State) : State := eitherIf (activationDue s) evalBand checkActivation s

/-- The order in which the calendar and the Settlement Unit take one event can show: an activation is due, or the close
that is owed carries one (R47, R55). -/
def calendarMeetsClose (s : State) : Bool := activationDue s || s.activationOwed

/-- A local minute, raised with the local midnight of the same boundary where it is one. Where a close may activate, the
evaluation, the activation check and the midnight are taken in any order (R47, R55, R81; assumptions 5, 46). -/
def localMinute (s : State) : State :=
  if s.tim.localMinute = 0 then
    if calendarMeetsClose s then anyOrder [evalBand, checkActivation, localMidnight] s else localMidnight (evalBand s)
  else calendarEvent s

/-- The calendar and the Settlement Unit take a step or resume event. Where a close may activate, the evaluation, the
activation check, the scheduled trigger and the retry of an owed close are taken in any order (R50, R55, R82, R89;
assumptions 5, 46). -/
def takeStep (resume : Bool) (earlier : Option Nat) (s : State) : State :=
  if calendarMeetsClose s then
    let due := stepDue earlier s
    let retries := stepRetries resume earlier s
    anyOrder [evalBand, checkActivation, stepTrigger due, fun s => if retries then retryOwed s else s] s
  else settleStep resume earlier (evalBand s)

/-- The owners act on a step or resume event (R48 to R50): the cap expiries, the calendar, the settlement. -/
def stepEvent (resume : Bool) (earlier : Option Nat) (s : State) : State := takeStep resume earlier (capExpiry s)

/-- The earlier local time of an event that carries an earlier wall time, where that is present and VALID (R82). -/
def earlierLocal (w : Option WallTime) (offset : Int) : Option Nat :=
  match w with
  | some w => if w.valid then some (localSeconds w.utc offset) else none
  | none => none

/-- The Time Base's events at an advance of the UTC count in RUN with time VALID (R47). -/
def secondEvents (s : State) : State :=
  let s := capExpiry s
  if s.tim.localSec % 60 = 0 then localMinute s else s

end Sys2Proof.Machine
end

