-- ==== Sys2Proof/Machine/Wire.lean ====
section
/-! DEFINITION. The bytes of chapter 11: fields, the CRC-16, phase frames, request and response frames, the messages of
the Unit Link, the answers' payloads, and the slots of the History Store. -/
namespace Sys2Proof.Machine

/-! ### Fields (R197) -/

/-- An unsigned integer in `k` bytes, least significant byte first. -/
def leBytes : Nat → Nat → List Byte
  | 0, _ => []
  | k + 1, n => BitVec.ofNat 8 n :: leBytes k (n / 256)

/-- The unsigned integer that bytes spell, least significant byte first. -/
def leNat : List Byte → Nat
  | [] => 0
  | b :: rest => b.toNat + 256 * leNat rest

/-- A signed integer in `k` bytes, two's complement, least significant byte first. -/
def leIntBytes (k : Nat) (i : Int) : List Byte := leBytes k (i % (256 ^ k : Nat)).toNat

/-- The signed integer that `k` bytes hold as the unsigned `n`. -/
def signedOf (k n : Nat) : Int := if 2 * n < 256 ^ k then n else (n : Int) - (256 ^ k : Nat)

/-- A flag: 0 for clear, 1 for set. -/
def flagBytes (b : Bool) : List Byte := leBytes 1 b.toNat

/-- An optional field of `k` bytes: presence, then the field's bytes, 0 when it is absent. -/
def optBytes (k : Nat) (n : Option Nat) : List Byte :=
  match n with
  | some n => leBytes 1 1 ++ leBytes k n
  | none => leBytes 1 0 ++ leBytes k 0

/-- The byte of a flag set of at most eight flags, the first in bit 0. -/
def flagSet (l : List Bool) : Nat := l.foldr (fun b n => b.toNat + 2 * n) 0

/-- Whether a name's characters are all printable (R197, R198). -/
def printable (l : List Byte) : Bool := l.all fun b => decide (0x20 ≤ b.toNat) && decide (b.toNat ≤ 0x7E)

/-! ### CRC-16 (R198) -/

/-- One bit of the CRC: polynomial 0x1021, most significant bit first. -/
def crcBit (c : BitVec 16) : BitVec 16 := if c.msb then (c <<< 1) ^^^ 0x1021#16 else c <<< 1

def crcByte (c : BitVec 16) (b : Byte) : BitVec 16 :=
  crcBit (crcBit (crcBit (crcBit (crcBit (crcBit (crcBit (crcBit (c ^^^ (b.zeroExtend 16 <<< 8)))))))))

/-- The CRC-16, initial value 0xFFFF. -/
def crc16 (l : List Byte) : BitVec 16 := l.foldl crcByte 0xFFFF#16

/-- The check as carried: unsigned, 2 bytes. -/
def crcBytes (l : List Byte) : List Byte := leBytes 2 (crc16 l).toNat

/-- Bytes with their check behind them. -/
def withCrc (l : List Byte) : List Byte := l ++ crcBytes l

/-- Whether the last two bytes are the check of those before. -/
def crcOk (l : List Byte) : Bool := l.drop (l.length - 2) == crcBytes (l.take (l.length - 2))

/-! ### Phase frames (R1, R2, R198, R199) -/

/-- The front end's status codes. -/
def FeStatus.ofCode : Nat → Option FeStatus
  | 0 => some .ok
  | 1 => some .saturated
  | 2 => some .calFault
  | _ => none

/-- The signed 2-byte field at an offset. -/
def int16At (l : List Byte) (k : Nat) : Int := signedOf 2 (leNat ((l.drop k).take 2))

/-- A run of characters as a checked phase frame, or nothing for a frame error (R2). -/
def parsePhaseFrame (run : List RxChar) : Option PhaseFrame :=
  let l := run.map (·.byte)
  if run.length = 11 ∧ (run.all (·.stopOk)) = true ∧ crcOk l = true then
    match FeStatus.ofCode (l.getD 8 0).toNat with
    | some st =>
      let present := l.getD 7 0
      some { seq := l.getD 0 0, p1 := int16At l 1, p2 := int16At l 3, p3 := int16At l 5,
             present1 := present.getLsbD 0, present2 := present.getLsbD 1, present3 := present.getLsbD 2, status := st }
    | none => none
  else none

/-! ### Unit Link messages (R129, R130, R201) -/

/-- The bytes of an ALLOWANCE message. -/
def AllowanceMsg.bytes (m : AllowanceMsg) : List Byte :=
  withCrc (leBytes 1 m.unit ++ optBytes 4 m.allowance ++ [m.seq])

def UnitStatus.ofCode : Nat → Option UnitStatus
  | 0 => some .generating
  | 1 => some .idle
  | 2 => some .fault
  | _ => none

/-- The seven characters of a reply to a message to unit `i` as a valid report, or nothing for a miss (R129, R130). -/
def parseReport (i : Fin 4) (chars : List RxChar) : Option Report :=
  let l := chars.map (·.byte)
  let output := leNat ((l.drop 1).take 2)
  if chars.length = 7 ∧ (chars.all (·.stopOk)) = true ∧ crcOk l = true ∧ (l.getD 0 0).toNat = i.val then
    match UnitStatus.ofCode (l.getD 3 0).toNat with
    | some st => some { output := min output 30000, status := st, echo := l.getD 4 0, clamped := decide (30000 < output) }
    | none => none
  else none

/-! ### Request payloads (R197, R200) -/

/-- A field read off the front of a payload, with what follows it. -/
abbrev Read (α : Type) := List Byte → Option (α × List Byte)

/-- An unsigned integer of `k` bytes. -/
def readNat : Nat → Read Nat
  | 0, l => some (0, l)
  | _ + 1, [] => none
  | k + 1, b :: l =>
    match readNat k l with
    | some (n, rest) => some (b.toNat + 256 * n, rest)
    | none => none

/-- An optional field: a presence byte other than 0 and 1 fails. The bytes of an absent field are read past, whatever their
values (R197, R198; assumption 45). -/
def readOpt {α : Type} (f : Read α) : Read (Option α) := fun l =>
  match readNat 1 l with
  | some (p, l) =>
    match f l with
    | some (a, rest) => if p = 0 then some (none, rest) else if p = 1 then some (some a, rest) else none
    | none => none
  | none => none

/-- `n` fields of one kind. -/
def readMany {α : Type} (f : Read α) : Nat → Read (List α)
  | 0, l => some ([], l)
  | n + 1, l =>
    match f l with
    | some (a, l) =>
      match readMany f n l with
      | some (as, rest) => some (a :: as, rest)
      | none => none
    | none => none

/-- Two fields, one behind the other. -/
def readPair {α β : Type} (f : Read α) (g : Read β) : Read (α × β) := fun l =>
  match f l with
  | some (a, l) =>
    match g l with
    | some (b, rest) => some ((a, b), rest)
    | none => none
  | none => none

/-- A list: a count byte, then its entries. -/
def readList {α : Type} (f : Read α) : Read (List α) := fun l =>
  match readNat 1 l with
  | some (n, l) => readMany f n l
  | none => none

/-- A field carried through a function. -/
def readMap {α β : Type} (g : α → β) (f : Read α) : Read β := fun l =>
  match f l with
  | some (a, rest) => some (g a, rest)
  | none => none

/-- A whole payload: nothing may follow its last field. -/
def readAll {α : Type} (f : Read α) (l : List Byte) : Option α :=
  match f l with
  | some (a, []) => some a
  | _ => none

/-- Exactly `n` fields of one kind. -/
def readVec {α : Type} (f : Read α) (n : Nat) : Read (Vector α n) := fun l =>
  match readMany f n l with
  | some (as, rest) => if h : as.length = n then some (⟨as.toArray, by simpa using h⟩, rest) else none
  | none => none

def readByte : Read Byte
  | [] => none
  | b :: l => some (b, l)

abbrev readU1 : Read Nat := readNat 1
abbrev readU2 : Read Nat := readNat 2
abbrev readU4 : Read Nat := readNat 4

def readMapEntry : Read RawMapEntry := readMap (fun x => ⟨x.1, x.2⟩) (readPair readU1 readU1)

def readBand : Read RawBand :=
  readMap (fun x => ⟨x.1, x.2.1, x.2.2⟩) (readPair (readVec readByte 4) (readPair readU2 readU1))

def readSeason : Read RawSeason :=
  readMap (fun x => ⟨x.1, x.2.1, x.2.2⟩) (readPair readU1 (readPair readU1 readU1))

def readPoint : Read RawPoint := readMap (fun x => ⟨x.1, x.2⟩) (readPair readU2 readU1)

def readSpecial : Read RawSpecial :=
  readMap (fun x => ⟨x.1, x.2.1, x.2.2.1, x.2.2.2.1, x.2.2.2.2⟩)
    (readPair readU1 (readPair readU1 (readPair readU1 (readPair readU1 readU1))))

def readDateTime : Read RawDateTime :=
  readMap (fun x => ⟨x.1, x.2.1, x.2.2.1, x.2.2.2⟩) (readPair readU1 (readPair readU1 (readPair readU1 readU2)))

/-- The parameters of a cap record: limit, hysteresis, optional expiry; 2 bytes for a limit (assumption 50). -/
def readCap : Read (Nat × Nat × Option Nat) := readPair readU2 (readPair readU2 (readOpt readU4))

/-- The sectors of LOCK_ARCHIVE and UNLOCK_ARCHIVE: a count of 0xFF with no entries is ALL. -/
def readSectors (l : List Byte) : Option SectorList :=
  if l = [0xFF#8] then some .all
  else match readAll (readList readU1) l with
    | some s => some (.list s)
    | none => none

/-- How READ_SNAPSHOT names its record: 0 a number, 1 an offset, then its 4 bytes (assumption 17). -/
def readKey (l : List Byte) : Option SnapshotKey :=
  match readAll (readPair readU1 readU4) l with
  | some (0, n) => some (.number n)
  | some (1, k) => some (.offset k)
  | _ => none

/-- A request with no parameters has an empty payload. -/
def readNone (q : Request) (l : List Byte) : Option Request := if l.isEmpty then some q else none

/-- The request that a code and a payload spell, if the payload has the length and the presence bytes of its layout
(R184 check 5, R197, R198; assumption 17). READ_CALENDAR always carries its index byte (assumption 45);
a field that is brought into range has the width of its range (assumption 50). The four entries of SET_OVERRIDE_MAP and
the seven indices of PASSIVE_WEEK are one optional field each, and the four weights of SET_PROFILE_WEIGHTS four optional
fields, with no count (assumption 17). -/
def decodeRequest (code : Nat) (l : List Byte) : Option Request :=
  match code with
  | 1 => readNone .clearFrameLoss l
  | 2 => (readAll (readOpt readU1) l).map .setNettingMethod
  | 3 => readNone .readRegisters l
  | 4 => (readAll readU4 l).map .setTime
  | 5 => (readAll (readOpt (readMap (signedOf 2) readU2)) l).map .setLocalOffset
  | 6 => readNone .readTime l
  | 7 => (readAll (readPair readU1 (readOpt readU1)) l).map fun x => .setOverrideSource x.1 x.2
  | 8 => (readAll (readPair readU1 readU1) l).map fun x => .setOverride x.1 x.2
  | 9 => (readAll (readOpt (readVec readMapEntry 4)) l).map .setOverrideMap
  | 10 => (readAll (readVec readByte 8) l).map .passiveClear
  | 11 => (readAll (readPair readU1 (readPair readU1 (readList readBand))) l).map fun x =>
      .passiveBands x.1 x.2.1 x.2.2
  | 12 => (readAll (readPair readU1 (readOpt readSeason)) l).map fun x => .passiveSeason x.1 x.2
  | 13 => (readAll (readPair readU1 (readOpt (readVec readU1 7))) l).map fun x => .passiveWeek x.1 x.2
  | 14 => (readAll (readPair readU1 (readOpt (readList readPoint))) l).map fun x => .passiveDay x.1 x.2
  | 15 => (readAll (readPair readU1 (readOpt readSpecial)) l).map fun x => .passiveSpecial x.1 x.2
  | 16 => (readAll readDateTime l).map .passiveActivateAt
  | 17 => readNone .passiveActivateNow l
  | 18 => (readAll (readPair readU1 (readPair readU1 readU1)) l).map fun x => .readCalendar x.1 x.2.1 x.2.2
  | 19 => (readAll (readPair (readOpt readU1) (readPair (readOpt readU4) (readOpt readU1))) l).map fun x =>
      .setSettlement x.1 x.2.1 x.2.2
  | 20 => readNone .closePeriod l
  | 21 => (readAll readCap l).map fun x => .setUtilityCap x.1 x.2.1 x.2.2
  | 22 => readNone .clearUtilityCap l
  | 23 => (readAll readCap l).map fun x => .setPremisesCap x.1 x.2.1 x.2.2
  | 24 => readNone .clearPremisesCap l
  | 25 => (readAll (readPair (readOpt readU2) (readPair (readOpt readU1) (readPair (readOpt readU1) (readOpt readU2))))
      l).map fun x => .setCapControl x.1 x.2.1 x.2.2.1 x.2.2.2
  | 26 => readNone .readCaps l
  | 27 => (readAll (readPair readU1 (readPair (readOpt readU1) (readPair (readOpt readU1) (readOpt readU1)))) l).map
      fun x => .setUnitConfig x.1 x.2.1 x.2.2.1 x.2.2.2
  | 28 => (readAll (readPair readU1 (readOpt readU1)) l).map fun x => .setUnitStandby x.1 x.2
  | 29 => (readAll (readVec (readOpt readU1) 4) l).map .setProfileWeights
  | 30 => readNone .readUnits l
  | 31 => (readKey l).map .readSnapshot
  | 32 => (readSectors l).map .lockArchive
  | 33 => (readSectors l).map .unlockArchive
  | 34 => readNone .restart l
  | 35 => readNone .getStatus l
  | 36 => readNone .readNotices l
  | 37 => (readAll (readOpt (readMap (BitVec.ofNat 16) readU2)) l).map .setNoticeMask
  | 38 => readNone .freezeView l
  | 39 => readNone .releaseView l
  | 40 => readNone .lockPremises l
  | 41 => readNone .unlockPremises l
  | _ => none

/-- A request's code: its position in the catalogue, from 1 (R197). -/
def Request.code : Request → Nat
  | .clearFrameLoss => 1
  | .setNettingMethod _ => 2
  | .readRegisters => 3
  | .setTime _ => 4
  | .setLocalOffset _ => 5
  | .readTime => 6
  | .setOverrideSource _ _ => 7
  | .setOverride _ _ => 8
  | .setOverrideMap _ => 9
  | .passiveClear _ => 10
  | .passiveBands _ _ _ => 11
  | .passiveSeason _ _ => 12
  | .passiveWeek _ _ => 13
  | .passiveDay _ _ => 14
  | .passiveSpecial _ _ => 15
  | .passiveActivateAt _ => 16
  | .passiveActivateNow => 17
  | .readCalendar _ _ _ => 18
  | .setSettlement _ _ _ => 19
  | .closePeriod => 20
  | .setUtilityCap _ _ _ => 21
  | .clearUtilityCap => 22
  | .setPremisesCap _ _ _ => 23
  | .clearPremisesCap => 24
  | .setCapControl _ _ _ _ => 25
  | .readCaps => 26
  | .setUnitConfig _ _ _ _ => 27
  | .setUnitStandby _ _ => 28
  | .setProfileWeights _ => 29
  | .readUnits => 30
  | .readSnapshot _ => 31
  | .lockArchive _ => 32
  | .unlockArchive _ => 33
  | .restart => 34
  | .getStatus => 35
  | .readNotices => 36
  | .setNoticeMask _ => 37
  | .freezeView => 38
  | .releaseView => 39
  | .lockPremises => 40
  | .unlockPremises => 41

/-- An optional compound field: presence, then its bytes, `width` bytes of 0 when it is absent. -/
def optField {α : Type} (width : Nat) (f : α → List Byte) (a : Option α) : List Byte :=
  match a with
  | some a => leBytes 1 1 ++ f a
  | none => leBytes 1 0 ++ leBytes width 0

/-- A list: its count byte, then its entries. -/
def listBytes {α : Type} (f : α → List Byte) (l : List α) : List Byte := leBytes 1 l.length ++ l.flatMap f

/-- A map entry as a request carries it: its kind and, with either kind, a band byte (assumption 45). -/
def RawMapEntry.bytes (e : RawMapEntry) : List Byte := leBytes 1 e.kind ++ leBytes 1 e.band

def RawBand.bytes (b : RawBand) : List Byte := b.name.toList ++ (leBytes 2 b.value ++ leBytes 1 b.rank)

def RawSeason.bytes (x : RawSeason) : List Byte := leBytes 1 x.month ++ (leBytes 1 x.day ++ leBytes 1 x.week)

def RawPoint.bytes (p : RawPoint) : List Byte := leBytes 2 p.minute ++ leBytes 1 p.band

def RawSpecial.bytes (x : RawSpecial) : List Byte :=
  leBytes 1 x.kind ++ (leBytes 1 x.year ++ (leBytes 1 x.month ++ (leBytes 1 x.day ++ leBytes 1 x.profile)))

def RawDateTime.bytes (t : RawDateTime) : List Byte :=
  leBytes 1 t.year ++ (leBytes 1 t.month ++ (leBytes 1 t.day ++ leBytes 2 t.minute))

def SnapshotKey.bytes : SnapshotKey → List Byte
  | .number n => leBytes 1 0 ++ leBytes 4 n
  | .offset k => leBytes 1 1 ++ leBytes 4 k

def SectorList.bytes : SectorList → List Byte
  | .all => [0xFF#8]
  | .list s => listBytes (leBytes 1) s

/-- The bytes of a cap record's parameters. -/
def capBytes (limit hyst : Nat) (expiry : Option Nat) : List Byte :=
  leBytes 2 limit ++ (leBytes 2 hyst ++ optField 4 (leBytes 4) expiry)

/-- The payload of a request (R197, assumptions 17, 45, 50). In PASSIVE_DAY one zero byte stands for an absent list
(assumption 60). -/
def Request.payload : Request → List Byte
  | .setNettingMethod m => optField 1 (leBytes 1) m
  | .setTime t => leBytes 4 t
  | .setLocalOffset o => optField 2 (leIntBytes 2) o
  | .setOverrideSource line source => leBytes 1 line ++ optField 1 (leBytes 1) source
  | .setOverride line value => leBytes 1 line ++ leBytes 1 value
  | .setOverrideMap m => optField 8 (fun v => v.toList.flatMap RawMapEntry.bytes) m
  | .passiveClear name => name.toList
  | .passiveBands nb fb bands => leBytes 1 nb ++ (leBytes 1 fb ++ listBytes RawBand.bytes bands)
  | .passiveSeason i x => leBytes 1 i ++ optField 3 RawSeason.bytes x
  | .passiveWeek i w => leBytes 1 i ++ optField 7 (fun v => v.toList.flatMap (leBytes 1)) w
  | .passiveDay i d => leBytes 1 i ++ optField 1 (listBytes RawPoint.bytes) d
  | .passiveSpecial i x => leBytes 1 i ++ optField 5 RawSpecial.bytes x
  | .passiveActivateAt t => RawDateTime.bytes t
  | .readCalendar c p i => leBytes 1 c ++ (leBytes 1 p ++ leBytes 1 i)
  | .setSettlement m k d => optField 1 (leBytes 1) m ++ (optField 4 (leBytes 4) k ++ optField 1 (leBytes 1) d)
  | .setUtilityCap l h e => capBytes l h e
  | .setPremisesCap l h e => capBytes l h e
  | .setCapControl f e t h =>
    optField 2 (leBytes 2) f ++ (optField 1 (leBytes 1) e ++ (optField 1 (leBytes 1) t ++ optField 2 (leBytes 2) h))
  | .setUnitConfig u e s m =>
    leBytes 1 u ++ (optField 1 (leBytes 1) e ++ (optField 1 (leBytes 1) s ++ optField 1 (leBytes 1) m))
  | .setUnitStandby u r => leBytes 1 u ++ optField 1 (leBytes 1) r
  | .setProfileWeights w => w.toList.flatMap (optField 1 (leBytes 1))
  | .readSnapshot k => SnapshotKey.bytes k
  | .lockArchive s => SectorList.bytes s
  | .unlockArchive s => SectorList.bytes s
  | .setNoticeMask m => optField 2 (fun v => leBytes 2 v.toNat) m
  | .clearFrameLoss | .readRegisters | .readTime | .passiveActivateNow | .closePeriod | .clearUtilityCap
  | .clearPremisesCap | .readCaps | .readUnits | .restart | .getStatus | .readNotices | .freezeView | .releaseView
  | .lockPremises | .unlockPremises => []

/-- The whole request frame: marker, length, code, payload, check (R200). -/
def Request.frame (q : Request) : List Byte :=
  withCrc ([0xC3#8] ++ (leBytes 2 (Request.payload q).length ++ (leBytes 1 (Request.code q) ++ Request.payload q)))

/-- An enumeration byte that may be absent lies in its list of `n` values. -/
def inEnum (n : Nat) (v : Option Nat) : Bool :=
  match v with
  | some v => decide (v < n)
  | none => true

/-- The enumerations and names of a request lie in their lists (R198; assumption 16). -/
def Request.fieldsOk : Request → Bool
  | .setNettingMethod m => inEnum 2 m
  | .setOverrideSource line source => decide (line < 2) && inEnum 2 source
  | .setOverride line _ => decide (line < 2)
  | .setOverrideMap (some m) => m.all fun e => decide (e.kind < 2)
  | .passiveClear name => printable name.toList
  | .passiveBands _ _ bands => bands.all fun b => printable b.name.toList
  | .passiveSpecial _ (some x) => decide (x.kind < 2)
  | .readCalendar c p _ => decide (c < 2) && decide (p < 6)
  | .setSettlement m _ _ => inEnum 2 m
  | _ => true

/-! ### Codes of the enumerations answered (R197) -/

def Status.code : Status → Nat
  | .ok => 0
  | .accepted => 1
  | .deferred => 2
  | .busy => 3
  | .badFrame => 4
  | .unknown => 5
  | .denied => 6
  | .state => 7
  | .locked => 8
  | .range => 9
  | .notFound => 10
  | .viewExpired => 11

def Netting.code : Netting → Nat
  | .vector => 0
  | .phase => 1

def Health.code : Health → Nat
  | .noSignal => 0
  | .locked => 1
  | .gap => 2
  | .lost => 3
  | .relocking => 4

def BandSource.code : BandSource → Nat
  | .schedule => 0
  | .specialDay => 1
  | .override => 2
  | .timeFallback => 3
  | .overrideFallback => 4

def LineSource.code : LineSource → Nat
  | .pin => 0
  | .virtual => 1

def SetMode.code : SetMode → Nat
  | .total => 0
  | .banded => 1

def Reason.code : Reason → Nat
  | .scheduled => 0
  | .commanded => 1
  | .calendar => 2

def CurtState.code : CurtState → Nat
  | .uncapped => 0
  | .normal => 1
  | .curtailing => 2
  | .failsafe => 3

def LinkState.code : LinkState → Nat
  | .disabled => 0
  | .probing => 1
  | .online => 2
  | .offline => 3

def UnitStatus.code : UnitStatus → Nat
  | .generating => 0
  | .idle => 1
  | .fault => 2

def Supply.code : Supply → Nat
  | .starting => 0
  | .run => 1
  | .warning => 2
  | .down => 3

/-- The engine's activity; a suspended erase is followed by the code of what is served (R154). -/
def Activity.code : Activity → Nat
  | .idle => 0
  | .program => 1
  | .read => 2
  | .erase => 3
  | .suspended _ => 4

/-- What is served while an erase is suspended, IDLE otherwise: a second byte behind the activity, always sent
(assumption 44). -/
def Activity.served : Activity → Nat
  | .suspended a => a.code
  | _ => 0

/-- The view's state: NONE, HELD, EXPIRED (R193). -/
def View.code : View → Nat
  | .none => 0
  | .held _ _ => 1
  | .expired _ _ => 2

/-! ### Parts of the answers (assumption 18) -/

/-- An optional local day as a full date. -/
def optDay (d : Option Nat) : List Byte :=
  optField 3 (fun n =>
    let d := dateOf n
    leBytes 1 (d.year - 2000) ++ leBytes 1 d.month ++ leBytes 1 d.day) d

/-- A local day as a full date. -/
def dayBytes (n : Nat) : List Byte :=
  let d := dateOf n
  leBytes 1 (d.year - 2000) ++ leBytes 1 d.month ++ leBytes 1 d.day

/-- A map entry as an answer shows it: kind and band, the band of a CALENDAR entry 0 (assumption 44). -/
def MapEntry.bytes : MapEntry → List Byte
  | .calendar => leBytes 1 0 ++ leBytes 1 0
  | .force k => leBytes 1 1 ++ leBytes 1 k

def Owed.bytes (o : Owed) : List Byte :=
  leBytes 1 o.first.code ++ leBytes 2 o.count ++ flagBytes o.calFlag ++ optDay o.date

/-- An optional field whose layout has `width` bytes, the record itself when present. -/
def optOwed (o : Option Owed) : List Byte := optField 8 Owed.bytes o

def CapRecord.bytes (r : CapRecord) : List Byte :=
  leBytes 2 r.limit ++ leBytes 2 r.hyst ++ optBytes 4 r.expiry ++ optBytes 4 r.setTime

/-- Ceff with its hysteresis. -/
def ceffBytes (c : Option (Nat × Nat)) : List Byte := optField 4 (fun x => leBytes 2 x.1 ++ leBytes 2 x.2) c

def ActTime.bytes (a : ActTime) : List Byte := dayBytes a.day ++ leBytes 2 a.minute

def BandEntry.bytes (b : BandEntry) : List Byte := b.name.toList ++ leBytes 2 b.value ++ leBytes 1 b.rank

def Season.bytes (x : Season) : List Byte := leBytes 1 x.month ++ leBytes 1 x.day ++ leBytes 1 x.week

def SwitchPoint.bytes (p : SwitchPoint) : List Byte := leBytes 2 p.minute ++ leBytes 1 p.band

def Special.bytes (x : Special) : List Byte :=
  match x.date with
  | .recurring m d => leBytes 1 0 ++ leBytes 1 0 ++ leBytes 1 m ++ leBytes 1 d ++ leBytes 1 x.profile
  | .full y m d => leBytes 1 1 ++ leBytes 1 (y - 2000) ++ leBytes 1 m ++ leBytes 1 d ++ leBytes 1 x.profile

/-- The indices of the present entries of a table, as a list. -/
def presentBytes {α : Type} {n : Nat} (v : Vector (Option α) n) : List Byte :=
  listBytes (fun x => leBytes 1 x.1) (presentOf v)

/-- A calendar's own items in SUMMARY (R77): an empty passive calendar shows 0 for the nb and the fallback band it has not,
and the indices of the present entries are four counted lists: seasons, weeks, days, special days (assumption 44). -/
def Calendar.summaryBytes (c : Calendar) : List Byte :=
  c.name.toList ++ leBytes 1 c.nb ++ leBytes 1 c.fallback ++ presentBytes c.seasons ++ presentBytes c.weeks ++
    presentBytes c.days ++ presentBytes c.specials

/-- The other parts of a calendar (R77, R200). That SEASONS and WEEKS begin with a count byte, always 4, as SPECIALS does with
its 24, is the model's choice (assumption 61). An absent day profile is its presence byte and one zero byte, a count of 0
(assumption 60). -/
def Calendar.partBytes (c : Calendar) : CalPart → List Byte
  | .bands =>
    listBytes BandEntry.bytes (match c.bands with
      | some t => t.entries
      | none => [])
  | .seasons => listBytes (optField 3 Season.bytes) c.seasons.toList
  | .weeks => listBytes (optField 7 fun w => w.toList.flatMap fun d => leBytes 1 d) c.weeks.toList
  | .day i => optField 1 (listBytes SwitchPoint.bytes) c.days[i]
  | .specials => listBytes (optField 5 Special.bytes) c.specials.toList

/-- The image content of a calendar: its READ_CALENDAR parts in the order of R204 (assumption 10), an absent day profile
in 2 bytes (assumption 60), SEASONS and WEEKS with their count bytes (assumption 61). -/
def Calendar.image (c : Calendar) : List Byte :=
  c.summaryBytes ++ c.partBytes .bands ++ c.partBytes .seasons ++ c.partBytes .weeks ++
    ((List.finRange 12).flatMap fun i => c.partBytes (.day i)) ++ c.partBytes .specials

/-- The number of parts of a calendar's image: its content, whose length rests on assumptions 44, 60 and 61, is cut at 249
bytes per part (R204). -/
def Calendar.parts (c : Calendar) : Nat := (c.image.length + 248) / 249

/-- What SUMMARY adds to the calendar's own items, in the order of R77. The two lines and the four entries of the override map
carry no count byte, a choice of the model (assumption 61). -/
def SummaryExtras.bytes (x : SummaryExtras) : List Byte :=
  leBytes 1 x.band ++ leBytes 1 x.source.code ++
    (x.lines.toList.flatMap fun l => flagBytes l.debounced ++ leBytes 1 l.source.code ++ flagBytes l.virt ++
      flagBytes l.effective) ++
    x.map.toList.flatMap MapEntry.bytes ++ optField 5 ActTime.bytes x.activation ++ flagBytes x.persisted ++
    flagBytes x.owed ++ optBytes 1 x.designation

def SnapBand.bytes (b : SnapBand) : List Byte :=
  leBytes 4 b.imp ++ leBytes 4 b.exp ++
    match b.billable with
    | some n => leBytes 4 n
    | none => []

/-- The snapshot record (R203). -/
def Snapshot.bytes (r : Snapshot) : List Byte :=
  leBytes 1 1 ++ leBytes 4 r.number ++ leBytes 1 r.reason.code ++ leBytes 2 r.merged ++ optBytes 4 r.openTime ++
    optBytes 4 r.closeTime ++ r.calName.toList ++ leBytes 1 r.bands.length ++ leBytes 1 r.mode.code ++
    r.bands.flatMap SnapBand.bytes ++ leBytes 5 r.billable ++ leBytes 5 r.applied ++ leBytes 4 r.creditIn ++
    leBytes 4 r.creditOut ++ leBytes 5 r.forfeit ++ leBytes 4 r.ti ++ leBytes 4 r.te ++ optDay r.billingDate ++
    leBytes 1 r.flags.byte ++ leBytes 2 r.counters.missed ++ leBytes 2 r.counters.errors ++
    leBytes 2 r.counters.clamped ++ leBytes 2 r.counters.dups ++ leBytes 2 r.counters.discarded

/-- READ_REGISTERS (R202). -/
def RegCopy.bytes (r : RegCopy) (viewLeft : Option Nat) : List Byte :=
  leBytes 1 (if viewLeft.isSome then 1 else 0) ++ leBytes 4 r.ti ++ leBytes 4 r.te ++ leBytes 2 r.ri ++
    leBytes 2 r.re ++ r.imp.toList.flatMap (leBytes 4) ++ r.exp.toList.flatMap (leBytes 4) ++ leBytes 4 r.credit ++
    leBytes 4 r.forfeit ++ leBytes 4 r.period ++ optBytes 4 r.openTime ++ leBytes 1 r.band ++ optBytes 4 r.capture ++
    optBytes 2 viewLeft ++ leBytes 4 r.tiOpen ++ leBytes 4 r.teOpen

/-- READ_TIME (R52): the weekday as Monday 0 to Sunday 6, the local time of day as one 4-byte second of the day
(assumption 44). -/
def TimeReport.bytes (r : TimeReport) : List Byte :=
  leBytes 4 r.utc ++ leBytes 1 (if r.valid then 0 else 1) ++ leIntBytes 2 r.offset ++ dayBytes r.localDay ++
    leBytes 1 r.weekday ++ leBytes 4 r.secondOfDay ++ leBytes 5 r.runSeconds ++ optDay r.lastClose

/-- READ_CAPS (R121): the hold end and the hold time remaining are optional fields of their own, the latter 4 bytes of
milliseconds (assumption 44). -/
def CapsReport.bytes (r : CapsReport) : List Byte :=
  optField 14 CapRecord.bytes r.util ++ optField 14 CapRecord.bytes r.prem ++ ceffBytes r.ceff ++
    leBytes 1 r.state.code ++ leBytes 1 r.q ++ leBytes 1 r.trip ++ optBytes 5 r.holdEndSec ++ optBytes 4 r.holdLeft ++
    optField 4 (leIntBytes 4) r.lastXs ++ optBytes 4 r.load ++ optBytes 4 r.allowance ++ leBytes 2 r.fsc ++
    flagBytes r.fsEnable ++ leBytes 2 r.hold

def UnitConfig.bytes (c : UnitConfig) : List Byte :=
  flagBytes c.enable ++ leBytes 1 c.slot ++ flagBytes c.standby ++ flagBytes c.maskOff

def Report.bytes (r : Report) : List Byte :=
  leBytes 2 r.output ++ leBytes 1 r.status.code ++ [r.echo] ++ flagBytes r.clamped

/-- One unit of READ_UNITS (R140): the last sent allowance is an optional field in an optional field (assumption 44). -/
def UnitItem.bytes (u : UnitItem) : List Byte :=
  u.entry.cfg.bytes ++ flagBytes u.effStandby ++ leBytes 1 u.entry.link.code ++ leBytes 1 u.entry.miss ++
    optField 5 Report.bytes u.entry.last ++ leBytes 1 u.entry.mismatch ++ flagBytes u.entry.notFollowing ++
    [u.entry.seq] ++ optField 5 (optBytes 4) u.entry.lastSent ++ optBytes 4 u.entry.allowance ++ flagBytes u.active

/-- READ_UNITS (R140): neither the four units nor the four weights carry a count byte (assumption 61). -/
def UnitsReport.bytes (r : UnitsReport) : List Byte :=
  r.units.toList.flatMap UnitItem.bytes ++ r.weights.toList.flatMap (leBytes 1) ++ leBytes 1 r.handState.code ++
    optBytes 4 r.handA ++ optBytes 4 r.pool ++ flagBytes r.noActive

/-- GET_STATUS (R195). Both debounced states come before both effective values, the engine's activity takes two bytes, the
retired sectors are a list in the order of retirement, the archive locks a flag set (assumption 44). The lines and the units
carry no count byte (assumption 61). -/
def StatusReport.bytes (r : StatusReport) : List Byte :=
  leBytes 1 r.supply.code ++ leBytes 2 r.rideThrough ++ leBytes 2 r.lostCkpt ++ flagBytes r.restarting ++
    leBytes 1 r.health.code ++ leBytes 1 r.relock ++ flagBytes r.lostSeen ++ leBytes 1 (if r.valid then 0 else 1) ++
    leBytes 1 r.band ++ leBytes 1 r.source.code ++ r.debounced.toList.flatMap flagBytes ++
    r.effective.toList.flatMap flagBytes ++ leBytes 4 r.period ++ optOwed r.owed ++ leBytes 1 r.curt.code ++
    ceffBytes r.ceff ++ optBytes 4 r.allowance ++
    ((r.links.toList.zip r.notFollowing.toList).flatMap fun x => leBytes 1 x.1.code ++ flagBytes x.2) ++
    flagBytes r.noActive ++ leBytes 1 r.activity.code ++ leBytes 1 r.activity.served ++
    leBytes 1 (flagSet [r.ckptFailed, r.logFailed, r.calFailed]) ++ listBytes (leBytes 1) r.retired ++
    leBytes 1 r.pendingCount ++ leBytes 1 (flagSet r.locks.toList) ++ optBytes 4 r.gap ++ flagBytes r.premLock ++
    leBytes 2 r.notices.toNat ++ leBytes 2 r.mask.toNat ++ leBytes 1 r.viewState ++ leBytes 2 r.stalled ++
    leBytes 2 r.bad ++ leBytes 2 r.dropped

/-- The payload of an answer (R197, R202, R203; assumption 18). CLEAR_UTILITY_CAP and CLEAR_PREMISES_CAP answer one flag,
set where no record was present; each clamped indication is a flag behind the values stored (R102, R103, R107, R126,
R188; assumption 44). LOCK_ARCHIVE and UNLOCK_ARCHIVE answer the locks as a flag set (R150; assumption 44). That the four
entries of the override map, and the four weights with their indications, carry no count byte is the model's choice
(assumption 61). -/
def Answer.bytes : Answer → List Byte
  | .empty => []
  | .detail item index => leBytes 1 item ++ leBytes 1 index
  | .method m => leBytes 1 m.code
  | .registers copy left => copy.bytes left
  | .utc n => leBytes 4 n
  | .offset n => leIntBytes 2 n
  | .time r => r.bytes
  | .overrideLine source debounced virt => leBytes 1 source.code ++ flagBytes debounced ++ flagBytes virt
  | .overrideMap m => m.toList.flatMap MapEntry.bytes
  | .calendarSummary c x => c.summaryBytes ++ x.bytes
  | .calendarPart c p => c.partBytes p
  | .settlement mode cap day => leBytes 1 mode.code ++ leBytes 4 cap ++ leBytes 1 day
  | .closed n => leBytes 4 n
  | .owedClose o => o.bytes
  | .capRecord r l h => r.bytes ++ flagBytes l ++ flagBytes h
  | .capCleared noneWas => flagBytes noneWas
  | .capControl fsc enable trip hold f t h =>
    leBytes 2 fsc ++ flagBytes enable ++ leBytes 1 trip ++ leBytes 2 hold ++ flagBytes f ++ flagBytes t ++ flagBytes h
  | .caps r => r.bytes
  | .unitConfig c => c.bytes
  | .standby request maskOff effective => flagBytes request ++ flagBytes maskOff ++ flagBytes effective
  | .weights w clamped => w.toList.flatMap (leBytes 1) ++ clamped.toList.flatMap flagBytes
  | .units r => r.bytes
  | .snapshot r => leBytes 2 r.bytes.length ++ r.bytes
  | .locks v => leBytes 1 (flagSet v.toList)
  | .status r => r.bytes
  | .notices set => leBytes 2 set.toNat
  | .mask set => leBytes 2 set.toNat
  | .view capture expiry => optBytes 4 capture ++ leBytes 5 expiry
  | .released was => leBytes 1 was
  | .premLock b => flagBytes b

/-- A whole response frame (R200). -/
def Response.frame (r : Response) : List Byte :=
  withCrc ([0xC3#8] ++ leBytes 2 r.answer.bytes.length ++ leBytes 1 r.code ++ leBytes 1 r.status.code ++
    r.answer.bytes)

/-! ### The checkpoint content (R163, R204) -/

/-- The Register Bank's fields. -/
def RegBank.fields (r : RegBank) : List (List Byte) :=
  [leBytes 4 r.ti, leBytes 4 r.te, leBytes 2 r.ri, leBytes 2 r.re] ++ r.imp.toList.map (leBytes 4) ++
    r.exp.toList.map (leBytes 4) ++
    [leBytes 4 r.tiOpen, leBytes 4 r.teOpen, leBytes 4 r.period, optBytes 4 r.openTime, leBytes 4 r.credit,
      leBytes 4 r.forfeit, leBytes 1 r.flags.byte]

/-- The Tariff Calendar's fields, the override map without a count byte (assumption 61). -/
def CalSaved.fields (c : CalSaved) : List (List Byte) :=
  [optBytes 1 c.designation, flagBytes c.persisted, leBytes 1 c.passiveAt, optField 5 ActTime.bytes c.activation] ++
    (c.sources.toList.map fun x => leBytes 1 x.code) ++ c.virts.toList.map flagBytes ++ c.map.toList.map MapEntry.bytes

/-- The fields of a checkpoint's content, in the order of R163's list, each encoded by its kind (R197). The sequence
number stands in both halves, and the check is the slots' own. -/
def Checkpoint.fields (c : Checkpoint) : List (List Byte) :=
  [leBytes 4 c.capture.utc, leBytes 1 (if c.capture.valid then 0 else 1), leBytes 1 c.causes.toNat] ++ c.reg.fields ++
    [leBytes 2 c.counters.missed, leBytes 2 c.counters.errors, leBytes 2 c.counters.clamped, leBytes 2 c.counters.dups,
      leBytes 2 c.counters.discarded, leBytes 1 c.netting.code, leBytes 1 c.set.mode.code, leBytes 4 c.set.cap,
      leBytes 1 c.set.day, optOwed c.set.owed, leIntBytes 2 c.offset, optDay c.lastClose] ++ c.cal.fields ++
    [optField 14 CapRecord.bytes c.caps.util, optField 14 CapRecord.bytes c.caps.prem, leBytes 2 c.caps.fsc,
      flagBytes c.caps.fsEnable, leBytes 1 c.caps.trip, leBytes 2 c.caps.hold] ++ c.units.toList.map UnitConfig.bytes ++
    c.weights.toList.map (leBytes 1) ++
    [flagBytes c.premLock, leBytes 2 c.uptMask.toNat, leBytes 2 c.pptMask.toNat]

/-- A field goes to its place among fields in ascending rank. -/
def placeField (f : Nat × List Byte) : List (Nat × List Byte) → List (Nat × List Byte)
  | [] => [f]
  | g :: rest => if f.1 ≤ g.1 then f :: g :: rest else g :: placeField f rest

/-- The checkpoint content: every field once, in the order the free ranks give (R204; assumption 9). -/
def Checkpoint.content (c : Checkpoint) : List Byte :=
  ((c.fields.zipIdx.map fun x => (Config.checkpointOrder x.2, x.1)).foldr placeField []).flatMap (·.2)

/-- A half's share of the content: half 0 carries it up to the free cut, half 1 the rest (R204; assumption 9). -/
def Checkpoint.share (c : Checkpoint) (n : Fin 2) : List Byte :=
  let cut := Config.checkpointCut % (c.content.length + 1)
  if n = 0 then c.content.take cut else c.content.drop cut

/-! ### Store slots (R204) -/

/-- A slot's 256 bytes from its record kind and body: kind, length, body, check, then the erased state. -/
def slotOf (kind : Nat) (body : List Byte) : List Byte :=
  let record := withCrc (leBytes 1 kind ++ leBytes 2 body.length ++ body)
  record ++ List.replicate (256 - record.length) 0xFF#8

/-- The bytes of a slot that holds a record; INVALID content has no stated bytes (R142). -/
def SlotContent.bytes : SlotContent → Option (List Byte)
  | .snapshot r => some (slotOf 1 r.bytes)
  | .half n c => some (slotOf 2 (leBytes 4 c.seq ++ leBytes 1 n ++ c.share n))
  | .part n total c =>
    some (slotOf 3 (leBytes 1 n ++ leBytes 1 total ++ (c.image.drop (249 * (n - 1))).take 249))
  | .junk => none

/-- The bytes of any slot: a BLANK slot is 256 bytes of 0xFF. -/
def slotBytes (c : Option SlotContent) : Option (List Byte) :=
  match c with
  | none => some (List.replicate 256 0xFF#8)
  | some c => c.bytes

end Sys2Proof.Machine
end

