-- ==== Sys2Proof/Machine/Engine.lean ====
section
/-! DEFINITION. The store engine: the capture of a checkpoint, the arbiter, and what follows each end of a program, an
erase or a read (chapter 8; R163). -/
namespace Sys2Proof.Machine

/-! ### Capture (R152, R163) -/

/-- The sequence number of a new checkpoint (R163). -/
def Hst.nextSeq (h : Hst) : Nat :=
  match h.newestSeq with
  | some n => (n + 1) % 2 ^ 32
  | none => 1

/-- What a checkpoint captures of the Tariff Calendar (R76, R163). -/
def Cal.saved (c : Cal) : CalSaved :=
  { designation := c.savedDesignation, persisted := c.persisted, passiveAt := c.passiveAt, activation := c.activation,
    sources := Vector.ofFn fun i => c.lines[i].source, virts := Vector.ofFn fun i => c.lines[i].virt, map := c.map }

/-- The content of a checkpoint captured now with a set of causes (R163). -/
def captureNow (causes : CauseSet) (s : State) : Checkpoint :=
  { seq := s.hst.nextSeq, capture := s.tim.wall, causes := causes, reg := s.reg, counters := s.frx.counters,
    netting := s.netting, set := s.set, offset := s.tim.offset, lastClose := s.tim.lastClose, cal := s.cal.saved,
    caps := s.xcc.cfg, units := Vector.ofFn fun i => s.ulc.units[i].cfg, weights := s.ulc.weights,
    premLock := s.premLock, uptMask := s.upt.mask, pptMask := s.ppt.mask }

/-! ### The arbiter (R154, R155) -/

/-- The next waiting read: recovery's, then those of the ports in the order asked for. -/
def waitingRead (s : State) : Option (Reader × Nat) :=
  match s.sup.unread with
  | k :: _ => some (.recovery, k)
  | [] =>
    match s.hst.reads with
    | (p, n, k) :: _ => some (.port p n, k)
    | [] => none

/-- SNAP is eligible (R146). -/
def Hst.snapEligible (h : Hst) : Bool := !h.queue.isEmpty && !h.logFailed

/-- CKPT is eligible: a retry or a request waits, and a record position is available (R154, R159). -/
def Hst.ckptEligible (h : Hst) : Bool :=
  !h.ckptFailed && (h.ckptRetry.isSome || h.ckptReq.isSome) && h.nextPosition.isSome

/-- The checkpoint program begins: the retry first, with the content it captured, else the outstanding request, whose
content is captured now and which then ends (R152, R159). -/
def grantCheckpoint (position : Nat) (s : State) : State :=
  match s.hst.ckptRetry with
  | some c => updHst (fun h => { h with ckptRetry := none, engine := .checkpoint c position true }) s
  | none =>
    match s.hst.ckptReq with
    | some causes =>
      updHst (fun h => { h with ckptReq := none, engine := .checkpoint (captureNow causes s) position false }) s
    | none => s

/-- The erase of a sector begins: the sector leaves the ERASE list (R154), the index pairs of the sector leave (R148),
and its slots no longer hold their records (R155; assumption 7). -/
def Hst.beginErase (sector : Nat) (h : Hst) : Hst :=
  { h with
    engine := .erase sector, eraseList := h.eraseList.filter (· != sector),
    index := h.index.filter fun x => x.2 / 16 != sector,
    store := Store.erased h.store sector (BitVec.allOnes 16) }

/-- A sector is archive-locked; only the log sectors carry locks (R149). -/
def Hst.locked (h : Hst) (sector : Nat) : Bool :=
  if hs : 4 ≤ sector ∧ sector < 10 then h.locks[sector - 4]'(by omega) else false

/-- The content a calendar write captures at its grant (R71, R153). -/
def CalWrite.content (c : Cal) (w : CalWrite) : Calendar := if w.ofActive then c.active else c.passive.getD c.active

/-- A calendar write is granted: its content is captured and the erase of its sector begins (R153). A flag that says the
sector held an image stands until its own rules change it (assumption 47). -/
def grantWrite (w : CalWrite) (rest : List CalWrite) (s : State) : State :=
  let c := w.content s.cal
  updHst (fun h => { h.beginErase w.sector with
    calWaiting := rest
    calJob := some { sector := w.sector, ofActive := w.ofActive, grantedActive := w.ofActive, edited := false,
                     content := c, parts := c.parts, next := 1, slot := 0, failed := false, erasing := true } }) s

/-- The first eligible sector of the ERASE list begins its erase (R154 item 6). -/
def Hst.nextErase (h : Hst) : Hst :=
  match h.eraseList.find? fun x => !h.locked x with
  | some x => h.beginErase x
  | none => h

/-- Items 4 to 6 of R154, made in RUN alone. -/
def arbitrateRun (s : State) : State :=
  match s.hst.suspended with
  | some x => updHst (fun h => { h with suspended := none, engine := .erase x }) s
  | none =>
    match s.hst.calJob, s.hst.calWaiting with
    | some j, _ => if j.erasing then updHst Hst.nextErase s else updHst (fun h => { h with engine := .part }) s
    | none, w :: rest => grantWrite w rest s
    | none, [] => updHst Hst.nextErase s

/-- The free engine chooses its next operation (R154). In DOWN it starts none; in STARTING and WARNING only items 1 to
3 are made. -/
def arbitrate (s : State) : State :=
  if s.hst.engine ≠ .idle ∨ s.sup.supply = .down then s
  else
    match waitingRead s with
    | some (who, k) => updHst (fun h => { h with engine := .read who k }) s
    | none =>
      if s.hst.snapEligible then updHst (fun h => { h with engine := .snapshot }) s
      else
        match s.hst.ckptEligible, s.hst.nextPosition with
        | true, some p => grantCheckpoint p s
        | _, _ => if s.sup.supply = .run then arbitrateRun s else s

/-- Work that suspends an erase in progress waits (R155). -/
def suspendDue (s : State) : Bool := !s.hst.reads.isEmpty || s.hst.snapEligible || s.hst.ckptEligible

/-- An erase in progress is suspended (R155). -/
def Hst.suspendErase (h : Hst) : Hst :=
  match h.engine with
  | .erase x => { h with engine := .idle, suspended := some x }
  | _ => h

/-! ### The end of a snapshot program (R146, R158) -/

/-- The slot that a reservation would now choose, reserved at once; where none exists the entry keeps its slot
(assumption 31: R144's margin keeps one in hand). -/
def Hst.chooseSlot (kept : Nat) (h : Hst) : Nat × Hst :=
  match h.candidate with
  | some k => (k, h.reserve k)
  | none => (kept, h)

/-- The rebinding of R158, after the oldest entry's program has failed. -/
def Hst.rebind (h : Hst) : Hst :=
  match h.queue with
  | [] => h
  | [e] =>
    let r := h.chooseSlot e.slot
    { r.2 with queue := [{ e with slot := r.1, fails := e.fails + 1 }] }
  | e :: e2 :: rest =>
    let r := h.chooseSlot e2.slot
    { r.2 with queue := { e with slot := e2.slot, fails := e.fails + 1 } :: { e2 with slot := r.1 } :: rest }

/-- A snapshot program has read back VALID (R146). -/
def snapshotDone (e : PendingSnap) (rest : List PendingSnap) (s : State) : State :=
  let s := updHst (fun h => { h with
    store := Store.put h.store e.slot (.snapshot e.snap), queue := rest, index := h.index ++ [(e.snap.number, e.slot)],
    engine := .idle }) s
  requestCheckpoint .close (retryOwed s)

/-- The log area is marked FAILED (R158, R160). -/
def failLog (s : State) : State := raise .storeFault (updHst (fun h => { h with logFailed := true }) s)

/-- A snapshot program has read back INVALID (R158). -/
def snapshotFailed (e : PendingSnap) (s : State) : State :=
  let s := updHst (fun h =>
    (({ h with store := Store.put h.store e.slot .junk, engine := .idle } : Hst).rebind).judgeLogPreErase) s
  if 2 ≤ e.fails + 1 then failLog s else s

def snapshotProgrammed (valid : Bool) (s : State) : State :=
  match s.hst.engine, s.hst.queue with
  | .snapshot, e :: rest => if valid then snapshotDone e rest s else snapshotFailed e s
  | _, _ => s

/-! ### The end of a checkpoint program (R151, R152, R159) -/

/-- The content of a checkpoint slot after its program. -/
def halfContent (valid : Bool) (n : Fin 2) (c : Checkpoint) : SlotContent := if valid then .half n c else .junk

/-- The two slots of the position have been programmed: it is used, and it is the newest (R151, R159). -/
def Hst.programHalves (c : Checkpoint) (position : Nat) (valid0 valid1 : Bool) (h : Hst) : Hst :=
  { h with
    store := Store.put (Store.put h.store (2 * position) (halfContent valid0 0 c)) (2 * position + 1)
      (halfContent valid1 1 c)
    ckptSector := position / 8, ckptLast := some (position % 8), engine := .idle }

def checkpointProgrammed (valid0 valid1 : Bool) (s : State) : State :=
  match s.hst.engine with
  | .checkpoint c position retry =>
    let s := updHst (Hst.programHalves c position valid0 valid1) s
    if valid0 && valid1 then
      judgeRing (updHst (fun h => { h with newestSeq := some c.seq, periodicFrom := s.tim.runMs, periodicFired := false }) s)
    else if retry then judgeRing (failCheckpoints s)
    else judgeRing (updHst (fun h => { h with ckptRetry := some c }) s)
  | _ => s

/-! ### The end of a calendar part program (R71, R153, R159) -/

/-- The calendar image area is marked FAILED: the write in progress ends failed, and so do those waiting
(assumption 34). -/
def failCalendar (s : State) : State :=
  raise .storeFault (updHst (fun h => { h with calFailed := true, calJob := none, calWaiting := [] }) s)

/-- The image written is that of the calendar now active, in the sector designated for it (R76). -/
def CalJob.holdsActive (j : CalJob) (c : Cal) : Bool := c.designation == some j.sector && j.content == c.active

/-- A calendar write has every part VALID: complete, or stale when a passive edit came after its grant (R71, R76). -/
def writeComplete (j : CalJob) (s : State) : State :=
  let s := updHst (fun h => { h with calJob := none }) s
  if j.edited then s
  else if j.ofActive then
    requestCheckpoint .calendar (if j.holdsActive s.cal then { s with cal := { s.cal with imageHeld := true } } else s)
  else requestCheckpoint .calendar { s with cal := { s.cal with persisted := true } }

def partProgrammed (valid : Bool) (s : State) : State :=
  match s.hst.engine, s.hst.calJob with
  | .part, some j =>
    let put (c : SlotContent) := updHst (fun h => { h with
      store := Store.put h.store (16 * j.sector + j.slot) c, engine := .idle,
      calJob := some { j with slot := j.slot + 1, next := if valid then j.next + 1 else j.next,
                              failed := j.failed || !valid } }) s
    if valid then
      if j.next = j.parts then writeComplete j (put (.part j.next j.parts j.content))
      else put (.part j.next j.parts j.content)
    else if j.failed then failCalendar (put .junk)
    else put .junk
  | _, _ => s

/-! ### The end of a sector erase (R148, R151, R153, R160) -/

/-- Every sector of an area from `first` is retired. -/
def Hst.allRetired (h : Hst) (first len : Nat) : Bool := (List.range len).all fun i => h.retired.contains (first + i)

/-- What the retirement of a sector means for its area (R160): the ring's pre-erase is judged again, or an area none of
whose sectors is usable, or the image area, is FAILED. -/
def areaLoses (x : Nat) (s : State) : State :=
  if x < 4 then
    if s.hst.allRetired 0 4 then failCheckpoints s else judgeRing s
  else if x < 10 then
    if s.hst.allRetired 4 6 then failLog s else s
  else failCalendar s

/-- A sector is not all BLANK after its erase: it is retired, and the log pre-erase is judged again (R148, R160). -/
def retireSector (x : Nat) (s : State) : State :=
  updHst Hst.judgeLogPreErase
    (areaLoses x (raise .storeFault (updHst (fun h => { h with retired := h.retired ++ [x] }) s)))

/-- A sector is all BLANK after its erase: a calendar write goes on to its parts, the log has gained slots. The log
pre-erase is judged again (R148, R153). -/
def sectorErased (x : Nat) (s : State) : State :=
  let s := updHst (fun h => { h with calJob := h.calJob.map fun j =>
    if j.sector = x then { j with erasing := false } else j }) s
  let s := if 4 ≤ x ∧ x < 10 then retryOwed s else s
  updHst Hst.judgeLogPreErase s

def eraseDone (notBlank : BitVec 16) (s : State) : State :=
  match s.hst.engine with
  | .erase x =>
    let s := updHst (fun h => { h with store := Store.erased h.store x notBlank, engine := .idle }) s
    if notBlank = 0 then sectorErased x s else retireSector x s
  | _ => s

/-! ### A reset while a program is in progress (R156) -/

/-- An interrupted program leaves its slot as the free value says (assumption 6). -/
def tearSlot (t : Torn) (k : Nat) (c : SlotContent) (m : Store) : Store :=
  match t with
  | .blank => m
  | .written => Store.put m k c
  | .invalid => Store.put m k .junk

/-- What the reset leaves of the program in progress. Two free values are taken: the second half of a checkpoint has
begun only once the first was written. -/
def tornStore (s : State) : Store :=
  let t0 := Config.tornSlot s.draws
  let t1 := Config.tornSlot (s.draws + 1)
  let m := s.hst.store
  match s.hst.engine with
  | .snapshot =>
    match s.hst.queue with
    | e :: _ => tearSlot t0 e.slot (.snapshot e.snap) m
    | [] => m
  | .checkpoint c p _ =>
    let m := tearSlot t0 (2 * p) (.half 0 c) m
    if t0 = .written then tearSlot t1 (2 * p + 1) (.half 1 c) m else m
  | .part =>
    match s.hst.calJob with
    | some j => tearSlot t0 (16 * j.sector + j.slot) (.part j.next j.parts j.content) m
    | none => m
  | _ => m

end Sys2Proof.Machine
end

