-- ==== Sys2Proof/Machine/Supply.lean ====
section
/-! DEFINITION. The Supply Monitor: the resets, the changes of supply state, the write sequence of WARNING, and what
ends every command: the reset of a RESTART, the arbiter, the withdrawal of a checkpoint that finds no position
(chapter 9). -/
namespace Sys2Proof.Machine

/-! ### Resets (R170, R171, R162, R196) -/

/-- Every RAM item takes its after-reset value, with the wall clock given; the store keeps its contents but for the
program interrupted (R156, R170). -/
def resetWith (utc subMs : Nat) (valid : Bool) (s : State) : State :=
  State.afterReset (tornStore s) utc subMs valid s.cal.lines[0].level s.cal.lines[1].level s.sup.mainsWarn
    (s.draws + 2) s.pending

/-- The RESET line, and the end of a RESTART: the wall clock and its validity stand (R43, R170, R171). -/
def resetEngine (s : State) : State := resetWith s.tim.utc s.tim.subMs s.tim.valid s

/-- A power-on: the backup domain decides the wall clock (R42, R170). -/
def powerOn (s : State) : State :=
  if s.tim.retained then resetEngine s else resetWith 0 0 false s

/-- Main supply falls: all activity stops and RAM is lost; the domain runs on (R40, R168; assumption 12). -/
def supplyLost (s : State) : State :=
  let r := resetEngine s
  { r with sup := { r.sup with powered := false } }

/-! ### The write sequence of WARNING (R167) -/

/-- A checkpoint carrying POWER_FAIL is outstanding or waits for its retry. -/
def Hst.powerFailWaits (h : Hst) : Bool :=
  (match h.ckptReq with
    | some c => Cause.powerFail.isIn c
    | none => false) ||
  (match h.ckptRetry with
    | some c => Cause.powerFail.isIn c.causes
    | none => false)

/-- No program and no read is in progress, and none waits. -/
def Hst.quiet (h : Hst) : Bool := h.engine == .idle && h.reads.isEmpty

/-- The pending snapshot queue is empty, or the log area is FAILED. -/
def Hst.drained (h : Hst) : Bool := h.queue.isEmpty || h.logFailed

/-- The conditions of R167 hold. -/
def sequenceEnded (s : State) : Bool := s.hst.drained && !s.hst.powerFailWaits && s.hst.quiet

/-- A checkpoint cannot be placed at the moment R167 names: the retry and the request carrying POWER_FAIL are withdrawn
with all their causes, and the lost-checkpoint count adds one (assumption 23). -/
def withdrawLost (s : State) : State :=
  if s.sup.supply = .warning ∧ s.hst.drained ∧ s.hst.quiet ∧ (s.hst.powerFailWaits ∨ s.hst.ckptRetry.isSome) ∧
      s.hst.nextPosition = none then
    { s with
      hst := { s.hst with
        ckptRetry := none
        ckptReq := s.hst.ckptReq.filter fun c => !Cause.powerFail.isIn c }
      sup := { s.sup with lostCkpt := satAdd s.sup.lostCkpt 1 } }
  else s

/-! ### Changes of the supply state (R165) -/

/-- A change of the supply state raises SUPPLY (R165). -/
def setSupply (u : Supply) (s : State) : State := raise .supply { s with sup := { s.sup with supply := u } }

/-- Entry to WARNING from RUN, one event (R48, R133, R166). -/
def enterWarning (s : State) : State :=
  requestCheckpoint .powerFail (setSupply .warning
    { s with
      hst := s.hst.suspendErase
      ulc := s.ulc.stopPolling
      tim := { s.tim with resumeFrom := some s.tim.wall } })

/-- Entry to DOWN; no debounce runs (R167 to R169). -/
def enterDown (s : State) : State :=
  setSupply .down { s with sup := { s.sup with debounce := none } }

/-- A cap record is due to be removed at the present wall time (R105). -/
def capExpiryDue (s : State) : Bool :=
  s.tim.valid &&
    ((match s.xcc.cfg.util with
      | some r => r.expired s.tim.utc
      | none => false) ||
    (match s.xcc.cfg.prem with
      | some r => r.expired s.tim.utc
      | none => false))

/-- What every entry to RUN brings: the sequence number becomes absent (R5), polling begins (R127), and the resume event
is raised (R48). Where a cap expires on the resume event, the first poll falls together with it (assumption 5). The resume
event belongs to the command that brings the entry, so a step that falls together with the entry is always taken after it,
as a step from the resumed time (R50; assumption 58). -/
def takeUpRun (s : State) : State :=
  eitherIf (capExpiryDue s) beginCycle (stepEvent true (earlierLocal s.tim.resumeFrom s.tim.offset))
    { s with frx := { s.frx with lastSeq := none } }

/-- Entry to RUN from STARTING (R179), the resume event within it (R48; assumption 58). -/
def enterRun (s : State) : State := takeUpRun (setSupply .run s)

/-- Entry to RUN from WARNING or DOWN: a ride-through is counted and a checkpoint with cause PERIODIC requested
(R164, R165, R168). -/
def rideThrough (s : State) : State :=
  enterRun (requestCheckpoint .periodic
    { s with sup := { s.sup with debounce := none, rideThrough := satAdd s.sup.rideThrough 1 } })

/-- The write sequence ends: the RESTART's reset, or RUN or DOWN by the level of MAINS_WARN (R167). -/
def endSequence (s : State) : State :=
  if s.sup.restarting then resetEngine s
  else if s.sup.mainsWarn then enterDown s
  else rideThrough s

/-! ### The end of a command -/

/-- A checkpoint carrying RESTART is outstanding, waiting for its retry, or being programmed. -/
def Hst.restartWaits (h : Hst) : Bool :=
  (match h.ckptReq with
    | some c => Cause.restart.isIn c
    | none => false) ||
  (match h.ckptRetry with
    | some c => Cause.restart.isIn c.causes
    | none => false) ||
  (match h.engine with
    | .checkpoint c _ _ => Cause.restart.isIn c.causes
    | _ => false)

/-- The restart ends in a reset: its checkpoint was programmed, or the area is FAILED (R171; assumption 24). -/
def restartDue (s : State) : Bool :=
  s.sup.restarting && s.sup.supply == .run && !s.hst.restartWaits

/-- What ends every command (assumptions 23, 24, 26). The engine's next choice comes before an end of the write sequence
that falls together with it (R154, R167; assumption 55). -/
def finish (s : State) : State := withdrawLost (arbitrate (if restartDue s then resetEngine s else s))

/-- A command other than those of the backup domain acts while main supply is present (assumption 12). -/
def command (f : State → State) (s : State) : State := if s.sup.powered then finish (f s) else s

end Sys2Proof.Machine
end

