-- ==== Sys2Proof/Machine/Recovery.lean ====
section
/-! DEFINITION. Recovery: the ring scan and the load of the selected checkpoint, the log scan with reconciliation, and
the load of the calendars with the exit from STARTING (section 9.5; R28, R78, R122, R141). -/
namespace Sys2Proof.Machine

/-- A stage's reads are all made: recovery's read in progress ends with them (assumption 27). -/
def endReads (next : Stage) (unread : List Nat) (s : State) : State :=
  { s with
    sup := { s.sup with stage := next, unread := unread }
    hst := match s.hst.engine with
      | .read .recovery _ => { s.hst with engine := .idle }
      | _ => s.hst }

/-! ### Stages 1 and 2 (R173, R174) -/

/-- The valid checkpoint at a record position: both slots VALID, halves 0 and 1, one sequence number (R173, R204). -/
def checkpointAt (m : Store) (p : Nat) : Option Checkpoint :=
  match Store.at m (2 * p), Store.at m (2 * p + 1) with
  | some (.half 0 c), some (.half 1 d) => if c.seq = d.seq then some c else none
  | _, _ => none

/-- `a` is newer than `b` (R163). -/
def seqNewer (a b : Nat) : Bool :=
  let d := (a + 2 ^ 32 - b) % 2 ^ 32
  decide (1 ≤ d) && decide (d ≤ 2147483647)

/-- The valid checkpoints of the ring with their positions. -/
def ringCheckpoints (m : Store) : List (Nat × Checkpoint) :=
  (List.range 32).filterMap fun p => (checkpointAt m p).map fun c => (p, c)

/-- The newest of the valid checkpoints (R173). -/
def selectNewest (l : List (Nat × Checkpoint)) : Option (Nat × Checkpoint) :=
  l.foldl (fun best x =>
    match best with
    | none => some x
    | some b => if seqNewer x.2.seq b.2.seq then some x else some b) none

/-- Every part of the selected checkpoint goes to the block that owns it (R174). -/
def loadCheckpoint (c : Checkpoint) (s : State) : State :=
  { s with
    reg := c.reg
    frx := { s.frx with counters := c.counters }
    netting := c.netting
    set := c.set
    tim := { s.tim with offset := c.offset, lastClose := c.lastClose, resumeFrom := some c.capture }
    cal := { s.cal with
      designation := c.cal.designation, persisted := c.cal.persisted, activation := c.cal.activation, map := c.cal.map,
      passiveAt := c.cal.passiveAt, imageHeld := c.cal.designation.isSome,
      lines := Vector.ofFn fun i => { s.cal.lines[i] with source := c.cal.sources[i], virt := c.cal.virts[i] } }
    xcc := { s.xcc with cfg := c.caps }
    ulc := { s.ulc with
      units := Vector.ofFn fun i => { s.ulc.units[i] with cfg := c.units[i] }
      weights := c.weights }
    premLock := c.premLock
    upt := { s.upt with mask := c.uptMask }
    ppt := { s.ppt with mask := c.pptMask } }

/-- With no checkpoint to load, the Register Bank, the netting method and the period frame counters take their factory
state (R17, R38): what STARTING put there before, FRAME_LOSS_SEEN among it, is cleared (assumption 41). Every other block
has held its factory values since the reset (R174). -/
def factory (s : State) : State :=
  { s with reg := .factory, netting := .vector, frx := { s.frx with counters := .zero } }

/-- The current checkpoint sector when none is selected (R173). -/
def firstBlankRing (m : Store) : Nat := ((List.range 4).find? fun x => Store.sectorBlank m x).getD 0

/-- A ring slot is not BLANK. -/
def ringUsed (m : Store) : Bool := !(List.range 4).all fun x => Store.sectorBlank m x

/-- Stages 1 and 2 (R173, R174). -/
def scanRing (s : State) : State :=
  let m := s.hst.store
  let s := endReads .log ((List.range 96).map (64 + ·)) s
  let s := { s with sup := { s.sup with ringHeld := ringUsed m } }
  match selectNewest (ringCheckpoints m) with
  | some (p, c) =>
    loadCheckpoint c
      { s with
        hst := { s.hst with ckptSector := p / 8, ckptLast := some (p % 8), newestSeq := some c.seq }
        sup := { s.sup with selected := some { period := c.reg.period, causes := c.causes } } }
  | none =>
    let s := factory (updHst (fun h => { h with ckptSector := firstBlankRing m, ckptLast := none })
      { s with sup := { s.sup with selected := none } })
    if ringUsed m then raise .storeFault s else s

/-! ### Stages 3 to 5 (R175 to R178) -/

/-- The snapshot in a slot that is VALID for the log. -/
def snapshotAt (m : Store) (k : Nat) : Option Snapshot :=
  match Store.at m k with
  | some (.snapshot r) => some r
  | _ => none

/-- The VALID slots of the log among some slots. -/
def logSlots (m : Store) (l : List Nat) : List (Nat × Snapshot) :=
  l.filterMap fun k => (snapshotAt m k).map fun r => (k, r)

/-- The newest snapshot: the highest number (R175). -/
def newestSnapshot (l : List (Nat × Snapshot)) : Option (Nat × Snapshot) :=
  l.foldl (fun best x =>
    match best with
    | none => some x
    | some b => if b.2.number < x.2.number then some x else some b) none

/-- The log's slots from behind the current sector round to the write pointer (R175). -/
def scanOrder (ptr : Nat) : List Nat :=
  ((ringAfter 4 6 (ptr / 16)).flatMap fun x => (List.range 16).map fun i => 16 * x + i).filter fun k =>
    !(k / 16 == ptr / 16 && decide (ptr < k))

/-- A VALID slot joins when its number is higher than every number already joined (R175). -/
def joinIndex (l : List (Nat × Snapshot)) : List (Nat × Nat) :=
  l.foldl (fun idx x => if idx.all fun y => decide (y.1 < x.2.number) then idx ++ [(x.2.number, x.1)] else idx) []

/-- The index and the write pointer (R175). -/
def Hst.scanLog (h : Hst) : Hst :=
  match newestSnapshot (logSlots h.store ((List.range 96).map (64 + ·))) with
  | some (k, _) => { h with writePtr := k, curLog := k / 16, index := joinIndex (logSlots h.store (scanOrder k)) }
  | none => { h with writePtr := 63, curLog := 4, index := [] }

/-- Part `n` of `total` in a sector, in a VALID slot. -/
def partIn (m : Store) (sector n total : Nat) : Option Calendar :=
  ((List.range 16).filterMap fun i =>
    match Store.at m (16 * sector + i) with
    | some (.part k t c) => if k = n ∧ t = total then some c else none
    | _ => none).head?

/-- The valid image a sector holds: one part of each number from 1 to the number of parts (R153). -/
def imageIn (m : Store) (sector : Nat) : Option Calendar :=
  match (([1, 2, 3, 4, 5] : List Nat).filter fun t =>
    (List.range t).all fun i => (partIn m sector (i + 1) t).isSome) with
  | t :: _ => partIn m sector 1 t
  | [] => none

/-- A sector needs a recovery erase (R176). -/
def Hst.needsErase (designation : Option Nat) (h : Hst) (x : Nat) : Bool :=
  !Store.sectorBlank h.store x &&
    if x < 4 then x != h.ckptSector && (List.range 8).all fun i => (checkpointAt h.store (8 * x + i)).isNone
    else if x < 10 then x != h.curLog && h.index.all fun y => y.2 / 16 != x
    else designation != some x && (imageIn h.store x).isNone

/-- The recovery erases, in ascending sector number, then both pre-erases (R176). -/
def enterErases (s : State) : State :=
  let s := updHst (fun h => { h with eraseList := (List.range 12).filter (h.needsErase s.cal.designation) }) s
  updHst Hst.judgeLogPreErase (judgeRing s)

/-- The snapshots of the index numbered `n` or above, in ascending number. -/
def Hst.newerSnapshots (n : Nat) (h : Hst) : List Snapshot :=
  (h.index.filter fun x => decide (n ≤ x.1)).filterMap fun x => snapshotAt h.store x.2

/-- The Register Bank as the close of the newest snapshot left it (R177). -/
def RegBank.reconcile (snaps : List Snapshot) (last : Snapshot) (r : RegBank) : RegBank :=
  { r with
    forfeit := snaps.foldl (fun f x => addWh f x.forfeit) r.forfeit, imp := .replicate 8 0, exp := .replicate 8 0,
    ti := last.ti, te := last.te, tiOpen := last.ti, teOpen := last.te, credit := last.creditOut,
    period := last.number + 1, openTime := last.closeTime, flags := .clear }

/-- Stage 4, reconciliation (R177). -/
def reconcile (s : State) : State :=
  let snaps := s.hst.newerSnapshots s.reg.period
  match snaps.getLast? with
  | some last =>
    requestCheckpoint .restart
      { s with
        reg := s.reg.reconcile snaps last
        frx := { s.frx with counters := .zero }
        set := { s.set with owed := none }
        tim := { s.tim with lastClose :=
          match last.billingDate with
          | some d => laterDate s.tim.lastClose (some d)
          | none => s.tim.lastClose } }
  | none => s

/-- RESTART_LOSS is due (R178). -/
def restartLossDue (applied : Bool) (s : State) : Bool :=
  match s.sup.selected with
  | some x => applied || !Cause.powerFail.isIn x.causes
  | none => applied || s.sup.ringHeld

/-- The number of the newest snapshot of the log, 0 when it holds none. -/
def Hst.newestNumber (h : Hst) : Nat :=
  match h.index.getLast? with
  | some x => x.1
  | none => 0

/-- Stage 5: the period flags and the snapshot gap (R34, R178). -/
def markRecovered (n : Nat) (applied : Bool) (s : State) : State :=
  let s := setFlags (fun f => { f with
    restartLoss := f.restartLoss || restartLossDue applied s,
    timeInvalidSeen := f.timeInvalidSeen || !s.tim.valid }) s
  updHst (fun h => { h with gap := if h.newestNumber < n - 1 then some (n - 1 - h.newestNumber) else none }) s

/-- Stages 3 to 5 (R175 to R178), and the reads of stage 6 asked for (R172). They are asked for in the command in which
stage 4 requests its RESTART checkpoint, so they all go before its program (R154; assumption 59). -/
def scanLog (s : State) : State :=
  let s := updHst Hst.scanLog (endReads .images ((List.range 32).map (160 + ·)) s)
  let s := enterErases s
  let n := s.reg.period
  let applied := !(s.hst.newerSnapshots n).isEmpty
  markRecovered n applied (reconcile s)

/-! ### Stages 6 to 8 (R179) -/

/-- The active calendar from the designated image, or the built-in calendar (R78). -/
def loadActive (s : State) : State :=
  match s.cal.designation with
  | none => { s with cal := { s.cal with active := .builtIn, imageHeld := false } }
  | some x =>
    match imageIn s.hst.store x with
    | some c => { s with cal := { s.cal with active := c, imageHeld := true } }
    | none =>
      raise .storeFault { s with cal := { s.cal with active := .builtIn, designation := none, imageHeld := false } }

/-- The passive calendar from its image when the flag says one was written (R78). -/
def loadPassive (s : State) : State :=
  if s.cal.persisted then
    match imageIn s.hst.store s.cal.passiveAt with
    | some c => { s with cal := { s.cal with passive := some c } }
    | none =>
      raise .storeFault { s with cal := { s.cal with passive := none, persisted := false, activation := none } }
  else { s with cal := { s.cal with passive := none, activation := none } }

/-- The band fold against the active calendar (R28). -/
def foldActive (s : State) : State := { s with reg := s.reg.fold s.cal.active.nb s.cal.active.fallback }

/-- A checkpoint is outstanding, waits for its retry, or is being programmed (R169). -/
def Hst.checkpointPending (h : Hst) : Bool :=
  h.ckptReq.isSome || h.ckptRetry.isSome ||
    match h.engine with
    | .checkpoint _ _ _ => true
    | _ => false

/-- STARTING is left: for RUN, or for WARNING or DOWN while MAINS_WARN is asserted (R169, R179). -/
def leaveStarting (s : State) : State :=
  if s.sup.mainsWarn then
    if s.hst.checkpointPending then requestCheckpoint .powerFail (setSupply .warning s) else enterDown s
  else enterRun s

/-- The running states of stage 8: XCC, then the ULC, which shares what XCC hands on, then the start-up evaluation of
the band (R55, R122, R141, R179). -/
def establish (s : State) : State :=
  let s := establishCap s
  evalBand (handOn { s with ulc := s.ulc.establish })

/-- Stages 6 to 8 (R179). -/
def loadCalendars (s : State) : State :=
  leaveStarting (establish (foldActive (loadPassive (loadActive (endReads .done [] s)))))

end Sys2Proof.Machine
end

