-- ==== Sys2Proof/Machine/Frames.lean ====
section
/-! DEFINITION. The Frame Receiver: frame health, the sequence judgement, acceptance and booking (chapter 1). -/
namespace Sys2Proof.Machine

def updCounters (f : Counters → Counters) (s : State) : State :=
  { s with frx := { s.frx with counters := f s.frx.counters } }

/-! ### Frame health (R10 to R14) -/

/-- A change of the health state, with the relock count that goes with it (R14): FRAME_HEALTH is raised, entry to LOST
sets the lost-seen flag and FRAME_LOSS_SEEN, and the Export Cap Controller learns the new state. -/
def changeHealth (h : Health) (relock : Nat) (s : State) : State :=
  let s := { s with frx := { s.frx with health := h, relock := relock, lostSeen := s.frx.lostSeen || h == .lost } }
  let s := if h = .lost then setFlags (fun f => { f with frameLossSeen := true }) s else s
  capHealth h (raise .frameHealth s)

/-- Where an arrival takes the health state, with the relock count (R11, R12). -/
def healthOnArrival (h : Health) (relock : Nat) : Health × Nat :=
  match h with
  | .noSignal | .locked | .gap => (.locked, 0)
  | .lost => (.relocking, 1)
  | .relocking => if relock + 1 = 16 then (.locked, 0) else (.relocking, relock + 1)

/-- The health machine takes an arrival (R11, R12). -/
def arrivalHealth (s : State) : State :=
  let r := healthOnArrival s.frx.health s.frx.relock
  if r.1 = s.frx.health then { s with frx := { s.frx with relock := r.2 } } else changeHealth r.1 r.2 s

/-! ### Sequence judgement and acceptance (R4 to R8) -/

/-- How an arrival in RUN is treated (R4). -/
inductive SeqJudge where
  | duplicate
  | normal
  | missed (n : Nat)
  | resync
  deriving DecidableEq, Repr

def judgeSeq (last : Option Byte) (seq : Byte) : SeqJudge :=
  match last with
  | none => .normal
  | some l =>
    let d := (seq - l).toNat
    if d = 0 then .duplicate
    else if d = 1 then .normal
    else if d ≤ 8 then .missed (d - 1)
    else .resync

/-- The counters and flags of an accepted frame (R4, R6, R7). -/
def acceptMarks (f : PhaseFrame) (j : SeqJudge) (s : State) : State :=
  let missed := match j with
    | .missed n => n
    | _ => 0
  let s := updCounters (fun c => { c with
    missed := satAdd c.missed missed, clamped := satAdd c.clamped f.clampCount }) s
  let s := { s with frx := { s.frx with lastSeq := some f.seq } }
  setFlags (fun p => { p with
    resyncSeen := p.resyncSeen || j == .resync,
    frontendFaultSeen := p.frontendFaultSeen || f.status != .ok }) s

/-- The booking of an accepted frame under the netting method and the band in effect (R19 to R24). -/
def bookFrame (f : PhaseFrame) (s : State) : State :=
  { s with reg := s.reg.book (importOf s.netting f.e1 f.e2 f.e3) (exportOf s.netting f.e1 f.e2 f.e3) s.cal.band }

/-- An accepted frame, one event (R8, R21). -/
def acceptFrame (f : PhaseFrame) (j : SeqJudge) (s : State) : State :=
  capFrame f.siteSum (bookFrame f (acceptMarks f j s))

/-- What happens to an arrival itself (R3, R4). -/
def takeArrival (f : PhaseFrame) (s : State) : State :=
  if s.sup.supply = .run then
    match judgeSeq s.frx.lastSeq f.seq with
    | .duplicate => updCounters (fun c => { c with dups := satAdd c.dups 1 }) s
    | j => acceptFrame f j s
  else updCounters (fun c => { c with discarded := satAdd c.discarded 1 }) s

/-- The health change and the frame reach the Export Cap Controller separately, and their order matters, exactly when
this arrival takes health to LOCKED in FAILSAFE (R115). -/
def orderMatters (s : State) : Bool :=
  s.xcc.state == .failsafe && s.sup.supply == .run && (healthOnArrival s.frx.health s.frx.relock).1 == .locked

/-- An arrival (R3, R10, R115). -/
def arrival (f : PhaseFrame) (s : State) : State :=
  eitherIf (orderMatters s) arrivalHealth (takeArrival f)
    { s with frx := { s.frx with lastArrival := some s.tim.runMs } }

/-- A run of characters has ended (R1, R2). -/
def runEnded (run : List RxChar) (s : State) : State :=
  match parsePhaseFrame run with
  | some f => arrival f s
  | none => updCounters (fun c => { c with errors := satAdd c.errors 1 }) s

/-- Characters reach the receiver. At most 11 of a run are collected, and a twelfth stands for all that are dropped; the
run ends with 1 ms of line idle, and an idle line with no run before it ends none (R1). -/
def collectRun (r : LinkRun) (s : State) : State :=
  let all := (s.frx.run ++ r.chars).take 12
  if r.ended && !all.isEmpty then runEnded all { s with frx := { s.frx with run := [] } }
  else { s with frx := { s.frx with run := all } }

/-! ### Silence (R11, R12) -/

/-- The run time at which the silence reaches `ms`. -/
def silenceAt (ms : Nat) (s : State) : Nat := s.frx.lastArrival.getD 0 + ms

def silence500 (s : State) : State :=
  match s.frx.health with
  | .locked => changeHealth .gap 0 (passTo (silenceAt 500 s) s)
  | .relocking => changeHealth .lost 0 (passTo (silenceAt 500 s) s)
  | _ => s

def silence2000 (s : State) : State :=
  match s.frx.health with
  | .noSignal | .gap => changeHealth .lost 0 (passTo (silenceAt 2000 s) s)
  | _ => s

end Sys2Proof.Machine
end

