-- ==== Sys2Proof/Machine/Reports.lean ====
section
/-! DEFINITION. What the reads answer: the copies and reports taken from the state at one moment (R36, R52, R77, R121,
R140, R193, R195). -/
namespace Sys2Proof.Machine

/-- The band registers as read: those at or above nb read 0 (R36; assumption 35). -/
def bandsRead (nb : Nat) (v : Vector Nat 8) : Vector Nat 8 := Vector.ofFn fun i => if i.val < nb then v[i] else 0

/-- A copy of the register state, taken now (R36, R193). -/
def regCopy (s : State) : RegCopy :=
  { ti := s.reg.ti, te := s.reg.te, tiOpen := s.reg.tiOpen, teOpen := s.reg.teOpen, ri := s.reg.ri, re := s.reg.re,
    imp := bandsRead s.cal.active.nb s.reg.imp, exp := bandsRead s.cal.active.nb s.reg.exp, credit := s.reg.credit,
    forfeit := s.reg.forfeit, period := s.reg.period, openTime := s.reg.openTime, band := s.cal.band,
    capture := s.tim.stamp }

/-- READ_TIME (R52). -/
def timeReport (s : State) : TimeReport :=
  { utc := s.tim.utc, valid := s.tim.valid, offset := s.tim.offset, localDay := s.tim.localDay,
    weekday := weekdayOf s.tim.localDay, secondOfDay := s.tim.localSec % 86400, runSeconds := s.tim.runMs / 1000,
    lastClose := s.tim.lastClose }

def OvLine.report (l : OvLine) : LineReport :=
  { debounced := l.debounced, source := l.source, virt := l.virt, effective := l.effective }

/-- What SUMMARY carries beside the calendar's own items (R77). -/
def summaryExtras (s : State) : SummaryExtras :=
  { band := s.cal.band, source := s.cal.source, lines := Vector.ofFn fun i => s.cal.lines[i].report, map := s.cal.map,
    activation := s.cal.activation, persisted := s.cal.persisted, owed := s.activationOwed,
    designation := s.cal.designation }

/-- The end of a hold that is still running; an expired hold counts as none (R112, R121; assumption 49). -/
def runningHold (s : State) : Option Nat := s.xcc.holdEnd.filter fun t => decide (s.tim.runMs < t)

/-- READ_CAPS (R121). The hold time remaining is in milliseconds (assumption 44). -/
def capsReport (s : State) : CapsReport :=
  { util := s.xcc.cfg.util, prem := s.xcc.cfg.prem, ceff := s.xcc.cfg.ceff, state := s.xcc.state, q := s.xcc.q,
    trip := s.xcc.cfg.trip, holdEndSec := (runningHold s).map (· / 1000),
    holdLeft := (runningHold s).map (· - s.tim.runMs), lastXs := s.xcc.lastXs, load := s.xcc.load,
    allowance := s.xcc.allowance, fsc := s.xcc.cfg.fsc, fsEnable := s.xcc.cfg.fsEnable, hold := s.xcc.cfg.hold }

/-- READ_UNITS (R140). -/
def unitsReport (s : State) : UnitsReport :=
  { units := Vector.ofFn fun i =>
      { entry := s.ulc.units[i], effStandby := s.ulc.units[i].cfg.effStandby, active := s.ulc.units[i].isActive }
    weights := s.ulc.weights, handState := s.ulc.handState, handA := s.ulc.handA, pool := s.ulc.pool,
    noActive := s.ulc.noActive }

/-- What the engine is doing, apart from a suspended erase. -/
def Engine.activity : Engine → Activity
  | .idle => .idle
  | .snapshot | .checkpoint _ _ _ | .part => .program
  | .read _ _ => .read
  | .erase _ => .erase

/-- The engine's activity (R154). -/
def Hst.activity (h : Hst) : Activity :=
  if h.suspended.isSome then .suspended h.engine.activity else h.engine.activity

/-- GET_STATUS on a port (R195). -/
def statusReport (p : Port) (s : State) : StatusReport :=
  { supply := s.sup.supply, rideThrough := s.sup.rideThrough, lostCkpt := s.sup.lostCkpt,
    restarting := s.sup.restarting, health := s.frx.health, relock := s.frx.relock, lostSeen := s.frx.lostSeen,
    valid := s.tim.valid, band := s.cal.band, source := s.cal.source,
    debounced := Vector.ofFn fun i => s.cal.lines[i].debounced,
    effective := Vector.ofFn fun i => s.cal.lines[i].effective, period := s.reg.period, owed := s.set.owed,
    curt := s.xcc.state, ceff := s.xcc.cfg.ceff, allowance := s.xcc.allowance,
    links := Vector.ofFn fun i => s.ulc.units[i].link, notFollowing := Vector.ofFn fun i => s.ulc.units[i].notFollowing,
    noActive := s.ulc.noActive, activity := s.hst.activity, ckptFailed := s.hst.ckptFailed,
    logFailed := s.hst.logFailed, calFailed := s.hst.calFailed, retired := s.hst.retired,
    pendingCount := s.hst.queue.length, locks := s.hst.locks, gap := s.hst.gap, premLock := s.premLock,
    notices := (s.port p).notices, mask := (s.port p).mask, viewState := (s.port p).view.code,
    stalled := (s.port p).stalled, bad := (s.port p).bad, dropped := (s.port p).dropped }

end Sys2Proof.Machine
end

