-- ==== Sys2Proof/Machine/Operands.lean ====
section
/-! DEFINITION. The operands of requests: flags, values brought into range, and an owner's checks of the parameters it
is handed, each the R<n> of its request. -/
namespace Sys2Proof.Machine

/-- What an owner answers: a status with its payload, or nothing yet (R182). -/
abbrev Reply := Option (Status × Answer)

/-- OK with a payload. -/
def okWith (a : Answer) (s : State) : State × Reply := (s, some (.ok, a))

/-- RANGE with its detail: the item and the index concerned (R187, R197). -/
def rangeAt (item index : Nat) (s : State) : State × Reply := (s, some (.range, .detail item index))

/-- A status with no payload. -/
def bare (st : Status) (s : State) : State × Reply := (s, some (st, .empty))

/-- A flag byte: clear whatever its upper bits, or set; anything else is neither (R197, R198; assumption 15). -/
def flagOf (n : Nat) : Option Bool := if n % 2 = 0 then some false else if n = 1 then some true else none

/-- An optional flag lies in its range. -/
def optFlagOk (n : Option Nat) : Bool :=
  match n with
  | some n => (flagOf n).isSome
  | none => true

/-- An optional flag's value. -/
def optFlag (n : Option Nat) : Option Bool := n.bind flagOf

/-- A value brought up to `lo` and down to `hi`. -/
def clampTo (lo hi n : Nat) : Nat := max lo (min hi n)

/-- Whether a carried value is stored otherwise (R188). -/
def clamped (lo hi n : Nat) : Bool := clampTo lo hi n != n

def optClamp (lo hi : Nat) (n : Option Nat) : Option Nat := n.map (clampTo lo hi)

def optClamped (lo hi : Nat) (n : Option Nat) : Bool :=
  match n with
  | some n => clamped lo hi n
  | none => false

/-- SET_TIME's range, which is also that of an expiry: 2020 to 2099 (R49, R102). -/
def timeInRange (t : Nat) : Bool := decide (631152000 ≤ t) && decide (t ≤ 3155759999)

/-- A local offset is in range (R44). -/
def offsetInRange (o : Int) : Bool := decide (-720 ≤ o) && decide (o ≤ 840) && o % 15 == 0

/-- An expiry may stand: in range, and after the present count when time is VALID (R102). -/
def expiryOk (t : Tim) (e : Option Nat) : Bool :=
  match e with
  | some e => timeInRange e && (!t.valid || decide (t.utc < e))
  | none => true

/-- A local date-time of R70: 2020-01-01 00:00 to 2099-12-31 23:59, on a date that exists. -/
def RawDateTime.ok (t : RawDateTime) : Bool :=
  decide (20 ≤ t.year) && decide (t.year ≤ 99) && validDate (2000 + t.year) t.month t.day && decide (t.minute < 1440)

def RawDateTime.time (t : RawDateTime) : ActTime :=
  { day := dayNumber (2000 + t.year) t.month t.day, minute := t.minute }

/-- The fold of R62's range: the first entry that is FORCE with k above 7. A CALENDAR entry's band byte is not judged
(assumption 45). -/
def badMapEntry (m : Vector RawMapEntry 4) : Option Nat :=
  (List.range 4).find? fun i =>
    match m.toList[i]? with
    | some e => e.kind == 1 && decide (7 < e.band)
    | none => false

/-- The entry stored: a CALENDAR entry keeps nothing of its band byte (assumption 45). -/
def RawMapEntry.entry (e : RawMapEntry) : MapEntry := if e.kind = 1 then .force (Fin.ofNat 8 e.band) else .calendar

/-! ### The passive edits' own checks (R65 to R68) -/

/-- PASSIVE_BANDS: the first failure as table and index (R65). -/
def bandsFault (nb fb : Nat) (l : List RawBand) : Option CalFault :=
  firstFault
    ([(decide (1 ≤ nb) && decide (nb ≤ 8), (1, 0)), (decide (l.length = nb), (1, 0)), (decide (fb ≤ 7), (1, 0))] ++
      l.zipIdx.map fun (b, i) => (decide (b.value ≤ 1000) && decide (b.rank ≤ 7), (1, i)))

def RawBand.entry (b : RawBand) : BandEntry := { name := b.name, value := b.value, rank := Fin.ofNat 8 b.rank }

/-- PASSIVE_SEASON (R66). -/
def seasonFault (i : Nat) (x : Option RawSeason) : Option CalFault :=
  firstFault [(decide (i < 4), (2, i)),
    (match x with
      | some x => decide (x.week < 4) && validMonthDay x.month x.day
      | none => true, (2, i))]

def RawSeason.entry (x : RawSeason) : Season := { month := x.month, day := x.day, week := Fin.ofNat 4 x.week }

/-- PASSIVE_WEEK (R66). -/
def weekFault (i : Nat) (w : Option (Vector Nat 7)) : Option CalFault :=
  firstFault [(decide (i < 4), (3, i)),
    (match w with
      | some w => w.toList.all fun d => decide (d < 12)
      | none => true, (3, i))]

/-- Minutes strictly increasing through a list. -/
def increasing : List RawPoint → Bool
  | a :: b :: rest => decide (a.minute < b.minute) && increasing (b :: rest)
  | _ => true

/-- PASSIVE_DAY (R67). -/
def dayFault (i : Nat) (d : Option (List RawPoint)) : Option CalFault :=
  firstFault [(decide (i < 12), (4, i)),
    (match d with
      | some l => decide (1 ≤ l.length) && decide (l.length ≤ 8) &&
          l.all (fun p => decide (p.minute < 1440) && decide (p.band ≤ 7)) && increasing l
      | none => true, (4, i))]

def RawPoint.entry (p : RawPoint) : SwitchPoint := { minute := p.minute, band := Fin.ofNat 8 p.band }

/-- The date of a special day is valid: recurring, its year byte not judged (assumption 45), or full in 2020..2099
(R53, R68). -/
def RawSpecial.dateOk (x : RawSpecial) : Bool :=
  if x.kind = 0 then validMonthDay x.month x.day
  else decide (20 ≤ x.year) && decide (x.year ≤ 99) && validDate (2000 + x.year) x.month x.day

/-- PASSIVE_SPECIAL (R68). -/
def specialFault (i : Nat) (x : Option RawSpecial) : Option CalFault :=
  firstFault [(decide (i < 24), (5, i)),
    (match x with
      | some x => decide (x.profile < 12) && RawSpecial.dateOk x
      | none => true, (5, i))]

def RawSpecial.entry (x : RawSpecial) : Special :=
  { date := if x.kind = 0 then .recurring x.month x.day else .full (2000 + x.year) x.month x.day
    profile := Fin.ofNat 12 x.profile }

/-! ### Sectors (R150) -/

/-- The sectors named, or nothing where the list is refused: empty, above six, or with a sector outside 4..9
(assumption 19). -/
def SectorList.named (l : SectorList) : Option (List Nat) :=
  match l with
  | .all => some [4, 5, 6, 7, 8, 9]
  | .list l =>
    if 1 ≤ l.length ∧ l.length ≤ 6 ∧ (l.all fun x => decide (4 ≤ x) && decide (x ≤ 9)) = true then some l else none

end Sys2Proof.Machine
end

