-- ==== Sys2Proof/Machine/Settings.lean ====
section
/-! DEFINITION. What the owners do with the requests on frames, registers, time, override lines, settlement, caps,
units, views, notices and the premises lock: the state they leave and their answer. -/
namespace Sys2Proof.Machine

/-- An accepted setting change requests a checkpoint with cause CONFIG (R164). -/
abbrev setting (s : State) : State := requestCheckpoint .config s

/-! ### Frames and registers (R16, R18, R36, R194) -/

def ownClearFrameLoss (s : State) : State × Reply := okWith .empty { s with frx := { s.frx with lostSeen := false } }

def ownSetNettingMethod (m : Option Nat) (s : State) : State × Reply :=
  match m with
  | none => okWith (.method s.netting) s
  | some m =>
    let n := if m = 1 then Netting.phase else Netting.vector
    okWith (.method n) (setting { s with netting := n })

def ownReadRegisters (p : Port) (s : State) : State × Reply :=
  match (s.port p).view with
  | .none => okWith (.registers (regCopy s) none) s
  | .held copy expiry => okWith (.registers copy (some (expiry - s.tim.runMs))) s
  | .expired _ _ => bare .viewExpired s

/-! ### Time (R44, R49, R52) -/

def ownSetTime (t : Nat) (s : State) : State × Reply :=
  if timeInRange t then
    let earlier := earlierLocal (some s.tim.wall) s.tim.offset
    okWith (.utc t) (stepEvent false earlier
      (raise .time { s with tim := { s.tim with utc := t, subMs := 0, valid := true } }))
  else rangeAt 1 0 s

def ownSetLocalOffset (o : Option Int) (s : State) : State × Reply :=
  match o with
  | none => okWith (.offset s.tim.offset) s
  | some o =>
    if offsetInRange o then
      let earlier := earlierLocal (some s.tim.wall) s.tim.offset
      let moved := { s with tim := { s.tim with offset := o } }
      okWith (.offset o)
        (setting (if o = s.tim.offset then moved else stepEvent false earlier (raise .time moved)))
    else rangeAt 1 0 s

def ownReadTime (s : State) : State × Reply := okWith (.time (timeReport s)) s

/-! ### Override lines (R59 to R62) -/

def ownSetOverrideSource (line : Nat) (source : Option Nat) (s : State) : State × Reply :=
  let i := Fin.ofNat 2 line
  match source with
  | none => okWith (.overrideLine s.cal.lines[i].source s.cal.lines[i].debounced s.cal.lines[i].virt) s
  | some c =>
    okWith .empty (setting (updLine i (fun l => { l with source := if c = 1 then .virtual else .pin }) s))

def ownSetOverride (line value : Nat) (s : State) : State × Reply :=
  if value ≤ 1 then okWith .empty (setting (updLine (Fin.ofNat 2 line) (fun l => { l with virt := value == 1 }) s))
  else rangeAt 2 0 s

def ownSetOverrideMap (m : Option (Vector RawMapEntry 4)) (s : State) : State × Reply :=
  match m with
  | none => okWith (.overrideMap s.cal.map) s
  | some m =>
    match badMapEntry m with
    | some i => rangeAt 1 i s
    | none =>
      okWith .empty (setting (overrideChange
        { s with cal := { s.cal with map := Vector.ofFn fun i => RawMapEntry.entry m[i] } }))

/-! ### Settlement (R79, R83) -/

def ownSetSettlement (mode cap day : Option Nat) (s : State) : State × Reply :=
  if 999999999 < cap.getD 0 then rangeAt 2 0 s
  else if 28 < day.getD 0 then rangeAt 3 0 s
  else
    let set := { s.set with
      mode := match mode with
        | some m => if m = 1 then .banded else .total
        | none => s.set.mode
      cap := cap.getD s.set.cap, day := day.getD s.set.day }
    let s1 := { s with set := set }
    okWith (.settlement set.mode set.cap set.day) (if mode.isNone && cap.isNone && day.isNone then s1 else setting s1)

def ownClosePeriod (s : State) : State × Reply :=
  if s.reg.period = periodMax then rangeAt 0 0 s
  else
    let t := trigger .commanded none s
    match t.set.owed with
    | some o => (t, some (.deferred, .owedClose o))
    | none => okWith (.closed s.reg.period) t

/-! ### Caps (R102 to R107, R121) -/

/-- The two sources of cap records. -/
inductive CapSource where
  | utility | premises
  deriving DecidableEq, Repr

def CapSettings.record (src : CapSource) (c : CapSettings) : Option CapRecord :=
  match src with
  | .utility => c.util
  | .premises => c.prem

def CapSettings.setRecord (src : CapSource) (r : Option CapRecord) (c : CapSettings) : CapSettings :=
  match src with
  | .utility => { c with util := r }
  | .premises => { c with prem := r }

/-- The record a request sets, each field brought into range (R102). -/
def newRecord (limit hyst : Nat) (expiry : Option Nat) (t : Tim) : CapRecord :=
  { limit := clampTo 0 60000 limit, hyst := clampTo 0 5000 hyst, expiry := expiry, setTime := t.stamp }

def setCap (src : CapSource) (limit hyst : Nat) (expiry : Option Nat) (s : State) : State × Reply :=
  if expiryOk s.tim expiry then
    let r := newRecord limit hyst expiry s.tim
    okWith (.capRecord r (clamped 0 60000 limit) (clamped 0 5000 hyst))
      (setting (setCapRecords (CapSettings.setRecord src (some r)) s))
  else rangeAt 3 0 s

/-- A clear answers whether no record was present, one flag in both cases (R103, R106; assumption 44). -/
def clearCap (src : CapSource) (s : State) : State × Reply :=
  if (s.xcc.cfg.record src).isSome then
    okWith (.capCleared false) (setting (setCapRecords (CapSettings.setRecord src none) s))
  else okWith (.capCleared true) s

def ownSetCapControl (fsc enable trip hold : Option Nat) (s : State) : State × Reply :=
  if optFlagOk enable then
    let s1 :=
      if fsc.isNone && enable.isNone && trip.isNone && hold.isNone then s
      else setting (setCapControl (optClamp 0 60000 fsc) (optFlag enable) (optClamp 1 255 trip) (optClamp 0 3600 hold) s)
    okWith (.capControl s1.xcc.cfg.fsc s1.xcc.cfg.fsEnable s1.xcc.cfg.trip s1.xcc.cfg.hold (optClamped 0 60000 fsc)
      (optClamped 1 255 trip) (optClamped 0 3600 hold)) s1
  else rangeAt 2 0 s

def ownReadCaps (s : State) : State × Reply := okWith (.caps (capsReport s)) s

/-! ### Units (R123 to R126, R140) -/

/-- A change of a unit's configuration fields other than link enable. -/
def UnitEntry.setConfig (slot : Option Nat) (maskOff : Option Bool) (u : UnitEntry) : UnitEntry :=
  { u with cfg := { u.cfg with
      slot := match slot with
        | some n => Fin.ofNat 4 n
        | none => u.cfg.slot
      maskOff := maskOff.getD u.cfg.maskOff } }

/-- The unit configuration is applied (R124): a changed link enable raises UNIT and always shares; otherwise the active
set or the weight of an active unit must have changed (R131, R134, R137). Where a disable brings the next unit's poll, the
sharing and that poll fall together, and either may be taken first (R137; assumptions 5, 52): the ALLOWANCE carries the new
allowance or the old one. A mask-off that changes the effective standby of a unit outside the active set shares nothing
(assumption 57). -/
def applyUnitConfig (i : Fin 4) (enable : Option Bool) (slot : Option Nat) (maskOff : Option Bool) (s : State) :
    State :=
  let u := s.ulc.units[i]
  let on := enable.getD u.cfg.enable
  let l := s.ulc.updUnit i fun u => (u.setEnable on).setConfig slot maskOff
  let s1 : State := { s with ulc := l }
  if on ≠ u.cfg.enable then
    if on then shareAnyway s.ulc (raise .unit s1)
    else eitherIf (s.ulc.dropPolls i) (shareAnyway s.ulc) (dropUnit i) (raise .unit s1)
  else if l.activeSet ≠ s.ulc.activeSet then activeSetChanged s1
  else if l.units[i].isActive ∧ l.weight i ≠ s.ulc.weight i then share s1
  else s1

def ownSetUnitConfig (unit : Nat) (enable slot maskOff : Option Nat) (s : State) : State × Reply :=
  if h : unit < 4 then
    if !optFlagOk enable then rangeAt 2 0 s
    else if 3 < slot.getD 0 then rangeAt 3 0 s
    else if !optFlagOk maskOff then rangeAt 4 0 s
    else
      let i : Fin 4 := ⟨unit, h⟩
      let s1 :=
        if enable.isNone && slot.isNone && maskOff.isNone then s
        else setting (applyUnitConfig i (optFlag enable) slot (optFlag maskOff) s)
      okWith (.unitConfig s1.ulc.units[i].cfg) s1
  else rangeAt 1 0 s

/-- The standby request is stored; where the effective standby of an enabled unit changes, the active set is formed and
the allowances shared again (R125). -/
def applyStandby (i : Fin 4) (b : Bool) (s : State) : State :=
  let u := s.ulc.units[i]
  let l := s.ulc.updUnit i fun u => { u with cfg := { u.cfg with standby := b } }
  let s1 : State := { s with ulc := l }
  if u.cfg.enable ∧ l.units[i].cfg.effStandby ≠ u.cfg.effStandby then shareAnyway s.ulc s1 else s1

/-- The answer of SET_UNIT_STANDBY (R125). -/
def standbyAnswer (i : Fin 4) (s : State) : State × Reply :=
  let c := s.ulc.units[i].cfg
  okWith (.standby c.standby c.maskOff c.effStandby) s

/-- SET_UNIT_STANDBY (R125), which gives no order of its two refusals: with a unit above 3 and a value neither ON nor OFF
the detail is that of the unit, item 1 (assumption 19). -/
def ownSetUnitStandby (unit : Nat) (standby : Option Nat) (s : State) : State × Reply :=
  if h : unit < 4 then
    match standby with
    | none => standbyAnswer ⟨unit, h⟩ s
    | some n =>
      match flagOf n with
      | some b => standbyAnswer ⟨unit, h⟩ (setting (applyStandby ⟨unit, h⟩ b s))
      | none => rangeAt 2 0 s
  else rangeAt 1 0 s

/-- The weights present are stored; a changed weight of an active unit shares again (R126, R137). -/
def applyWeights (w : Vector (Option Nat) 4) (s : State) : State :=
  let l := { s.ulc with weights := Vector.ofFn fun i => (optClamp 1 100 w[i]).getD s.ulc.weights[i] }
  let s1 : State := { s with ulc := l }
  if (unitNumbers.any fun i => l.units[i].isActive && l.weight i != s.ulc.weight i) then share s1 else s1

def ownSetProfileWeights (w : Vector (Option Nat) 4) (s : State) : State × Reply :=
  let s1 := if (w.all (·.isNone)) then s else setting (applyWeights w s)
  okWith (.weights s1.ulc.weights (Vector.ofFn fun i => optClamped 1 100 w[i])) s1

def ownReadUnits (s : State) : State × Reply := okWith (.units (unitsReport s)) s

/-! ### Ports' own requests (R186, R191 to R195) -/

def ownGetStatus (p : Port) (s : State) : State × Reply := okWith (.status (statusReport p s)) s

def ownReadNotices (p : Port) (s : State) : State × Reply :=
  okWith (.notices (s.port p).notices) (s.updPort p fun x => { x with notices := 0 })

def ownSetNoticeMask (p : Port) (m : Option (BitVec 16)) (s : State) : State × Reply :=
  match m with
  | none => okWith (.mask (s.port p).mask) s
  | some m =>
    if m.toNat < 2048 then
      okWith (.mask (m.truncate 11)) (setting (s.updPort p fun x => { x with mask := m.truncate 11 }))
    else rangeAt 1 0 s

def ownFreezeView (p : Port) (s : State) : State × Reply :=
  let expiry := s.tim.runMs + 10000
  okWith (.view s.tim.stamp (expiry / 1000)) (s.updPort p fun x => { x with view := .held (regCopy s) expiry })

def ownReleaseView (p : Port) (s : State) : State × Reply :=
  okWith (.released (s.port p).view.code) (s.updPort p fun x => { x with view := .none })

def ownLock (b : Bool) (s : State) : State × Reply := okWith (.premLock b) (setting { s with premLock := b })

/-- RESTART (R171): a second one taken while one is carried out adds nothing. -/
def ownRestart (s : State) : State × Reply :=
  bare .accepted
    (if s.sup.restarting then s
     else requestCheckpoint .restart { s with sup := { s.sup with restarting := true } })

end Sys2Proof.Machine
end

