-- ==== Sys2Proof/Machine/Calendars.lean ====
section
/-! DEFINITION. What the owners do with the requests on the calendars and the archive: passive edits, activation,
READ_CALENDAR, READ_SNAPSHOT and the archive locks. -/
namespace Sys2Proof.Machine

/-! ### Passive edits (R63 to R68) -/

/-- The empty calendar with a name (R63). -/
def Calendar.empty (name : Name8) : Calendar :=
  { name := name, bands := none, seasons := .replicate 4 none, weeks := .replicate 4 none, days := .replicate 12 none,
    specials := .replicate 24 none }

def ownPassiveClear (name : Name8) (s : State) : State × Reply := okWith .empty (passiveEdit (.empty name) s)

/-- An edit other than PASSIVE_CLEAR: STATE while the passive calendar is absent, RANGE on its own checks, else the
edit with its common effects (R64). STATE is answered before its own checks are made (assumption 53). -/
def edit (fault : Option CalFault) (f : Calendar → Calendar) (s : State) : State × Reply :=
  match s.cal.passive with
  | none => bare .state s
  | some c =>
    match fault with
    | some (table, index) => rangeAt table index s
    | none => okWith .empty (passiveEdit (f c) s)

def ownPassiveBands (nb fb : Nat) (l : List RawBand) (s : State) : State × Reply :=
  edit (bandsFault nb fb l)
    (fun c => { c with bands := some { fallback := Fin.ofNat 8 fb, entries := l.map RawBand.entry } }) s

def ownPassiveSeason (i : Nat) (x : Option RawSeason) (s : State) : State × Reply :=
  edit (seasonFault i x) (fun c => { c with seasons := c.seasons.set (Fin.ofNat 4 i) (x.map RawSeason.entry) }) s

def ownPassiveWeek (i : Nat) (w : Option (Vector Nat 7)) (s : State) : State × Reply :=
  edit (weekFault i w)
    (fun c => { c with weeks := c.weeks.set (Fin.ofNat 4 i) (w.map fun v => Vector.ofFn fun j => Fin.ofNat 12 v[j]) }) s

def ownPassiveDay (i : Nat) (d : Option (List RawPoint)) (s : State) : State × Reply :=
  edit (dayFault i d) (fun c => { c with days := c.days.set (Fin.ofNat 12 i) (d.map (·.map RawPoint.entry)) }) s

def ownPassiveSpecial (i : Nat) (x : Option RawSpecial) (s : State) : State × Reply :=
  edit (specialFault i x) (fun c => { c with specials := c.specials.set (Fin.ofNat 24 i) (x.map RawSpecial.entry) }) s

/-! ### Activation (R69, R70, R73) -/

/-- The image write of a passive calendar that no image holds, or else a CONFIG checkpoint to record the new activation
time (R70). -/
def scheduleImage (s : State) : State := if s.cal.persisted then setting s else requestImage s

def ownPassiveActivateAt (t : RawDateTime) (s : State) : State × Reply :=
  if RawDateTime.ok t then
    match s.cal.passive with
    | none => bare .state s
    | some c =>
      match c.validate with
      | some (table, index) => rangeAt table index s
      | none =>
        let owed := s.activationOwed
        let s1 := cancelOwedActivation { s with cal := { s.cal with activation := some (RawDateTime.time t) } }
        let s2 := if owed then setting s1 else s1
        okWith .empty (checkActivation (scheduleImage s2))
  else rangeAt 1 0 s

def ownPassiveActivateNow (s : State) : State × Reply :=
  match s.cal.passive with
  | none => bare .state s
  | some c =>
    match c.validate with
    | some (table, index) => rangeAt table index s
    | none =>
      let s1 := { s with cal := { s.cal with activation := none } }
      let s2 := trigger .calendar none (if s.cal.persisted then s1 else requestImage s1)
      if s2.cal.passive.isNone then okWith .empty s2 else bare .deferred s2

/-! ### READ_CALENDAR (R77) -/

/-- The calendar named, ACTIVE or PASSIVE. -/
def Cal.named (code : Nat) (c : Cal) : Option Calendar := if code = 0 then some c.active else c.passive

/-- READ_CALENDAR: the index counts for DAY alone; with another part its value is ignored (assumption 45). -/
def ownReadCalendar (code part index : Nat) (s : State) : State × Reply :=
  if part = 4 ∧ 11 < index then rangeAt 3 index s
  else
    match s.cal.named code with
    | none => bare .notFound s
    | some c =>
      match part with
      | 0 => okWith (.calendarSummary c (summaryExtras s)) s
      | 1 => okWith (.calendarPart c .bands) s
      | 2 => okWith (.calendarPart c .seasons) s
      | 3 => okWith (.calendarPart c .weeks) s
      | 4 => okWith (.calendarPart c (.day (Fin.ofNat 12 index))) s
      | _ => okWith (.calendarPart c .specials) s

/-! ### READ_SNAPSHOT (R157) -/

/-- Where a record the store holds stands: in the queue, or in a slot of the log. -/
inductive HeldAt where
  | queue (r : Snapshot)
  | slot (k : Nat)
  deriving DecidableEq, Repr

/-- The records held, by number: the index's pairs, then the pending entries, which are newer (R145, R157). -/
def Hst.records (h : Hst) : List (Nat × HeldAt) :=
  h.index.map (fun x => (x.1, .slot x.2)) ++ h.queue.map fun e => (e.snap.number, .queue e.snap)

/-- The record a key names (R157). -/
def Hst.lookup (key : SnapshotKey) (h : Hst) : Option (Nat × HeldAt) :=
  match key with
  | .number n => h.records.find? fun x => x.1 == n
  | .offset k => h.records.reverse[k]?

/-- The keys R157 refuses. The number 4,294,967,295, outside what it says a request carries, is not among them
(assumption 51). -/
def keyRefused (key : SnapshotKey) : Bool :=
  match key with
  | .number n => n == 0
  | .offset k => decide (95 < k)

def ownReadSnapshot (p : Port) (key : SnapshotKey) (s : State) : State × Reply :=
  if keyRefused key then rangeAt 1 0 s
  else
    match s.hst.lookup key with
    | none => bare .notFound s
    | some (_, .queue r) => okWith (.snapshot r) s
    | some (n, .slot k) => (updHst (fun h => { h with reads := h.reads ++ [(p, n, k)] }) s, none)

/-! ### Archive locks (R149, R150) -/

/-- The locks of the sectors named, set or cleared; a sector under erase cannot be locked (R149, R150). -/
def Hst.setLocks (on : Bool) (named : List Nat) (h : Hst) : Hst :=
  { h with locks := Vector.ofFn fun i =>
      if named.contains (4 + i.val) && !(on && h.underErase (4 + i.val)) then on else h.locks[i] }

def ownArchive (on : Bool) (l : SectorList) (s : State) : State × Reply :=
  match SectorList.named l with
  | none => rangeAt 1 0 s
  | some named =>
    let s1 := updHst (fun h => (h.setLocks on named).judgeLogPreErase) s
    okWith (.locks s1.hst.locks) s1

end Sys2Proof.Machine
end

