-- ==== Sys2Proof/Machine/Ports.lean ====
section
/-! DEFINITION. The master ports: responses and their queue, the taking of a request, the receiver, and the owner each
request is handed to (sections 10.1 to 10.4). -/
namespace Sys2Proof.Machine

/-! ### Responses (R182, R183) -/

/-- A response enters the transmit queue; where it begins to be sent at once, its own request's buffer is freed
(R182, R183; assumption 29). -/
def PortState.send (e : TxEntry) (x : PortState) : PortState :=
  { x with tx := x.tx ++ [e], buffer := if x.tx.isEmpty && e.own then none else x.buffer }

/-- The BUSY and BAD_FRAME responses waiting behind the response being sent. -/
def PortState.waitingOthers (x : PortState) : Nat := (x.tx.tail.filter fun e => !e.own).length

/-- A BUSY or BAD_FRAME response is formed; with four such waiting it is dropped and counted (R183). -/
def PortState.sendOther (code : Nat) (st : Status) (x : PortState) : PortState :=
  if 4 ≤ x.waitingOthers then { x with dropped := satAdd x.dropped 1 }
  else x.send { own := false, resp := { code := code, status := st, answer := .empty } }

/-- The response being sent has left in full; the next begins, and frees the buffer if it is the buffered request's own
(R182, R183). -/
def PortState.sent (x : PortState) : PortState :=
  { x with
    tx := x.tx.tail
    buffer := match x.tx.tail with
      | e :: _ => if e.own then none else x.buffer
      | [] => x.buffer }

/-- The buffered request is answered. -/
def respond (p : Port) (code : Nat) (st : Status) (a : Answer) (s : State) : State :=
  s.updPort p (PortState.send { own := true, resp := { code := code, status := st, answer := a } })

/-! ### Taking a request (R184 to R186) -/

/-- The catalogue's codes (R197). -/
def inCatalogue (code : Nat) : Bool := decide (1 ≤ code) && decide (code ≤ 41)

/-- The fourteen codes open to the Premises Port (R185). -/
abbrev premisesCodes : List Nat := [3, 6, 18, 23, 24, 26, 28, 30, 31, 35, 36, 37, 38, 39]

/-- A port has authority for a code (R185). -/
def authority (p : Port) (code : Nat) : Bool :=
  match p with
  | .upt => true
  | .ppt => premisesCodes.contains code

/-- The owner of a request, the state it leaves and its answer (check 6 of R184). -/
def serve (p : Port) (q : Request) (s : State) : State × Reply :=
  match q with
  | .clearFrameLoss => ownClearFrameLoss s
  | .setNettingMethod m => ownSetNettingMethod m s
  | .readRegisters => ownReadRegisters p s
  | .setTime t => ownSetTime t s
  | .setLocalOffset o => ownSetLocalOffset o s
  | .readTime => ownReadTime s
  | .setOverrideSource line source => ownSetOverrideSource line source s
  | .setOverride line value => ownSetOverride line value s
  | .setOverrideMap m => ownSetOverrideMap m s
  | .passiveClear name => ownPassiveClear name s
  | .passiveBands nb fb l => ownPassiveBands nb fb l s
  | .passiveSeason i x => ownPassiveSeason i x s
  | .passiveWeek i w => ownPassiveWeek i w s
  | .passiveDay i d => ownPassiveDay i d s
  | .passiveSpecial i x => ownPassiveSpecial i x s
  | .passiveActivateAt t => ownPassiveActivateAt t s
  | .passiveActivateNow => ownPassiveActivateNow s
  | .readCalendar c part i => ownReadCalendar c part i s
  | .setSettlement m k d => ownSetSettlement m k d s
  | .closePeriod => ownClosePeriod s
  | .setUtilityCap l h e => setCap .utility l h e s
  | .clearUtilityCap => clearCap .utility s
  | .setPremisesCap l h e => setCap .premises l h e s
  | .clearPremisesCap => clearCap .premises s
  | .setCapControl f e t h => ownSetCapControl f e t h s
  | .readCaps => ownReadCaps s
  | .setUnitConfig u e slot m => ownSetUnitConfig u e slot m s
  | .setUnitStandby u r => ownSetUnitStandby u r s
  | .setProfileWeights w => ownSetProfileWeights w s
  | .readUnits => ownReadUnits s
  | .readSnapshot key => ownReadSnapshot p key s
  | .lockArchive l => ownArchive true l s
  | .unlockArchive l => ownArchive false l s
  | .restart => ownRestart s
  | .getStatus => ownGetStatus p s
  | .readNotices => ownReadNotices p s
  | .setNoticeMask m => ownSetNoticeMask p m s
  | .freezeView => ownFreezeView p s
  | .releaseView => ownReleaseView p s
  | .lockPremises => ownLock true s
  | .unlockPremises => ownLock false s

/-- The owner's answer is sent; a request that waits for a slot read keeps the buffer (R182). -/
def settleReply (p : Port) (code : Nat) (r : State × Reply) : State :=
  match r.2 with
  | some (st, a) => respond p code st a r.1
  | none => r.1

/-- The checks of R184 in order. `held` says that a set premises lock holds the request back (R186); `req` is the
request where the payload passes check 5. -/
def judge (p : Port) (code : Nat) (held : Bool) (req : Option Request) (s : State) : State :=
  if !inCatalogue code then respond p code .unknown .empty s
  else if !authority p code then respond p code .denied .empty s
  else if s.sup.supply ≠ .run ∧ code ≠ 35 then respond p code .state .empty s
  else if p = .ppt ∧ s.premLock ∧ held then respond p code .locked .empty s
  else
    match req with
    | none => respond p code .range (.detail 0 0) s
    | some q => settleReply p code (serve p q s)

/-- A good frame has ended: BUSY while the buffer is occupied, else the request is taken (R182). -/
def goodFrame (p : Port) (code : Nat) (held : Bool) (req : Option Request) (s : State) : State :=
  if (s.port p).buffer.isSome then s.updPort p (PortState.sendOther code .busy)
  else judge p code held req (s.updPort p fun x => { x with buffer := some code })

/-- A payload whose request the premises lock holds back: the two premises cap writes, and SET_UNIT_STANDBY whose
presence byte is there and holds 1 (R186). -/
def heldPayload (code : Nat) (payload : List Byte) : Bool :=
  code == 23 || code == 24 || (code == 28 && payload[1]? == some 1#8)

/-- The same for a request with its parameters (R186). -/
def Request.held : Request → Bool
  | .setPremisesCap _ _ _ => true
  | .clearPremisesCap => true
  | .setUnitStandby _ r => r.isSome
  | _ => false

/-- A request of the catalogue reaches the port as a good frame (assumption 4). -/
def takeRequest (p : Port) (q : Request) (s : State) : State :=
  goodFrame p (Request.code q) (Request.held q) (if Request.fieldsOk q then some q else none) s

/-- A request frame's code and payload reach the port as a good frame. -/
def takePayload (p : Port) (code : Nat) (payload : List Byte) (s : State) : State :=
  goodFrame p code (heldPayload code payload) ((decodeRequest code payload).filter Request.fieldsOk) s

/-! ### The receiver (R180, R181) -/

/-- A bad frame is counted and answered with the code as received (R181). -/
def badFrame (p : Port) (code : Nat) (s : State) : State :=
  s.updPort p fun x => ({ x with bad := satAdd x.bad 1 } : PortState).sendOther code .badFrame

/-- The length field of the characters so far. -/
def lengthOf (got : List RxChar) : Nat := leNat (((got.map (·.byte)).drop 1).take 2)

/-- A frame has ended (R180, R181). -/
def endFrame (p : Port) (got : List RxChar) (s : State) : State :=
  let l := got.map (·.byte)
  let code := (l.getD 3 0).toNat
  if (got.all (·.stopOk)) && crcOk l then takePayload p code ((l.drop 4).take (lengthOf got)) s
  else badFrame p code s

/-- A character in COLLECT (R180, R181). -/
def collectChar (p : Port) (got : List RxChar) (s : State) : State :=
  let setRx (r : RxState) (s : State) : State := s.updPort p fun x => { x with rx := r }
  if got.length = 3 ∧ 480 < lengthOf got then badFrame p 0 (setRx (.ignore s.tim.runMs) s)
  else if 3 ≤ got.length ∧ got.length = lengthOf got + 6 then endFrame p got (setRx .hunt s)
  else setRx (.collect got s.tim.runMs) s

/-- A character reaches a port's receiver (R180). -/
def receive (p : Port) (c : RxChar) (s : State) : State :=
  match (s.port p).rx with
  | .hunt => if c.byte = 0xC3#8 then collectChar p [c] s else s
  | .collect got _ => collectChar p (got ++ [c]) s
  | .ignore _ => s.updPort p fun x => { x with rx := .ignore s.tim.runMs }

/-- Characters reach a port's receiver, one after another. -/
def receiveAll (p : Port) (l : List RxChar) (s : State) : State := l.foldl (fun s c => receive p c s) s

/-- 50 ms without a character in COLLECT (R180). -/
def stall (p : Port) (s : State) : State :=
  match (s.port p).rx with
  | .collect _ t => (passTo (t + 50) s).updPort p fun x => { x with rx := .hunt, stalled := satAdd x.stalled 1 }
  | _ => s

/-- 50 ms of line idle in IGNORE (R180). -/
def idleEnds (p : Port) (s : State) : State :=
  match (s.port p).rx with
  | .ignore t => (passTo (t + 50) s).updPort p fun x => { x with rx := .hunt }
  | _ => s

/-- A response has been sent in full (R183). -/
def transmitted (p : Port) (s : State) : State := s.updPort p PortState.sent

/-- A HELD view reaches its expiry (R193). -/
def viewExpires (p : Port) (s : State) : State :=
  match (s.port p).view with
  | .held copy t => (passTo t s).updPort p fun x => { x with view := .expired copy t }
  | _ => s

/-! ### The end of a slot read (R157, R172) -/

/-- The slot read for a port: OK with the record, or the pair leaves the index and the answer is NOT_FOUND (R157). -/
def answerRead (p : Port) (number slot : Nat) (s : State) : State :=
  match snapshotAt s.hst.store slot with
  | some r => respond p 31 .ok (.snapshot r) s
  | none =>
    respond p 31 .notFound .empty
      (updHst (fun h => { h with index := h.index.filter fun x => x.1 != number }) s)

/-- A slot read completes; a slot that has decayed reads INVALID (assumption 8). -/
def readDone (decayed : Bool) (s : State) : State :=
  match s.hst.engine with
  | .read who slot =>
    let s := updHst (fun h => { h with
      engine := .idle, store := if decayed then Store.put h.store slot .junk else h.store }) s
    match who with
    | .recovery => { s with sup := { s.sup with unread := s.sup.unread.tail } }
    | .port p number => answerRead p number slot (updHst (fun h => { h with reads := h.reads.tail }) s)
  | _ => s

end Sys2Proof.Machine
end

