-- ==== Sys2Proof/Machine/Metrology.lean ====
section
/-! DEFINITION. The commands of the Metrology Link: PHASE_FRAME and the two silences. -/
namespace Sys2Proof.Machine

/-- PHASE_FRAME (R1 to R8). -/
def execPhaseFrame (run : LinkRun) (s : State) : Host.Outcome State Fault Refusal :=
  .next (command (collectRun run) s)

/-- SILENCE_500MS (R11, R12). -/
def execSilence500 (s : State) : Host.Outcome State Fault Refusal := .next (command silence500 s)

/-- SILENCE_2000MS (R11). -/
def execSilence2000 (s : State) : Host.Outcome State Fault Refusal := .next (command silence2000 s)

end Sys2Proof.Machine
end

