-- ==== Sys2Proof/Machine/PortEvents.lean ====
section
/-! DEFINITION. The commands of the ports' links: characters, their stall and idle times, the end of a response, and the
expiry of a view. -/
namespace Sys2Proof.Machine

/-- REQUEST_FRAME: the characters of a frame reach the receiver (R180 to R182). -/
def execRequestFrame (p : Port) (chars : List RxChar) (s : State) : Host.Outcome State Fault Refusal :=
  .next (command (receiveAll p chars) s)

/-- The start marker and the length field of a frame. -/
def overflowChars (length : BitVec 16) : List RxChar :=
  ([0xC3#8] ++ leBytes 2 length.toNat).map goodChar

/-- FRAME_LENGTH_OVERFLOW: a start marker and a length reach the receiver (R181). -/
def execFrameLengthOverflow (p : Port) (length : BitVec 16) (s : State) : Host.Outcome State Fault Refusal :=
  .next (command (receiveAll p (overflowChars length)) s)

/-- FRAME_STALL (R180). -/
def execFrameStall (p : Port) (s : State) : Host.Outcome State Fault Refusal := .next (command (stall p) s)

/-- IGNORE_IDLE_EXPIRY (R180). -/
def execIgnoreIdleExpiry (p : Port) (s : State) : Host.Outcome State Fault Refusal := .next (command (idleEnds p) s)

/-- RESPONSE_TRANSMIT_COMPLETE (R182, R183). -/
def execResponseTransmitComplete (p : Port) (s : State) : Host.Outcome State Fault Refusal :=
  .next (command (transmitted p) s)

/-- VIEW_EXPIRY (R193). -/
def execViewExpiry (p : Port) (s : State) : Host.Outcome State Fault Refusal := .next (command (viewExpires p) s)

end Sys2Proof.Machine
end

