-- ==== Sys2Proof/Machine/Requests.lean ====
section
/-! DEFINITION. The forty-one requests of the catalogue, each taken on a port as a good frame (R182, R184; assumption 4):
its meaning is what the port's checks and its owner make of it. -/
namespace Sys2Proof.Machine

/-- CLEAR_FRAME_LOSS (R16). -/
def execClearFrameLoss (port : Port) (s : State) : Host.Outcome State Fault Refusal :=
  .next (command (takeRequest port .clearFrameLoss) s)

/-- SET_NETTING_METHOD (R18). -/
def execSetNettingMethod (port : Port) (method : Option Nat) (s : State) : Host.Outcome State Fault Refusal :=
  .next (command (takeRequest port (.setNettingMethod method)) s)

/-- READ_REGISTERS (R36, R194). -/
def execReadRegisters (port : Port) (s : State) : Host.Outcome State Fault Refusal :=
  .next (command (takeRequest port .readRegisters) s)

/-- SET_TIME (R49). -/
def execSetTime (port : Port) (utc : Nat) (s : State) : Host.Outcome State Fault Refusal :=
  .next (command (takeRequest port (.setTime utc)) s)

/-- SET_LOCAL_OFFSET (R44). -/
def execSetLocalOffset (port : Port) (offset : Option Int) (s : State) : Host.Outcome State Fault Refusal :=
  .next (command (takeRequest port (.setLocalOffset offset)) s)

/-- READ_TIME (R52). -/
def execReadTime (port : Port) (s : State) : Host.Outcome State Fault Refusal :=
  .next (command (takeRequest port .readTime) s)

/-- SET_OVERRIDE_SOURCE (R59). -/
def execSetOverrideSource (port : Port) (line : Nat) (source : Option Nat) (s : State) :
    Host.Outcome State Fault Refusal :=
  .next (command (takeRequest port (.setOverrideSource line source)) s)

/-- SET_OVERRIDE (R61). -/
def execSetOverride (port : Port) (line : Nat) (value : Nat) (s : State) : Host.Outcome State Fault Refusal :=
  .next (command (takeRequest port (.setOverride line value)) s)

/-- SET_OVERRIDE_MAP (R62). -/
def execSetOverrideMap (port : Port) (entries : Option (Vector RawMapEntry 4)) (s : State) :
    Host.Outcome State Fault Refusal :=
  .next (command (takeRequest port (.setOverrideMap entries)) s)

/-- PASSIVE_CLEAR (R63, R64). -/
def execPassiveClear (port : Port) (name : Name8) (s : State) : Host.Outcome State Fault Refusal :=
  .next (command (takeRequest port (.passiveClear name)) s)

/-- PASSIVE_BANDS (R64, R65). -/
def execPassiveBands (port : Port) (nb : Nat) (fallback : Nat) (bands : List RawBand) (s : State) :
    Host.Outcome State Fault Refusal :=
  .next (command (takeRequest port (.passiveBands nb fallback bands)) s)

/-- PASSIVE_SEASON (R64, R66). -/
def execPassiveSeason (port : Port) (index : Nat) (entry : Option RawSeason) (s : State) :
    Host.Outcome State Fault Refusal :=
  .next (command (takeRequest port (.passiveSeason index entry)) s)

/-- PASSIVE_WEEK (R64, R66). -/
def execPassiveWeek (port : Port) (index : Nat) (days : Option (Vector Nat 7)) (s : State) :
    Host.Outcome State Fault Refusal :=
  .next (command (takeRequest port (.passiveWeek index days)) s)

/-- PASSIVE_DAY (R64, R67). -/
def execPassiveDay (port : Port) (index : Nat) (points : Option (List RawPoint)) (s : State) :
    Host.Outcome State Fault Refusal :=
  .next (command (takeRequest port (.passiveDay index points)) s)

/-- PASSIVE_SPECIAL (R64, R68). -/
def execPassiveSpecial (port : Port) (index : Nat) (entry : Option RawSpecial) (s : State) :
    Host.Outcome State Fault Refusal :=
  .next (command (takeRequest port (.passiveSpecial index entry)) s)

/-- PASSIVE_ACTIVATE_AT (R69, R70). -/
def execPassiveActivateAt (port : Port) (time : RawDateTime) (s : State) : Host.Outcome State Fault Refusal :=
  .next (command (takeRequest port (.passiveActivateAt time)) s)

/-- PASSIVE_ACTIVATE_NOW (R69, R73). -/
def execPassiveActivateNow (port : Port) (s : State) : Host.Outcome State Fault Refusal :=
  .next (command (takeRequest port .passiveActivateNow) s)

/-- READ_CALENDAR (R77). -/
def execReadCalendar (port : Port) (calendar : Nat) (part : Nat) (index : Nat) (s : State) :
    Host.Outcome State Fault Refusal :=
  .next (command (takeRequest port (.readCalendar calendar part index)) s)

/-- SET_SETTLEMENT (R79). -/
def execSetSettlement (port : Port) (mode : Option Nat) (cap : Option Nat) (day : Option Nat) (s : State) :
    Host.Outcome State Fault Refusal :=
  .next (command (takeRequest port (.setSettlement mode cap day)) s)

/-- CLOSE_PERIOD (R83). -/
def execClosePeriod (port : Port) (s : State) : Host.Outcome State Fault Refusal :=
  .next (command (takeRequest port .closePeriod) s)

/-- SET_UTILITY_CAP (R102, R103). -/
def execSetUtilityCap (port : Port) (limit : Nat) (hysteresis : Nat) (expiry : Option Nat) (s : State) :
    Host.Outcome State Fault Refusal :=
  .next (command (takeRequest port (.setUtilityCap limit hysteresis expiry)) s)

/-- CLEAR_UTILITY_CAP (R103). -/
def execClearUtilityCap (port : Port) (s : State) : Host.Outcome State Fault Refusal :=
  .next (command (takeRequest port .clearUtilityCap) s)

/-- SET_PREMISES_CAP (R102, R104, R186). -/
def execSetPremisesCap (port : Port) (limit : Nat) (hysteresis : Nat) (expiry : Option Nat) (s : State) :
    Host.Outcome State Fault Refusal :=
  .next (command (takeRequest port (.setPremisesCap limit hysteresis expiry)) s)

/-- CLEAR_PREMISES_CAP (R104, R186). -/
def execClearPremisesCap (port : Port) (s : State) : Host.Outcome State Fault Refusal :=
  .next (command (takeRequest port .clearPremisesCap) s)

/-- SET_CAP_CONTROL (R107). -/
def execSetCapControl (port : Port) (fsc : Option Nat) (enable : Option Nat) (trip : Option Nat) (hold : Option Nat) (s : State) :
    Host.Outcome State Fault Refusal :=
  .next (command (takeRequest port (.setCapControl fsc enable trip hold)) s)

/-- READ_CAPS (R121). -/
def execReadCaps (port : Port) (s : State) : Host.Outcome State Fault Refusal :=
  .next (command (takeRequest port .readCaps) s)

/-- SET_UNIT_CONFIG (R124). -/
def execSetUnitConfig (port : Port) (unit : Nat) (enable : Option Nat) (slot : Option Nat) (maskOff : Option Nat) (s : State) :
    Host.Outcome State Fault Refusal :=
  .next (command (takeRequest port (.setUnitConfig unit enable slot maskOff)) s)

/-- SET_UNIT_STANDBY (R125, R186). -/
def execSetUnitStandby (port : Port) (unit : Nat) (standby : Option Nat) (s : State) :
    Host.Outcome State Fault Refusal :=
  .next (command (takeRequest port (.setUnitStandby unit standby)) s)

/-- SET_PROFILE_WEIGHTS (R126). -/
def execSetProfileWeights (port : Port) (weights : Vector (Option Nat) 4) (s : State) :
    Host.Outcome State Fault Refusal :=
  .next (command (takeRequest port (.setProfileWeights weights)) s)

/-- READ_UNITS (R140). -/
def execReadUnits (port : Port) (s : State) : Host.Outcome State Fault Refusal :=
  .next (command (takeRequest port .readUnits) s)

/-- READ_SNAPSHOT (R157). -/
def execReadSnapshot (port : Port) (key : SnapshotKey) (s : State) : Host.Outcome State Fault Refusal :=
  .next (command (takeRequest port (.readSnapshot key)) s)

/-- LOCK_ARCHIVE (R149, R150). -/
def execLockArchive (port : Port) (sectors : SectorList) (s : State) : Host.Outcome State Fault Refusal :=
  .next (command (takeRequest port (.lockArchive sectors)) s)

/-- UNLOCK_ARCHIVE (R149, R150). -/
def execUnlockArchive (port : Port) (sectors : SectorList) (s : State) : Host.Outcome State Fault Refusal :=
  .next (command (takeRequest port (.unlockArchive sectors)) s)

/-- RESTART (R171). -/
def execRestart (port : Port) (s : State) : Host.Outcome State Fault Refusal :=
  .next (command (takeRequest port .restart) s)

/-- GET_STATUS (R195). -/
def execGetStatus (port : Port) (s : State) : Host.Outcome State Fault Refusal :=
  .next (command (takeRequest port .getStatus) s)

/-- READ_NOTICES (R191). -/
def execReadNotices (port : Port) (s : State) : Host.Outcome State Fault Refusal :=
  .next (command (takeRequest port .readNotices) s)

/-- SET_NOTICE_MASK (R192). -/
def execSetNoticeMask (port : Port) (mask : Option (BitVec 16)) (s : State) : Host.Outcome State Fault Refusal :=
  .next (command (takeRequest port (.setNoticeMask mask)) s)

/-- FREEZE_VIEW (R193). -/
def execFreezeView (port : Port) (s : State) : Host.Outcome State Fault Refusal :=
  .next (command (takeRequest port .freezeView) s)

/-- RELEASE_VIEW (R194). -/
def execReleaseView (port : Port) (s : State) : Host.Outcome State Fault Refusal :=
  .next (command (takeRequest port .releaseView) s)

/-- LOCK_PREMISES (R186). -/
def execLockPremises (port : Port) (s : State) : Host.Outcome State Fault Refusal :=
  .next (command (takeRequest port .lockPremises) s)

/-- UNLOCK_PREMISES (R186). -/
def execUnlockPremises (port : Port) (s : State) : Host.Outcome State Fault Refusal :=
  .next (command (takeRequest port .unlockPremises) s)

end Sys2Proof.Machine
end

