-- ==== Sys2Proof/Machine/StoreEvents.lean ====
section
/-! DEFINITION. The commands of the store engine: the ends of programs, erases and reads, with what is read back. -/
namespace Sys2Proof.Machine

/-- SNAPSHOT_PROGRAM_COMPLETE (R146, R158). -/
def execSnapshotProgramComplete (valid : Bool) (s : State) : Host.Outcome State Fault Refusal :=
  .next (command (snapshotProgrammed valid) s)

/-- CHECKPOINT_PROGRAM_COMPLETE (R152, R159). -/
def execCheckpointProgramComplete (valid0 valid1 : Bool) (s : State) : Host.Outcome State Fault Refusal :=
  .next (command (checkpointProgrammed valid0 valid1) s)

/-- CALENDAR_PART_PROGRAM_COMPLETE (R71, R153, R159). -/
def execCalendarPartProgramComplete (valid : Bool) (s : State) : Host.Outcome State Fault Refusal :=
  .next (command (partProgrammed valid) s)

/-- SECTOR_ERASE_COMPLETE, with the slots that read back other than BLANK (R142, R160). -/
def execSectorEraseComplete (notBlank : BitVec 16) (s : State) : Host.Outcome State Fault Refusal :=
  .next (command (eraseDone notBlank) s)

/-- ERASE_SUSPEND, where work waits that suspends an erase (R155). -/
def execEraseSuspend (s : State) : Host.Outcome State Fault Refusal :=
  .next (command (fun s => if suspendDue s then updHst Hst.suspendErase s else s) s)

/-- SLOT_READ_COMPLETE (R157, R172). -/
def execSlotReadComplete (decayed : Bool) (s : State) : Host.Outcome State Fault Refusal :=
  .next (command (readDone decayed) s)

end Sys2Proof.Machine
end

