-- ==== Sys2Proof/Machine/SupplyEvents.lean ====
section
/-! DEFINITION. The commands of the Supply Monitor: MAINS_WARN, the supply debounce, the end of the write sequence, the
resets, the three ends of recovery's reads, the checkpoint interval and the loss of main supply. -/
namespace Sys2Proof.Machine

/-- MAINS_WARN asserts: from RUN to WARNING, and in DOWN the debounce is cancelled (R165, R168). -/
def mainsWarns (s : State) : State :=
  let s1 := { s with sup := { s.sup with mainsWarn := true } }
  match s.sup.supply with
  | .run => enterWarning s1
  | .down => { s1 with sup := { s1.sup with debounce := none } }
  | _ => s1

/-- A level of MAINS_WARN; while main supply is absent only the pin moves. -/
def mainsLevel (level : Bool) (f : State → State) (s : State) : State :=
  if s.sup.mainsWarn = level then s
  else if s.sup.powered then finish (f s)
  else { s with sup := { s.sup with mainsWarn := level } }

/-- MAINS_WARN_ASSERT (R165, R166, R168). -/
def execMainsWarnAssert (s : State) : Host.Outcome State Fault Refusal := .next (mainsLevel true mainsWarns s)

/-- MAINS_WARN deasserts: in DOWN a debounce of 500 ms starts (R168). -/
def mainsClears (s : State) : State :=
  let s1 := { s with sup := { s.sup with mainsWarn := false } }
  if s.sup.supply = .down then { s1 with sup := { s1.sup with debounce := some (s.tim.runMs + 500) } } else s1

/-- MAINS_WARN_DEASSERT (R168). -/
def execMainsWarnDeassert (s : State) : Host.Outcome State Fault Refusal := .next (mainsLevel false mainsClears s)

/-- The 500 ms debounce expires in DOWN (R168). -/
def supplySettles (s : State) : State :=
  match s.sup.supply, s.sup.debounce with
  | .down, some t => rideThrough (passTo t s)
  | _, _ => s

/-- SUPPLY_DEBOUNCE_EXPIRY (R165, R168). -/
def execSupplyDebounceExpiry (s : State) : Host.Outcome State Fault Refusal := .next (command supplySettles s)

/-- WRITE_SEQUENCE_END, where R167's conditions hold (R167). -/
def execWriteSequenceEnd (s : State) : Host.Outcome State Fault Refusal :=
  .next (command (fun s => if s.sup.supply = .warning ∧ sequenceEnded s then endSequence s else s) s)

/-- POWER_ON_RESET (R42, R170). -/
def execPowerOnReset (s : State) : Host.Outcome State Fault Refusal := .next (powerOn s)

/-- RESET_LINE (R43, R170). -/
def execResetLine (s : State) : Host.Outcome State Fault Refusal := .next (command resetEngine s)

/-- MAIN_SUPPLY_LOSS (R40, R156, R168). -/
def execMainSupplyLoss (s : State) : Host.Outcome State Fault Refusal :=
  .next (if s.sup.powered then supplyLost s else s)

/-- A stage of recovery is due: STARTING has reached it. -/
def atStage (g : Stage) (f : State → State) (s : State) : State :=
  if s.sup.supply = .starting ∧ s.sup.stage = g then f s else s

/-- RECOVERY_CHECKPOINT_SCAN (R173, R174). -/
def execRecoveryCheckpointScan (s : State) : Host.Outcome State Fault Refusal :=
  .next (command (atStage .ring scanRing) s)

/-- RECOVERY_LOG_SCAN (R175 to R178). -/
def execRecoveryLogScan (s : State) : Host.Outcome State Fault Refusal := .next (command (atStage .log scanLog) s)

/-- RECOVERY_CALENDAR_LOAD (R179). -/
def execRecoveryCalendarLoad (s : State) : Host.Outcome State Fault Refusal :=
  .next (command (atStage .images loadCalendars) s)

/-- The checkpoint interval ends: 900 s of run time; not measured while the area is FAILED (R164; assumption 36). -/
def intervalEnds (s : State) : State :=
  if s.hst.periodicFired || s.hst.ckptFailed then s
  else
    requestCheckpoint .periodic
      (updHst (fun h => { h with periodicFired := true }) (passTo (s.hst.periodicFrom + 900000) s))

/-- PERIODIC_CHECKPOINT_TIMER (R164). -/
def execPeriodicCheckpointTimer (s : State) : Host.Outcome State Fault Refusal := .next (command intervalEnds s)

end Sys2Proof.Machine
end

