-- ==== Sys2Proof/Machine/Timekeeping.lean ====
section
/-! DEFINITION. The commands of the clock and the override lines: SECOND_TICK, BACKUP_DOMAIN_LOSS, the level changes and
the debounce expiries. -/
namespace Sys2Proof.Machine

/-- A millisecond in which nothing is commanded: the run clock counts it, and the sub-second divider of the backup
domain with it, to at most the end of its second (assumption 1). -/
def tick (s : State) : State :=
  if s.sup.powered then passTo (s.tim.runMs + 1) s
  else if s.tim.retained then { s with tim := { s.tim with subMs := min 1000 (s.tim.subMs + 1) } }
  else s

/-- The end of a second: the count advances, or ends with time INVALID (R39). -/
def Tim.advance (t : Tim) : Tim :=
  if t.utc = utcMax then { t with utc := 0, subMs := 0, valid := false } else { t with utc := t.utc + 1, subMs := 0 }

/-- The events of a second's end in RUN: at the end of the count the step event, else those of R47 (R39, R47). -/
def secondInRun (before : Tim) (s : State) : State :=
  if before.utc = utcMax then stepEvent false (earlierLocal (some before.wall) before.offset) s
  else if s.tim.valid then secondEvents s
  else s

/-- The end of the UTC count raises TIME and flags the open period (R34, R39). -/
def markCountEnd (before : Tim) (s : State) : State :=
  if before.utc = utcMax then raise .time (setFlags (fun f => { f with timeInvalidSeen := true }) s) else s

/-- A second ends while main supply is present: run time passes to its end with it (assumption 2). -/
def secondTick (s : State) : State :=
  let s0 := passTo (s.tim.runMs + (1000 - s.tim.subMs)) s
  let s1 := markCountEnd s.tim { s0 with tim := s0.tim.advance }
  if s1.sup.supply = .run then secondInRun s.tim s1 else s1

/-- A second ends while main supply is absent: the backup domain counts it unless it was lost (R40). -/
def backupSecond (s : State) : State := if s.tim.retained then { s with tim := s.tim.advance } else s

/-- SECOND_TICK (R39, R47). -/
def execSecondTick (s : State) : Host.Outcome State Fault Refusal :=
  .next (if s.sup.powered then finish (secondTick s) else backupSecond s)

/-- BACKUP_DOMAIN_LOSS: nothing is lost while main supply is present (R40). -/
def backupLost (s : State) : State :=
  if s.sup.powered then s else { s with tim := { s.tim with retained := false } }

/-- BACKUP_DOMAIN_LOSS (R40). -/
def execBackupDomainLoss (s : State) : Host.Outcome State Fault Refusal := .next (backupLost s)

/-- The level on a line changes: a debounce starts where it comes to differ from the debounced state, and is cancelled
where it returns to it (R60). -/
def OvLine.levelTo (now : Nat) (level : Bool) (l : OvLine) : OvLine :=
  if level = l.level then l
  else { l with level := level, timer := if level = l.debounced then none else some (now + 200) }

/-- A level change; while main supply is absent only the pin moves. -/
def lineLevel (i : Fin 2) (level : Bool) (s : State) : State :=
  let now := s.tim.runMs
  if s.sup.powered then
    { s with cal := { s.cal with lines := s.cal.lines.set i (s.cal.lines[i].levelTo now level) } }
  else { s with cal := { s.cal with lines := s.cal.lines.set i { s.cal.lines[i] with level := level } } }

/-- OVERRIDE_LINE_LEVEL_CHANGE (R60). -/
def execOverrideLineLevelChange (i : Fin 2) (level : Bool) (s : State) : Host.Outcome State Fault Refusal :=
  .next (lineLevel i level s)

/-- A debounce expires: the debounced state takes the level (R60). -/
def lineSettles (i : Fin 2) (s : State) : State :=
  match s.cal.lines[i].timer with
  | some t => updLine i (fun l => { l with debounced := l.level, timer := none }) (passTo t s)
  | none => s

/-- OVERRIDE_DEBOUNCE_EXPIRY (R60). -/
def execOverrideDebounceExpiry (i : Fin 2) (s : State) : Host.Outcome State Fault Refusal :=
  .next (command (lineSettles i) s)

end Sys2Proof.Machine
end

