-- ==== Sys2Proof/Machine/UnitEvents.lean ====
section
/-! DEFINITION. The commands of the Unit Link: the poll cycle, the end of an ALLOWANCE message, reply characters, and the
close of the reply window. -/
namespace Sys2Proof.Machine

/-- A poll cycle begins, in RUN, once the cycle before it has ended (R127; assumption 33). -/
def pollDue (s : State) : State :=
  if s.sup.supply = .run ∧ s.ulc.exchange = .none then beginCycle (passTo s.ulc.nextCycle s) else s

/-- POLL_CYCLE_START (R127). -/
def execPollCycleStart (s : State) : Host.Outcome State Fault Refusal := .next (command pollDue s)

/-- The last character of an ALLOWANCE message is sent: the reply window opens for 40 ms (R129). -/
def allowanceOut (s : State) : State :=
  match s.ulc.exchange with
  | .sending m => { s with ulc := { s.ulc with exchange := .window m (s.tim.runMs + 40) [] } }
  | _ => s

/-- ALLOWANCE_SENT (R129). -/
def execAllowanceSent (s : State) : Host.Outcome State Fault Refusal := .next (command allowanceOut s)

/-- The seventh character has come: a valid report, or a miss (R129 to R132). -/
def judgeReply (m : AllowanceMsg) (chars : List RxChar) (s : State) : State :=
  match parseReport m.unit chars with
  | some r => endExchange m.unit (UnitEntry.reported r m.seq) s
  | none => endExchange m.unit UnitEntry.missed s

/-- Characters come in the reply window, up to 7; outside it they are discarded (R129). -/
def replyChars (chars : List RxChar) (s : State) : State :=
  match s.ulc.exchange with
  | .window m closes got =>
    let all := (got ++ chars).take 7
    if all.length = 7 then judgeReply m all s
    else { s with ulc := { s.ulc with exchange := .window m closes all } }
  | _ => s

/-- UNIT_REPORT (R129 to R132). -/
def execUnitReport (chars : List RxChar) (s : State) : Host.Outcome State Fault Refusal :=
  .next (command (replyChars chars) s)

/-- The reply window closes with fewer than 7 characters: a miss (R129, R131). -/
def windowCloses (s : State) : State :=
  match s.ulc.exchange with
  | .window m closes _ => endExchange m.unit UnitEntry.missed (passTo closes s)
  | _ => s

/-- REPLY_WINDOW_EXPIRY (R129, R131). -/
def execReplyWindowExpiry (s : State) : Host.Outcome State Fault Refusal := .next (command windowCloses s)

end Sys2Proof.Machine
end

