-- ==== Sys2Proof/Machine/Dispatch.lean ====
section
/-! DEFINITION. One arm per command: each a direct call of its meaning. -/
namespace Sys2Proof.Machine

/-- The command's effect on everything but the queue. -/
def exec (i : Instr) (s : State) : Host.Outcome State Fault Refusal :=
  match i with
  | .phaseFrame run => Sys2Proof.Machine.execPhaseFrame run s
  | .silence500 => Sys2Proof.Machine.execSilence500 s
  | .silence2000 => Sys2Proof.Machine.execSilence2000 s
  | .secondTick => Sys2Proof.Machine.execSecondTick s
  | .backupDomainLoss => Sys2Proof.Machine.execBackupDomainLoss s
  | .overrideLineLevelChange line level => Sys2Proof.Machine.execOverrideLineLevelChange line level s
  | .overrideDebounceExpiry line => Sys2Proof.Machine.execOverrideDebounceExpiry line s
  | .mainsWarnAssert => Sys2Proof.Machine.execMainsWarnAssert s
  | .mainsWarnDeassert => Sys2Proof.Machine.execMainsWarnDeassert s
  | .supplyDebounceExpiry => Sys2Proof.Machine.execSupplyDebounceExpiry s
  | .writeSequenceEnd => Sys2Proof.Machine.execWriteSequenceEnd s
  | .powerOnReset => Sys2Proof.Machine.execPowerOnReset s
  | .resetLine => Sys2Proof.Machine.execResetLine s
  | .recoveryCheckpointScan => Sys2Proof.Machine.execRecoveryCheckpointScan s
  | .recoveryLogScan => Sys2Proof.Machine.execRecoveryLogScan s
  | .recoveryCalendarLoad => Sys2Proof.Machine.execRecoveryCalendarLoad s
  | .periodicCheckpointTimer => Sys2Proof.Machine.execPeriodicCheckpointTimer s
  | .snapshotProgramComplete valid => Sys2Proof.Machine.execSnapshotProgramComplete valid s
  | .checkpointProgramComplete valid0 valid1 => Sys2Proof.Machine.execCheckpointProgramComplete valid0 valid1 s
  | .calendarPartProgramComplete valid => Sys2Proof.Machine.execCalendarPartProgramComplete valid s
  | .sectorEraseComplete notBlank => Sys2Proof.Machine.execSectorEraseComplete notBlank s
  | .eraseSuspend => Sys2Proof.Machine.execEraseSuspend s
  | .slotReadComplete decayed => Sys2Proof.Machine.execSlotReadComplete decayed s
  | .requestFrame port chars => Sys2Proof.Machine.execRequestFrame port chars s
  | .frameLengthOverflow port length => Sys2Proof.Machine.execFrameLengthOverflow port length s
  | .frameStall port => Sys2Proof.Machine.execFrameStall port s
  | .ignoreIdleExpiry port => Sys2Proof.Machine.execIgnoreIdleExpiry port s
  | .responseTransmitComplete port => Sys2Proof.Machine.execResponseTransmitComplete port s
  | .viewExpiry port => Sys2Proof.Machine.execViewExpiry port s
  | .pollCycleStart => Sys2Proof.Machine.execPollCycleStart s
  | .allowanceSent => Sys2Proof.Machine.execAllowanceSent s
  | .unitReport chars => Sys2Proof.Machine.execUnitReport chars s
  | .replyWindowExpiry => Sys2Proof.Machine.execReplyWindowExpiry s
  | .clearFrameLoss port => Sys2Proof.Machine.execClearFrameLoss port s
  | .setNettingMethod port method => Sys2Proof.Machine.execSetNettingMethod port method s
  | .readRegisters port => Sys2Proof.Machine.execReadRegisters port s
  | .setTime port utc => Sys2Proof.Machine.execSetTime port utc s
  | .setLocalOffset port offset => Sys2Proof.Machine.execSetLocalOffset port offset s
  | .readTime port => Sys2Proof.Machine.execReadTime port s
  | .setOverrideSource port line source => Sys2Proof.Machine.execSetOverrideSource port line source s
  | .setOverride port line value => Sys2Proof.Machine.execSetOverride port line value s
  | .setOverrideMap port entries => Sys2Proof.Machine.execSetOverrideMap port entries s
  | .passiveClear port name => Sys2Proof.Machine.execPassiveClear port name s
  | .passiveBands port nb fallback bands => Sys2Proof.Machine.execPassiveBands port nb fallback bands s
  | .passiveSeason port index entry => Sys2Proof.Machine.execPassiveSeason port index entry s
  | .passiveWeek port index days => Sys2Proof.Machine.execPassiveWeek port index days s
  | .passiveDay port index points => Sys2Proof.Machine.execPassiveDay port index points s
  | .passiveSpecial port index entry => Sys2Proof.Machine.execPassiveSpecial port index entry s
  | .passiveActivateAt port time => Sys2Proof.Machine.execPassiveActivateAt port time s
  | .passiveActivateNow port => Sys2Proof.Machine.execPassiveActivateNow port s
  | .readCalendar port calendar part index => Sys2Proof.Machine.execReadCalendar port calendar part index s
  | .setSettlement port mode cap day => Sys2Proof.Machine.execSetSettlement port mode cap day s
  | .closePeriod port => Sys2Proof.Machine.execClosePeriod port s
  | .setUtilityCap port limit hysteresis expiry => Sys2Proof.Machine.execSetUtilityCap port limit hysteresis expiry s
  | .clearUtilityCap port => Sys2Proof.Machine.execClearUtilityCap port s
  | .setPremisesCap port limit hysteresis expiry => Sys2Proof.Machine.execSetPremisesCap port limit hysteresis expiry s
  | .clearPremisesCap port => Sys2Proof.Machine.execClearPremisesCap port s
  | .setCapControl port fsc enable trip hold => Sys2Proof.Machine.execSetCapControl port fsc enable trip hold s
  | .readCaps port => Sys2Proof.Machine.execReadCaps port s
  | .setUnitConfig port unit enable slot maskOff => Sys2Proof.Machine.execSetUnitConfig port unit enable slot maskOff s
  | .setUnitStandby port unit standby => Sys2Proof.Machine.execSetUnitStandby port unit standby s
  | .setProfileWeights port weights => Sys2Proof.Machine.execSetProfileWeights port weights s
  | .readUnits port => Sys2Proof.Machine.execReadUnits port s
  | .readSnapshot port key => Sys2Proof.Machine.execReadSnapshot port key s
  | .lockArchive port sectors => Sys2Proof.Machine.execLockArchive port sectors s
  | .unlockArchive port sectors => Sys2Proof.Machine.execUnlockArchive port sectors s
  | .restart port => Sys2Proof.Machine.execRestart port s
  | .getStatus port => Sys2Proof.Machine.execGetStatus port s
  | .readNotices port => Sys2Proof.Machine.execReadNotices port s
  | .setNoticeMask port mask => Sys2Proof.Machine.execSetNoticeMask port mask s
  | .freezeView port => Sys2Proof.Machine.execFreezeView port s
  | .releaseView port => Sys2Proof.Machine.execReleaseView port s
  | .lockPremises port => Sys2Proof.Machine.execLockPremises port s
  | .unlockPremises port => Sys2Proof.Machine.execUnlockPremises port s
  | .mainSupplyLoss => Sys2Proof.Machine.execMainSupplyLoss s

end Sys2Proof.Machine
end

