-- ==== Sys2Proof/Safety.lean ====
section
/-! DEFINITION. What counts as a sound state, in the terms the statements use: the registers in range with the band sum
of R27, in the Register Bank and in every record that recovery could bring back, and the store in its canonical form;
the curtailment table of section 6.6; the unit states of R131; the pending queue of R145 with its slots; the band in
effect. -/
namespace Sys2Proof.Machine

/-! ### The billing record (R22, R24, R27, R29, R31) -/

/-- Every register of a set lies in 0..999,999,999 (R24). -/
def bandsInRange (v : Vector Nat 8) : Bool := v.toList.all fun x => decide (x < whModulus)

/-- The Register Bank in range (R22, R24, R29, R31), with the band sum of R27 in both directions. -/
def RegBank.ok (r : RegBank) : Bool :=
  decide (r.ri < 1000) && decide (r.re < 1000) && decide (r.ti < whModulus) && decide (r.te < whModulus) &&
    bandsInRange r.imp && bandsInRange r.exp &&
    decide ((r.tiOpen + r.imp.toList.sum) % whModulus = r.ti % whModulus) &&
    decide ((r.teOpen + r.exp.toList.sum) % whModulus = r.te % whModulus) &&
    decide (r.forfeit < whModulus) && decide (r.credit < whModulus) &&
    (decide (1 ≤ r.period) && decide (r.period ≤ periodMax))

/-- What reconciliation sets from a snapshot is in range (R177). -/
def Snapshot.ok (r : Snapshot) : Bool :=
  decide (r.ti < whModulus) && decide (r.te < whModulus) && decide (r.creditOut < whModulus) &&
    decide (r.number < periodMax)

/-- What recovery loads from a checkpoint is in range (R79, R174). -/
def Checkpoint.ok (c : Checkpoint) : Bool := c.reg.ok && decide (c.set.cap < whModulus)

/-- What a slot holds may be brought back. -/
def SlotContent.ok : SlotContent → Bool
  | .snapshot r => r.ok
  | .half _ c => c.ok
  | .part _ _ _ => true
  | .junk => true

/-- The checkpoint being programmed may be brought back. -/
def Engine.ok : Engine → Bool
  | .checkpoint c _ _ => c.ok
  | _ => true

/-- Every record in the memory, pending, or being programmed may be brought back. -/
def Hst.recordsOk (h : Hst) : Bool :=
  h.store.all (fun e => e.2.ok) && h.queue.all (fun e => e.snap.ok) && h.engine.ok &&
    match h.ckptRetry with
    | some c => c.ok
    | none => true

/-- The billing record is sound, and the store is in its canonical form. -/
def State.inv (s : State) : Bool :=
  s.reg.ok && decide (s.set.cap < whModulus) && s.hst.recordsOk && decide (Store.wf s.hst.store)

/-! ### The curtailment table (section 6.6; R106, R110, R112, R114, R118, R119) -/

/-- What goes with each curtailment state, and Q within 0..T. -/
def Xcc.tableOk (x : Xcc) : Bool :=
  decide (x.q ≤ x.cfg.trip) &&
    match x.state with
    | .uncapped => x.cfg.ceff.isNone && x.q == 0 && x.holdEnd.isNone && x.load.isNone && x.allowance.isNone
    | .normal => x.cfg.ceff.isSome && x.holdEnd.isNone && x.load.isNone && x.allowance.isNone
    | .curtailing => x.cfg.ceff.isSome && x.holdEnd.isSome && x.allowance.isSome
    | .failsafe => x.cfg.ceff.isSome && x.holdEnd.isNone && x.load.isNone && x.allowance == some x.cfg.fsc

/-- The curtailment table holds once recovery has established the running state; until then XCC is UNCAPPED, with Q 0
and nothing formed, whatever records recovery has loaded (R122). -/
def State.curtOk (s : State) : Bool :=
  if s.sup.stage = .done then s.xcc.tableOk
  else s.sup.supply == .starting && s.xcc.state == .uncapped && s.xcc.q == 0 && s.xcc.holdEnd.isNone &&
    s.xcc.load.isNone && s.xcc.allowance.isNone

/-! ### Unit states (R123, R130 to R132, R141) -/

/-- What goes with each link state. -/
def UnitEntry.tableOk (u : UnitEntry) : Bool :=
  decide (u.miss ≤ 3) && decide (u.mismatch ≤ 8) &&
    (match u.last with
      | some r => decide (r.output ≤ 30000)
      | none => true) &&
    match u.link with
    | .disabled =>
      !u.cfg.enable && u.miss == 0 && u.mismatch == 0 && !u.notFollowing && u.last.isNone && u.lastSent.isNone
    | .probing => u.cfg.enable && decide (u.miss < 3) && u.last.isNone
    | .online => u.cfg.enable && decide (u.miss < 3) && u.last.isSome
    | .offline => u.cfg.enable && u.miss == 3

/-- A unit holds nothing but what a reset and recovery gave it (R141). -/
def UnitEntry.untouched (u : UnitEntry) : Bool :=
  u.link == .disabled && u.miss == 0 && u.mismatch == 0 && !u.notFollowing && u.last.isNone && u.lastSent.isNone

/-- Only enabled units are in the cycle, waiting for their poll or in the exchange (R127). -/
def Ulc.pollsEnabled (l : Ulc) : Bool :=
  l.rest.all (fun i => l.units[i].cfg.enable) &&
    match l.exchange with
    | .none => true
    | .sending m => l.units[m.unit].cfg.enable
    | .window m _ _ => l.units[m.unit].cfg.enable

/-- Every unit's table holds once recovery has established the running state, and only enabled units are polled; until
then no unit is polled. -/
def State.unitsOk (s : State) : Bool :=
  if s.sup.stage = .done then s.ulc.units.toList.all UnitEntry.tableOk && s.ulc.pollsEnabled
  else s.sup.supply == .starting && s.ulc.exchange == .none && s.ulc.rest.isEmpty &&
    s.ulc.units.toList.all UnitEntry.untouched

/-! ### The pending queue (R145) -/

/-- The snapshots in the order of R145: those of the index, then those pending. -/
def Hst.numbers (h : Hst) : List Nat := h.index.map (·.1) ++ h.queue.map (·.snap.number)

/-- The pending queue holds at most 2 snapshots, the snapshot numbers strictly increase through the index and on
through the queue, and all lie below the open period's; until the log is read the store holds neither index nor queue,
and until recovery is done no queue (R145, R172, R175). -/
def State.queueOk (s : State) : Bool :=
  decide (s.hst.queue.length ≤ 2) && decide (s.hst.numbers.Pairwise (· < ·)) &&
    (s.hst.numbers.all fun n => decide (n < s.reg.period)) &&
    match s.sup.stage with
    | .done => true
    | .images => s.sup.supply == .starting && s.hst.queue.isEmpty
    | _ => s.sup.supply == .starting && s.hst.queue.isEmpty && s.hst.index.isEmpty

/-! ### The slots of the pending queue (R144, R145, R148, R158) -/

/-- No slot of a sector is BLANK, as from the beginning of its erase to its end (R155; assumption 7). -/
def Store.sectorFull (m : Store) (sector : Nat) : Bool := (List.range 16).all fun i => !Store.blank m (16 * sector + i)

/-- A sector is as the erase begun of it leaves it: no slot BLANK, not archive-locked, and not in STARTING (R149, R154,
R155, R169). -/
def State.erasing (x : Nat) (s : State) : Bool :=
  Store.sectorFull s.hst.store x && !s.hst.locked x && s.sup.supply != .starting

/-- At most one erase has begun and not ended, and the sectors of the ERASE list are others: not all BLANK, not under
erase, not the current log sector (R148, R154, R155). -/
def State.erasesOk (s : State) : Bool :=
  (s.hst.eraseList.all fun x =>
    !Store.sectorBlank s.hst.store x && !s.hst.underErase x && x != s.hst.curLog) &&
  match s.hst.engine, s.hst.suspended with
  | .erase x, none => s.erasing x
  | .erase _, some _ => false
  | _, some x => s.erasing x
  | _, none => true

/-- A slot that a read is, or will be, made of for a port is not BLANK, and its sector is not under erase. -/
def Hst.holdsRecord (h : Hst) (k : Nat) : Bool := !Store.blank h.store k && !h.underErase (k / 16)

/-- The index names slots that hold content, and so do the reads asked for; the writes of checkpoints and calendar
images stay in their own areas (R142, R148). -/
def State.accessesOk (s : State) : Bool :=
  (s.hst.index.all fun x => s.hst.holdsRecord x.2) && (s.hst.reads.all fun x => s.hst.holdsRecord x.2.2) &&
    (s.hst.calWaiting.all fun w => decide (10 ≤ w.sector)) &&
    (match s.hst.calJob with
      | some j => decide (10 ≤ j.sector)
      | none => true) &&
    decide (s.hst.ckptSector < 4) && (s.sup.unread.isEmpty || s.sup.supply == .starting) &&
    match s.hst.engine with
    | .checkpoint _ p _ => decide (p < 32)
    | .read (.port _ _) k => s.hst.holdsRecord k
    | .read .recovery _ => s.sup.supply == .starting
    | .snapshot => !s.hst.logFailed
    | _ => true

/-- Each pending entry is bound to its own BLANK slot of the log, in a sector that no erase is due for: that of the write
pointer, or one behind it while the pointer's sector has more than 4 free slots ahead. The pointer is at the last
entry's slot (R144, R145, R148). -/
def Hst.boundOk (h : Hst) : Bool :=
  let slots := h.queue.map (·.slot)
  decide (slots.length ≤ 2) && decide slots.Nodup &&
    (slots.all fun k => Store.blank h.store k && decide (4 ≤ k / 16) && decide (k / 16 < 10) &&
      !h.eraseList.contains (k / 16) &&
      (k / 16 == h.curLog || decide (5 ≤ (h.freeAfter h.writePtr h.curLog).length))) &&
    (match slots.getLast? with
      | some k => k == h.writePtr
      | none => true) &&
    decide (4 ≤ h.curLog) && decide (h.curLog < 10) &&
    (h.writePtr / 16 == h.curLog || h.writePtr == 63 && h.curLog == 4)

/-- While the log is not FAILED, behind the write pointer there is a slot for every failure of a program that the
pending entries may yet meet: R144's margin at the reservation less the failures since (R158; assumption 31). -/
def Hst.marginOk (h : Hst) : Bool :=
  h.logFailed || ((h.queue.all fun e => decide (e.fails ≤ 1)) &&
    match h.queue with
    | [] => true
    | [e] => decide (2 ≤ h.margin h.writePtr + e.fails)
    | e :: _ => decide (3 ≤ h.margin h.writePtr + e.fails))

/-- Every pending entry is bound to a BLANK slot of its own, and nothing the engine does or is asked for can take that
slot from it. -/
def State.slotsOk (s : State) : Bool :=
  s.hst.boundOk && s.hst.marginOk && s.erasesOk && s.accessesOk &&
    (s.sup.stage == .done || s.sup.supply == .starting) && (s.sup.supply != .starting || s.hst.queue.isEmpty)

/-! ### The band in effect (R53, R55, R69, R73, R75) -/

/-- A calendar has passed whole-calendar validation (R69). -/
def Calendar.valid (c : Calendar) : Bool := c.validate.isNone

/-- A calendar part in a slot is of a valid calendar. -/
def SlotContent.calendarOk : SlotContent → Bool
  | .part _ _ c => c.valid
  | _ => true

/-- An activation is set or owed, or an image write of the passive calendar waits: each follows a validation, and a
passive edit ends them all (R64, R69 to R71). -/
def State.passiveCommitted (s : State) : Bool :=
  s.cal.activation.isSome || s.activationOwed || s.hst.calWaiting.any fun w => !w.ofActive

/-- The active calendar is valid and the band in effect is one of its bands; whatever may become the active calendar is
valid: a passive calendar with an activation before it, an image being written, and every image in the store. Until
recovery is done there is no passive calendar. -/
def State.bandOk (s : State) : Bool :=
  s.cal.active.valid && decide (s.cal.band.val < s.cal.active.nb) &&
    (match s.cal.passive with
      | some c => c.valid || !s.passiveCommitted
      | none => true) &&
    (s.hst.store.all fun e => e.2.calendarOk) &&
    (match s.hst.calJob with
      | some j => j.content.valid
      | none => true) &&
    (s.sup.stage == .done || s.sup.supply == .starting && s.cal.passive.isNone)

/-- A run is safe while every state in it is sound. -/
def State.Safe (s : State) : Prop :=
  s.inv = true ∧ s.curtOk = true ∧ s.unitsOk = true ∧ s.queueOk = true ∧ s.slotsOk = true ∧ s.bandOk = true

end Sys2Proof.Machine
end

