-- ==== Sys2Proof/WellFormed.lean ====
section
/-! DEFINITION. Well-formed commands: every parameter fits the field that carries it, every payload fits a frame, and
an event carries what its occasion gives it (R1, R129, R181, R197, R200; assumption 17). -/
namespace Sys2Proof

/-- A value fits an unsigned field of `k` bytes. -/
def fits (k n : Nat) : Bool := decide (n < 256 ^ k)

/-- An optional value fits. -/
def optFits (k : Nat) (n : Option Nat) : Bool :=
  match n with
  | some n => fits k n
  | none => true

def RawMapEntry.wf (e : RawMapEntry) : Bool := fits 1 e.kind && fits 1 e.band

def RawBand.wf (b : RawBand) : Bool := fits 2 b.value && fits 1 b.rank

def RawSeason.wf (x : RawSeason) : Bool := fits 1 x.month && fits 1 x.day && fits 1 x.week

def RawPoint.wf (p : RawPoint) : Bool := fits 2 p.minute && fits 1 p.band

def RawSpecial.wf (x : RawSpecial) : Bool :=
  fits 1 x.kind && fits 1 x.year && fits 1 x.month && fits 1 x.day && fits 1 x.profile

def RawDateTime.wf (t : RawDateTime) : Bool := fits 1 t.year && fits 1 t.month && fits 1 t.day && fits 2 t.minute

def SnapshotKey.wf : SnapshotKey → Bool
  | .number n => fits 4 n
  | .offset k => fits 4 k

/-- A list of sectors has at most 254 entries: a count of 0xFF stands for ALL (R197). -/
def SectorList.wf : SectorList → Bool
  | .all => true
  | .list l => decide (l.length < 255) && l.all (fits 1)

/-- A request's parameters fit its payload, and the payload fits a frame. -/
def Request.wf : Request → Bool
  | .setNettingMethod m => optFits 1 m
  | .setTime t => fits 4 t
  | .setLocalOffset o =>
    match o with
    | some o => decide (-32768 ≤ o) && decide (o ≤ 32767)
    | none => true
  | .setOverrideSource line source => fits 1 line && optFits 1 source
  | .setOverride line value => fits 1 line && fits 1 value
  | .setOverrideMap m =>
    match m with
    | some m => m.toList.all RawMapEntry.wf
    | none => true
  | .passiveBands nb fb l => fits 1 nb && fits 1 fb && decide (l.length ≤ 68) && l.all RawBand.wf
  | .passiveSeason i x =>
    fits 1 i && match x with
      | some x => x.wf
      | none => true
  | .passiveWeek i w =>
    fits 1 i && match w with
      | some w => w.toList.all (fits 1)
      | none => true
  | .passiveDay i d =>
    fits 1 i && match d with
      | some d => decide (d.length ≤ 159) && d.all RawPoint.wf
      | none => true
  | .passiveSpecial i x =>
    fits 1 i && match x with
      | some x => x.wf
      | none => true
  | .passiveActivateAt t => t.wf
  | .readCalendar c p i => fits 1 c && fits 1 p && fits 1 i
  | .setSettlement m k d => optFits 1 m && optFits 4 k && optFits 1 d
  | .setUtilityCap l h e => fits 2 l && fits 2 h && optFits 4 e
  | .setPremisesCap l h e => fits 2 l && fits 2 h && optFits 4 e
  | .setCapControl f e t h => optFits 2 f && optFits 1 e && optFits 1 t && optFits 2 h
  | .setUnitConfig u e s m => fits 1 u && optFits 1 e && optFits 1 s && optFits 1 m
  | .setUnitStandby u r => fits 1 u && optFits 1 r
  | .setProfileWeights w => w.toList.all (optFits 1)
  | .readSnapshot k => k.wf
  | .lockArchive l => l.wf
  | .unlockArchive l => l.wf
  | .clearFrameLoss | .readRegisters | .readTime | .passiveClear _ | .passiveActivateNow | .closePeriod
  | .clearUtilityCap | .clearPremisesCap | .readCaps | .readUnits | .restart | .getStatus | .readNotices
  | .setNoticeMask _ | .freezeView | .releaseView | .lockPremises | .unlockPremises => true

/-- The request a command carries, with the port it is taken on; none for an event. -/
def Instr.request (i : Instr) : Option (Port × Request) :=
  match i with
  | .clearFrameLoss port => some (port, .clearFrameLoss)
  | .setNettingMethod port method => some (port, .setNettingMethod method)
  | .readRegisters port => some (port, .readRegisters)
  | .setTime port utc => some (port, .setTime utc)
  | .setLocalOffset port offset => some (port, .setLocalOffset offset)
  | .readTime port => some (port, .readTime)
  | .setOverrideSource port line source => some (port, .setOverrideSource line source)
  | .setOverride port line value => some (port, .setOverride line value)
  | .setOverrideMap port entries => some (port, .setOverrideMap entries)
  | .passiveClear port name => some (port, .passiveClear name)
  | .passiveBands port nb fallback bands => some (port, .passiveBands nb fallback bands)
  | .passiveSeason port index entry => some (port, .passiveSeason index entry)
  | .passiveWeek port index days => some (port, .passiveWeek index days)
  | .passiveDay port index points => some (port, .passiveDay index points)
  | .passiveSpecial port index entry => some (port, .passiveSpecial index entry)
  | .passiveActivateAt port time => some (port, .passiveActivateAt time)
  | .passiveActivateNow port => some (port, .passiveActivateNow)
  | .readCalendar port calendar part index => some (port, .readCalendar calendar part index)
  | .setSettlement port mode cap day => some (port, .setSettlement mode cap day)
  | .closePeriod port => some (port, .closePeriod)
  | .setUtilityCap port limit hysteresis expiry => some (port, .setUtilityCap limit hysteresis expiry)
  | .clearUtilityCap port => some (port, .clearUtilityCap)
  | .setPremisesCap port limit hysteresis expiry => some (port, .setPremisesCap limit hysteresis expiry)
  | .clearPremisesCap port => some (port, .clearPremisesCap)
  | .setCapControl port fsc enable trip hold => some (port, .setCapControl fsc enable trip hold)
  | .readCaps port => some (port, .readCaps)
  | .setUnitConfig port unit enable slot maskOff => some (port, .setUnitConfig unit enable slot maskOff)
  | .setUnitStandby port unit standby => some (port, .setUnitStandby unit standby)
  | .setProfileWeights port weights => some (port, .setProfileWeights weights)
  | .readUnits port => some (port, .readUnits)
  | .readSnapshot port key => some (port, .readSnapshot key)
  | .lockArchive port sectors => some (port, .lockArchive sectors)
  | .unlockArchive port sectors => some (port, .unlockArchive sectors)
  | .restart port => some (port, .restart)
  | .getStatus port => some (port, .getStatus)
  | .readNotices port => some (port, .readNotices)
  | .setNoticeMask port mask => some (port, .setNoticeMask mask)
  | .freezeView port => some (port, .freezeView)
  | .releaseView port => some (port, .releaseView)
  | .lockPremises port => some (port, .lockPremises)
  | .unlockPremises port => some (port, .unlockPremises)
  | .phaseFrame _ | .silence500 | .silence2000 | .secondTick | .backupDomainLoss | .overrideLineLevelChange _ _
  | .overrideDebounceExpiry _ | .mainsWarnAssert | .mainsWarnDeassert | .supplyDebounceExpiry | .writeSequenceEnd
  | .powerOnReset | .resetLine | .recoveryCheckpointScan | .recoveryLogScan | .recoveryCalendarLoad
  | .periodicCheckpointTimer | .snapshotProgramComplete _ | .checkpointProgramComplete _ _
  | .calendarPartProgramComplete _ | .sectorEraseComplete _ | .eraseSuspend | .slotReadComplete _
  | .requestFrame _ _ | .frameLengthOverflow _ _ | .frameStall _ | .ignoreIdleExpiry _ | .responseTransmitComplete _
  | .viewExpiry _ | .pollCycleStart | .allowanceSent | .unitReport _ | .replyWindowExpiry | .mainSupplyLoss => none

/-- A well-formed command. -/
def Instr.wf (i : Instr) : Bool :=
  match i.request with
  | some (_, q) => q.wf
  | none =>
    match i with
    | .phaseFrame run => !run.chars.isEmpty || run.ended
    | .requestFrame _ chars => !chars.isEmpty
    | .unitReport chars => !chars.isEmpty && decide (chars.length ≤ 7)
    | .frameLengthOverflow _ n => decide (480 < n.toNat)
    | _ => true

end Sys2Proof
end

