-- ==== Sys2Proof/Certificates/Slice0/Obligations.lean ====
section
/-! DEFINITION. The statements for the provers: what a step does, what each command does to the state when its port
serves it or its occasion is there, what the shared operations leave, and the invariants every step keeps. `Claim`
holds the words the statements share. A statement that rests on a choice of the model names its log entry. -/
open Sys2Proof Sys2Proof.Machine

namespace Sys2Proof.Claim

/-- Port `p` with a request's code in its buffer (R182). -/
abbrev taken (p : Port) (code : Nat) (s : State) : State := s.updPort p fun x => { x with buffer := some code }

/-- Port `p` serves the request `q`: main supply is present and the supply state RUN, the buffer is free, the port has
authority, the premises lock does not hold the request back, and its enumerations and names lie in their lists
(R182, R184 to R186). -/
abbrev Serves (p : Port) (q : Request) (s : State) : Prop :=
  s.sup.powered = true ∧ s.sup.supply = .run ∧ (s.port p).buffer = none ∧ authority p (Request.code q) = true ∧
    (p = .ppt ∧ s.premLock = true → Request.held q = false) ∧ Request.fieldsOk q = true

/-- The state `u`, with the buffered request answered and the command ended. -/
abbrev answered (p : Port) (code : Nat) (st : Status) (a : Answer) (u : State) : State :=
  finish (respond p code st a u)

end Sys2Proof.Claim
open Sys2Proof.Claim

/-! ### The machine: the queue, the end of a command, the engine, the resets -/

/-- A step takes the command at the front of the queue and answers what `exec` makes of it on the state with the rest
of the queue (log 1). -/
def Obligations.StepRunsFrontCommand : Prop :=
  ∀ (c : Instr) (rest : List Instr) (s : State), s.pending = c :: rest → step s = exec c { s with pending := rest }

/-- On an empty queue a step is one millisecond: the run clock and the divider count it, nothing else changes; without
main supply only the backup domain's divider runs, unless the domain was lost (log 1, log 32). -/
def Obligations.IdleStepIsOneMillisecond : Prop :=
  ∀ s : State, s.pending = [] →
    (s.sup.powered = true → step s =
      .next { s with tim := { s.tim with runMs := s.tim.runMs + 1, subMs := min 1000 (s.tim.subMs + 1) } }) ∧
    (s.sup.powered = false → s.tim.retained = true → step s =
      .next { s with tim := { s.tim with subMs := min 1000 (s.tim.subMs + 1) } }) ∧
    (s.sup.powered = false → s.tim.retained = false → step s = .next s)

/-- Every command answers a next state from every state, and leaves the queue of waiting commands alone. -/
def Obligations.EveryCommandAnswersNext : Prop :=
  ∀ (c : Instr) (s : State), ∃ t, exec c s = .next t ∧ t.pending = s.pending

/-- What a command does while main supply is absent (R40, R168, R170; log 12, log 13). -/
def Sys2Proof.Claim.whileUnpowered (c : Instr) (s : State) : State :=
  match c with
  | .secondTick => if s.tim.retained then { s with tim := s.tim.advance } else s
  | .backupDomainLoss => { s with tim := { s.tim with retained := false } }
  | .powerOnReset => powerOn s
  | .overrideLineLevelChange i level =>
    { s with cal := { s.cal with lines := s.cal.lines.set i { s.cal.lines[i] with level := level } } }
  | .mainsWarnAssert => { s with sup := { s.sup with mainsWarn := true } }
  | .mainsWarnDeassert => { s with sup := { s.sup with mainsWarn := false } }
  | _ => s

/-- While main supply is absent the backup domain counts seconds unless it is lost, BACKUP_DOMAIN_LOSS clears its
retention indication, the pins move, POWER_ON_RESET acts, and every other command leaves the whole state as it was. With
main supply present BACKUP_DOMAIN_LOSS changes nothing. -/
def Obligations.UnpoweredCommands : Prop :=
  ∀ s : State,
    (∀ c : Instr, s.sup.powered = false → exec c s = .next (whileUnpowered c s)) ∧
    (s.sup.powered = true → exec .backupDomainLoss s = .next s)

/-- What ends a command. A RESTART being carried out in RUN whose checkpoint no longer waits ends in the reset (log 24).
Otherwise the engine chooses its next operation (log 26), before an end of the write sequence that falls together with it
(log 55), and in WARNING, where it is free with no read waiting and the
pending queue drained, a checkpoint that carries POWER_FAIL or waits for its retry, with no record position available,
is withdrawn: the retry and a request with POWER_FAIL end and the lost-checkpoint count adds one (log 23). -/
def Obligations.CommandEnd : Prop :=
  ∀ u : State,
    let waits : Prop := (∃ c, u.hst.ckptReq = some c ∧ Cause.restart.isIn c = true) ∨
      (∃ c, u.hst.ckptRetry = some c ∧ Cause.restart.isIn c.causes = true) ∨
      ∃ c p r, u.hst.engine = .checkpoint c p r ∧ Cause.restart.isIn c.causes = true
    let ends : Prop := u.sup.restarting = true ∧ u.sup.supply = .run ∧ ¬waits
    let a := arbitrate u
    let stuck : Prop := a.sup.supply = .warning ∧ (a.hst.queue = [] ∨ a.hst.logFailed = true) ∧
      a.hst.engine = .idle ∧ a.hst.reads = [] ∧ a.hst.nextPosition = none ∧
      (a.hst.ckptRetry ≠ none ∨ ∃ c, a.hst.ckptReq = some c ∧ Cause.powerFail.isIn c = true)
    (ends → finish u = resetEngine u) ∧
    (¬ends → ¬stuck → finish u = a) ∧
    (¬ends → stuck → finish u = { a with
      hst := { a.hst with
        ckptRetry := none
        ckptReq := match a.hst.ckptReq with
          | some c => if Cause.powerFail.isIn c then none else some c
          | none => none }
      sup := { a.sup with lostCkpt := min 65535 (a.sup.lostCkpt + 1) } }) ∧
    ∃ h : Hst, a = { u with hst := h }

/-- The store engine when the erase of a sector has begun: the sector leaves the ERASE list, its pairs leave the index,
and its slots no longer hold what they held (R148, R154, R155; log 7). -/
def Sys2Proof.Claim.eraseBegun (x : Nat) (h : Hst) : Hst :=
  { h with
    engine := .erase x
    eraseList := h.eraseList.filter (· != x)
    index := h.index.filter fun y => y.2 / 16 != x
    store := Store.erased h.store x (BitVec.allOnes 16) }

/-- Items 1 to 3 of R154: a busy engine, and one in DOWN, starts nothing; then recovery's reads and the ports' in their
order, the oldest pending snapshot, the retry of a checkpoint, and the request, whose content is captured now. -/
def Sys2Proof.Claim.EngineFirst : Prop :=
  ∀ s : State,
    let free : Prop := s.hst.engine = .idle ∧ s.sup.supply ≠ .down
    let noRead : Prop := s.sup.unread = [] ∧ s.hst.reads = []
    let noSnap : Prop := s.hst.queue = [] ∨ s.hst.logFailed = true
    let run (e : Engine) : State := { s with hst := { s.hst with engine := e } }
    (¬free → arbitrate s = s) ∧
    (∀ k rest, free → s.sup.unread = k :: rest → arbitrate s = run (.read .recovery k)) ∧
    (∀ p n k rest, free → s.sup.unread = [] → s.hst.reads = (p, n, k) :: rest →
      arbitrate s = run (.read (.port p n) k)) ∧
    (free → noRead → ¬noSnap → arbitrate s = run .snapshot) ∧
    (∀ p, free → noRead → noSnap → s.hst.ckptFailed = false → s.hst.nextPosition = some p →
      (∀ c, s.hst.ckptRetry = some c →
        arbitrate s = { s with hst := { s.hst with ckptRetry := none, engine := .checkpoint c p true } }) ∧
      (∀ causes, s.hst.ckptRetry = none → s.hst.ckptReq = some causes →
        arbitrate s =
          { s with hst := { s.hst with ckptReq := none, engine := .checkpoint (captureNow causes s) p false } }))

/-- Items 4 to 6 of R154, where no read, snapshot or checkpoint can go first, in RUN alone: the suspended erase, the next
part of the calendar write, the next write with the content it captures and the erase of its sector (the calendar's
flags stand: log 47), and the first sector of the ERASE list that is not archive-locked. -/
def Sys2Proof.Claim.EngineRunWork : Prop :=
  ∀ s : State, s.hst.engine = .idle → s.sup.unread = [] → s.hst.reads = [] →
    (s.hst.queue = [] ∨ s.hst.logFailed = true) →
    (s.hst.ckptFailed = true ∨ s.hst.nextPosition = none ∨ s.hst.ckptRetry = none ∧ s.hst.ckptReq = none) →
    let h := s.hst
    let list : Prop := h.suspended = none ∧ (h.calJob = none ∧ h.calWaiting = [] ∨ ∃ j, h.calJob = some j ∧ j.erasing = true)
    (s.sup.supply ≠ .run → arbitrate s = s) ∧
    (∀ x, s.sup.supply = .run → h.suspended = some x →
      arbitrate s = { s with hst := { h with suspended := none, engine := .erase x } }) ∧
    (∀ j, s.sup.supply = .run → h.suspended = none → h.calJob = some j → j.erasing = false →
      arbitrate s = { s with hst := { h with engine := .part } }) ∧
    (∀ w rest, s.sup.supply = .run → h.suspended = none → h.calJob = none → h.calWaiting = w :: rest →
      let c := if w.ofActive then s.cal.active else s.cal.passive.getD s.cal.active
      arbitrate s = { s with hst := { eraseBegun w.sector h with
        calWaiting := rest
        calJob := some { sector := w.sector, ofActive := w.ofActive, grantedActive := w.ofActive, edited := false,
                         content := c, parts := c.parts, next := 1, slot := 0, failed := false, erasing := true } } }) ∧
    (∀ pre x post, s.sup.supply = .run → list → h.eraseList = pre ++ x :: post → (∀ y ∈ pre, h.locked y = true) →
      h.locked x = false → arbitrate s = { s with hst := eraseBegun x h }) ∧
    (s.sup.supply = .run → list → (∀ y ∈ h.eraseList, h.locked y = true) → arbitrate s = s) ∧
    (∀ i : Fin 6, h.locked (4 + i) = h.locks[i]) ∧ (∀ x, x < 4 ∨ 10 ≤ x → h.locked x = false)

/-- The free store engine chooses in the order of R154. -/
def Obligations.EngineOrder : Prop := EngineFirst ∧ EngineRunWork

/-- The state right after a power-on with a blank store and a lost backup domain: STARTING with recovery's first read
in progress, time 2000-01-01 INVALID, the after-reset and factory values of every block. The empty queue, the pin
levels and the count of free values are the model's (log 11). -/
def Obligations.ResetState : Prop :=
  let s := State.reset
  (s.sup.supply = .starting ∧ s.sup.stage = .ring ∧ s.sup.powered = true ∧ s.sup.rideThrough = 0 ∧
    s.sup.lostCkpt = 0 ∧ s.sup.restarting = false) ∧
  (s.hst.store = [] ∧ s.hst.engine = .read .recovery 0 ∧ s.sup.unread = List.range 64 ∧ s.hst.queue = [] ∧
    s.hst.index = [] ∧ s.hst.locks = .replicate 6 true ∧ s.hst.retired = []) ∧
  (s.tim.utc = 0 ∧ s.tim.subMs = 0 ∧ s.tim.valid = false ∧ s.tim.retained = true ∧ s.tim.offset = 0 ∧
    s.tim.runMs = 0 ∧ s.tim.lastClose = none) ∧
  (s.frx.run = [] ∧ s.frx.health = .noSignal ∧ s.frx.lastSeq = none ∧ s.frx.lastArrival = none ∧ s.frx.relock = 0 ∧
    s.frx.lostSeen = false ∧ s.frx.counters = .zero ∧ s.netting = .vector) ∧
  (s.reg.ti = 0 ∧ s.reg.te = 0 ∧ s.reg.ri = 0 ∧ s.reg.re = 0 ∧ s.reg.imp = .replicate 8 0 ∧
    s.reg.exp = .replicate 8 0 ∧ s.reg.period = 1 ∧ s.reg.openTime = none ∧ s.reg.credit = 0 ∧ s.reg.forfeit = 0 ∧
    s.reg.flags = .clear) ∧
  (s.cal.active = .builtIn ∧ s.cal.passive = none ∧ s.cal.designation = none ∧ s.cal.map = .replicate 4 .calendar ∧
    s.cal.band = 0 ∧ s.cal.source = .schedule) ∧
  (s.set.mode = .total ∧ s.set.cap = 999999999 ∧ s.set.day = 1 ∧ s.set.owed = none) ∧
  (s.xcc.state = .uncapped ∧ s.xcc.q = 0 ∧ s.xcc.cfg.util = none ∧ s.xcc.cfg.prem = none ∧ s.xcc.cfg.fsc = 0 ∧
    s.xcc.cfg.fsEnable = true ∧ s.xcc.cfg.trip = 20 ∧ s.xcc.cfg.hold = 60 ∧ s.xcc.lastXs = none) ∧
  (s.ulc.weights = .replicate 4 1 ∧ (∀ i : Fin 4, s.ulc.units[i].link = .disabled ∧ s.ulc.units[i].miss = 0 ∧
    s.ulc.units[i].last = none ∧ s.ulc.units[i].allowance = none)) ∧
  (∀ p : Port, (s.port p).rx = .hunt ∧ (s.port p).buffer = none ∧ (s.port p).tx = [] ∧ (s.port p).notices = 0 ∧
    (s.port p).mask = BitVec.allOnes 11 ∧ (s.port p).view = .none) ∧
  s.premLock = false ∧ s.pending = []

/-- The slots that a program in progress is writing, each with the record it writes. -/
def Sys2Proof.Claim.underProgram (h : Hst) : List (Nat × SlotContent) :=
  match h.engine with
  | .snapshot => h.queue.head?.toList.map fun e => (e.slot, .snapshot e.snap)
  | .checkpoint c p _ => [(2 * p, .half 0 c), (2 * p + 1, .half 1 c)]
  | .part => h.calJob.toList.map fun j => (16 * j.sector + j.slot, .part j.next j.parts j.content)
  | _ => []

/-- RESET_LINE, POWER_ON_RESET and MAIN_SUPPLY_LOSS put every RAM item at its after-reset value. The store keeps every
slot that no program was writing; a slot under program stands as before, holds the record it was to hold, or is INVALID,
the second half of a checkpoint begun only where the first was written. The wall clock and its validity stand, but for a
power-on that finds the backup domain lost (log 6, log 11, log 12, log 14). -/
def Obligations.ResetsAndSupplyLoss : Prop :=
  ∀ s : State, ∃ m : Store,
    (∀ k, (∀ x ∈ underProgram s.hst, x.1 ≠ k) → Store.at m k = Store.at s.hst.store k) ∧
    (∀ x ∈ underProgram s.hst,
      Store.at m x.1 = Store.at s.hst.store x.1 ∨ Store.at m x.1 = some x.2 ∨ Store.at m x.1 = some .junk) ∧
    (∀ c p retry, s.hst.engine = .checkpoint c p retry →
      Store.at m (2 * p) = some (.half 0 c) ∨ Store.at m (2 * p + 1) = Store.at s.hst.store (2 * p + 1)) ∧
    let after (utc subMs : Nat) (valid : Bool) : State :=
      State.afterReset m utc subMs valid s.cal.lines[0].level s.cal.lines[1].level s.sup.mainsWarn (s.draws + 2)
        s.pending
    let same := after s.tim.utc s.tim.subMs s.tim.valid
    (s.sup.powered = true → exec .resetLine s = .next same) ∧
    (s.tim.retained = true → exec .powerOnReset s = .next same) ∧
    (s.tim.retained = false → exec .powerOnReset s = .next (after 0 0 false)) ∧
    (s.sup.powered = true → exec .mainSupplyLoss s = .next { same with sup := { same.sup with powered := false } })

/-! ### Phase frames, netting and the registers (chapters 1 and 2) -/

/-- The bytes of a phase frame, written from the layout of R199. -/
def Sys2Proof.Claim.phaseBytes (seq : Byte) (p1 p2 p3 : Int) (present : Byte) (status : Nat) : List Byte :=
  withCrc ([seq] ++ leIntBytes 2 p1 ++ leIntBytes 2 p2 ++ leIntBytes 2 p3 ++ [present] ++ leBytes 1 status)

/-- A phase frame sent with every character good is read back field by field: the sequence number, the three signed
phase values, the three voltage-present flags and the front-end status. -/
def Sys2Proof.Claim.PhaseFrameReadBack : Prop :=
  ∀ (seq : Byte) (p1 p2 p3 : Int) (present : Byte) (n : Nat) (st : FeStatus), FeStatus.ofCode n = some st →
    (∀ p ∈ [p1, p2, p3], -32768 ≤ p ∧ p ≤ 32767) →
    parsePhaseFrame ((phaseBytes seq p1 p2 p3 present n).map goodChar) =
      some { seq := seq, p1 := p1, p2 := p2, p3 := p3, present1 := present.getLsbD 0, present2 := present.getLsbD 1,
             present3 := present.getLsbD 2, status := st }

/-- Characters that do not end the run are kept, a twelfth standing for all beyond it, and an idle line with no run before
it changes nothing. A run that ends with a length other than 11, a missing stop bit, a wrong check or an unknown
front-end status is a frame error: it adds one to the frame-error counter, saturating, and changes nothing else. -/
def Sys2Proof.Claim.FrameErrorIsCounted : Prop :=
  ∀ (r : LinkRun) (s : State), s.sup.powered = true →
    let run := s.frx.run ++ r.chars
    (r.ended = false → exec (.phaseFrame r) s = .next (finish { s with frx := { s.frx with run := run.take 12 } })) ∧
    (r.ended = true → run = [] → exec (.phaseFrame r) s = .next (finish s)) ∧
    (r.ended = true → run ≠ [] →
      run.length ≠ 11 ∨ (∃ c ∈ run, c.stopOk = false) ∨ crcOk (run.map RxChar.byte) = false ∨
        2 < ((run.map RxChar.byte).getD 8 0).toNat →
      exec (.phaseFrame r) s = .next (finish { s with frx := { s.frx with
        run := [], counters := { s.frx.counters with errors := satAdd s.frx.counters.errors 1 } } }))

/-- The sequence judgement of R4 on d = (sequence number − last accepted) mod 256: 0 duplicate, 1 normal, 2..8 with
d − 1 missed, 9..255 resync; normal when there is no last accepted sequence number. -/
def Sys2Proof.Claim.SequenceJudgement : Prop :=
  ∀ last seq : Byte,
    let d := (seq.toNat + 256 - last.toNat) % 256
    judgeSeq none seq = .normal ∧
    (d = 0 → judgeSeq (some last) seq = .duplicate) ∧
    (d = 1 → judgeSeq (some last) seq = .normal) ∧
    (2 ≤ d ∧ d ≤ 8 → judgeSeq (some last) seq = .missed (d - 1)) ∧
    (9 ≤ d → judgeSeq (some last) seq = .resync)

/-- The state when the run of an arrival has left the receiver and the arrival is noted for the silence (R1, R10). -/
abbrev Sys2Proof.Claim.noted (s : State) : State :=
  { s with frx := { s.frx with run := [], lastArrival := some s.tim.runMs } }

/-- The frames a judgement takes as missed (R4). -/
def Sys2Proof.Claim.missedBy (j : SeqJudge) : Nat :=
  match j with
  | .missed n => n
  | _ => 0

/-- The state `h` after an accepted frame has set its counters and flags and been booked (R4 to R8, R19 to R23). -/
def Sys2Proof.Claim.booked (f : PhaseFrame) (j : SeqJudge) (h : State) : State :=
  let r := h.reg.book (importOf h.netting f.e1 f.e2 f.e3) (exportOf h.netting f.e1 f.e2 f.e3) h.cal.band
  { h with
    frx := { h.frx with
      lastSeq := some f.seq
      counters := { h.frx.counters with
        missed := satAdd h.frx.counters.missed (missedBy j)
        clamped := satAdd h.frx.counters.clamped f.clampCount } }
    reg := { r with flags := { h.reg.flags with
      resyncSeen := h.reg.flags.resyncSeen || j == .resync
      frontendFaultSeen := h.reg.flags.frontendFaultSeen || f.status != .ok } } }

/-- The end of a run that is a checked frame, where the health change and the frame do not meet in FAILSAFE in RUN: the
arrival drives frame health; outside RUN it is counted as discarded; in RUN a duplicate is counted, and any other frame
sets its counters and flags, is booked, and goes to the cap control with its site sum. -/
def Sys2Proof.Claim.ArrivalIsTaken : Prop :=
  ∀ (r : LinkRun) (f : PhaseFrame) (s : State), s.sup.powered = true → r.ended = true →
    parsePhaseFrame (s.frx.run ++ r.chars) = some f →
    (s.xcc.state = .failsafe → s.sup.supply = .run → (healthOnArrival s.frx.health s.frx.relock).1 ≠ .locked) →
    let h := arrivalHealth (noted s)
    let c := h.frx.counters
    (s.sup.supply ≠ .run → exec (.phaseFrame r) s = .next (finish { h with frx := { h.frx with counters :=
      { c with discarded := satAdd c.discarded 1 } } })) ∧
    (s.sup.supply = .run → judgeSeq s.frx.lastSeq f.seq = .duplicate →
      exec (.phaseFrame r) s = .next (finish { h with frx := { h.frx with counters :=
        { c with dups := satAdd c.dups 1 } } })) ∧
    (s.sup.supply = .run → ∀ j, judgeSeq s.frx.lastSeq f.seq = j → j ≠ .duplicate →
      exec (.phaseFrame r) s = .next (finish (capFrame f.siteSum (booked f j h))))

/-- Where the arrival that ends FAILSAFE in RUN takes health to LOCKED, either the change or the frame may come first, and
the frame's energy is booked in both orders (R115; log 5). -/
def Sys2Proof.Claim.FailsafeEndOrderIsFree : Prop :=
  ∀ (r : LinkRun) (f : PhaseFrame) (s : State), s.sup.powered = true → s.sup.supply = .run → r.ended = true →
    parsePhaseFrame (s.frx.run ++ r.chars) = some f → s.xcc.state = .failsafe →
    (healthOnArrival s.frx.health s.frx.relock).1 = .locked →
    let n := noted { s with draws := s.draws + 1 }
    exec (.phaseFrame r) s = .next (finish (takeArrival f (arrivalHealth n))) ∨
    exec (.phaseFrame r) s = .next (finish (arrivalHealth (takeArrival f n)))

/-- PHASE_FRAME in every case: a run that goes on, a frame error, an arrival outside RUN, a duplicate, an accepted frame,
and the arrival that ends FAILSAFE in RUN, where the order is free (log 5). -/
def Obligations.PhaseFrameTaken : Prop := FrameErrorIsCounted ∧ ArrivalIsTaken ∧ FailsafeEndOrderIsFree

/-- Frame health at an arrival: NO_SIGNAL, LOCKED and GAP go to LOCKED; LOST goes to RELOCKING with relock count 1; the
sixteenth arrival in a row in RELOCKING goes to LOCKED and any other adds one; a change raises FRAME_HEALTH. -/
def Sys2Proof.Claim.HealthAtArrival : Prop :=
  ∀ s : State,
    let into (h : Health) (n : Nat) : State := { s with frx := { s.frx with health := h, relock := n } }
    (s.frx.health = .locked → arrivalHealth s = into .locked 0) ∧
    (s.frx.health = .noSignal ∨ s.frx.health = .gap →
      arrivalHealth s = capHealth .locked (raise .frameHealth (into .locked 0))) ∧
    (s.frx.health = .lost → arrivalHealth s = raise .frameHealth (into .relocking 1)) ∧
    (s.frx.health = .relocking → s.frx.relock ≠ 15 → arrivalHealth s = into .relocking (s.frx.relock + 1)) ∧
    (s.frx.health = .relocking → s.frx.relock = 15 →
      arrivalHealth s = capHealth .locked (raise .frameHealth (into .locked 0)))

/-- The state when the silence has lasted `ms` since the last arrival, or since the reset (R10, R11; log 2). -/
abbrev Sys2Proof.Claim.silent (ms : Nat) (s : State) : State := passTo (s.frx.lastArrival.getD 0 + ms) s

/-- The entry to LOST: the lost-seen flag and FRAME_LOSS_SEEN are set, FRAME_HEALTH is raised, and the Export Cap
Controller is told (R14, R114). -/
def Sys2Proof.Claim.lost (s : State) : State :=
  failsafeIfDue (raise .frameHealth { s with
    frx := { s.frx with health := .lost, relock := 0, lostSeen := true }
    reg := { s.reg with flags := { s.reg.flags with frameLossSeen := true } } })

/-- SILENCE_500MS takes LOCKED to GAP and RELOCKING to LOST; SILENCE_2000MS takes NO_SIGNAL and GAP to LOST; in any
other health state each changes nothing, its occasion being absent (log 3). -/
def Obligations.Silences : Prop :=
  ∀ s : State, s.sup.powered = true →
    (s.frx.health = .locked → exec .silence500 s = .next (finish (raise .frameHealth
      { silent 500 s with frx := { s.frx with health := .gap, relock := 0 } }))) ∧
    (s.frx.health = .relocking → exec .silence500 s = .next (finish (lost (silent 500 s)))) ∧
    (s.frx.health ≠ .locked → s.frx.health ≠ .relocking → exec .silence500 s = .next (finish s)) ∧
    (s.frx.health = .noSignal ∨ s.frx.health = .gap → exec .silence2000 s = .next (finish (lost (silent 2000 s)))) ∧
    (s.frx.health ≠ .noSignal → s.frx.health ≠ .gap → exec .silence2000 s = .next (finish s))

/-- The effective value of a phase and what it adds to the clamp counter, over the four rows of R6's table. -/
def Sys2Proof.Claim.EffectiveValues : Prop :=
  ∀ p : Int,
    (effective false p = 0 ∧ isClamped false p = 0) ∧
    (-2047 ≤ p ∧ p ≤ 2047 → effective true p = p ∧ isClamped true p = 0) ∧
    (p < -2047 → effective true p = -2047 ∧ isClamped true p = 1) ∧
    (2047 < p → effective true p = 2047 ∧ isClamped true p = 1)

/-- What is formed from an accepted frame: the effective value of each phase from its own flag and value, the site sum of
the three, and the clamped phases counted (R6, R8). -/
def Sys2Proof.Claim.FrameValues : Prop :=
  ∀ f : PhaseFrame,
    f.e1 = effective f.present1 f.p1 ∧ f.e2 = effective f.present2 f.p2 ∧ f.e3 = effective f.present3 f.p3 ∧
      f.siteSum = effective f.present1 f.p1 + effective f.present2 f.p2 + effective f.present3 f.p3 ∧
      f.clampCount = isClamped f.present1 f.p1 + isClamped f.present2 f.p2 + isClamped f.present3 f.p3

/-- The Frame Receiver's tables: the sequence judgement of R4, the effective values of R6 with what a frame forms from them,
and frame health at an arrival (R11, R12). -/
def Obligations.FrameReceiverTables : Prop := SequenceJudgement ∧ EffectiveValues ∧ FrameValues ∧ HealthAtArrival

/-- Under VECTOR the site sum is split by its sign: at most one increment is non-zero, each lies in 0..6,141, and
opposite flows on different phases cancel. -/
def Obligations.VectorNetting : Prop :=
  ∀ p1 p2 p3 : Int, (∀ p ∈ [p1, p2, p3], -2047 ≤ p ∧ p ≤ 2047) →
    let S := p1 + p2 + p3
    let i := importOf .vector p1 p2 p3
    let e := exportOf .vector p1 p2 p3
    (-6141 ≤ S ∧ S ≤ 6141) ∧ (0 < S → (i : Int) = S ∧ e = 0) ∧ (S < 0 → (e : Int) = -S ∧ i = 0) ∧
      (S = 0 → i = 0 ∧ e = 0) ∧ (i = 0 ∨ e = 0) ∧ i ≤ 6141 ∧ e ≤ 6141 ∧
      importOf .vector 1500 (-1500) 0 = 0 ∧ exportOf .vector 1500 (-1500) 0 = 0

/-- The magnitudes of those of three phase values that keep a sign: `max` of each with 0. -/
def Sys2Proof.Claim.gross (l : List Int) : Int := (l.map fun p => max p 0).sum

/-- The sum of a netting increment over a stretch of frames, each with its three effective values. -/
def Sys2Proof.Claim.stretch (f : Int → Int → Int → Nat) (l : List (Int × Int × Int)) : Nat :=
  (l.map fun p => f p.1 p.2.1 p.2.2).sum

/-- Under PHASE the increments are the gross flows of the phases in each direction, each within 0..6,141, and both can be
non-zero in one frame. Over any stretch of frames each is at least as large as under VECTOR, and their difference is the
same; in each frame it is the site sum. -/
def Obligations.PhaseNetting : Prop :=
  (∀ p1 p2 p3 : Int, (∀ p ∈ [p1, p2, p3], -2047 ≤ p ∧ p ≤ 2047) →
    let i := importOf .phase p1 p2 p3
    let e := exportOf .phase p1 p2 p3
    (i : Int) = gross [p1, p2, p3] ∧ (e : Int) = gross [-p1, -p2, -p3] ∧ i ≤ 6141 ∧ e ≤ 6141 ∧
      (i : Int) - e = p1 + p2 + p3 ∧ (importOf .vector p1 p2 p3 : Int) - exportOf .vector p1 p2 p3 = p1 + p2 + p3) ∧
  (importOf .phase 500 (-300) 100 = 600 ∧ exportOf .phase 500 (-300) 100 = 300) ∧
  ∀ l : List (Int × Int × Int),
    stretch (importOf .vector) l ≤ stretch (importOf .phase) l ∧
    stretch (exportOf .vector) l ≤ stretch (exportOf .phase) l ∧
    (stretch (importOf .phase) l : Int) - stretch (exportOf .phase) l =
      (stretch (importOf .vector) l : Int) - stretch (exportOf .vector) l

/-- Booking an increment pair to a band: in each direction the residue takes the milliwatt-hours modulo 1,000, the
completed watt-hours go to the lifetime total and to that band modulo 10^9, every other band and every other item of
the Register Bank stays, and an increment of 0 changes nothing in its direction. -/
def Sys2Proof.Claim.BookingFrame : Prop :=
  ∀ (r : RegBank) (i e : Nat) (b : Fin 8),
    let t := r.book i e b
    let wi := (r.ri + i) / 1000
    let we := (r.re + e) / 1000
    (1000 * wi + t.ri = r.ri + i ∧ t.ri < 1000 ∧ 1000 * we + t.re = r.re + e ∧ t.re < 1000) ∧
    (t.ti = (r.ti + wi) % 1000000000 ∧ t.te = (r.te + we) % 1000000000) ∧
    (t.imp[b] = (r.imp[b] + wi) % 1000000000 ∧ t.exp[b] = (r.exp[b] + we) % 1000000000) ∧
    (∀ k : Fin 8, k ≠ b → t.imp[k] = r.imp[k] ∧ t.exp[k] = r.exp[k]) ∧
    { t with ri := r.ri, re := r.re, ti := r.ti, te := r.te, imp := r.imp, exp := r.exp } = r ∧
    (r.ok = true → i = 0 → t.ri = r.ri ∧ t.ti = r.ti ∧ t.imp = r.imp) ∧
    (r.ok = true → e = 0 → t.re = r.re ∧ t.te = r.te ∧ t.exp = r.exp)

/-- The band fold of R28: with a fallback band below nb, the bands at or above nb become 0, the fallback band takes
their sum modulo 10^9, the other bands stay, and no register outside the band registers changes. -/
def Sys2Proof.Claim.BandFold : Prop :=
  ∀ (nb : Nat) (fb : Fin 8) (r : RegBank), fb.val < nb →
    let above (v : Vector Nat 8) : Nat := ((List.finRange 8).map fun b => if nb ≤ b.val then v[b] else 0).sum
    let t := r.fold nb fb
    (∀ b : Fin 8, nb ≤ b.val → t.imp[b] = 0 ∧ t.exp[b] = 0) ∧
    (∀ b : Fin 8, b.val < nb → b ≠ fb → t.imp[b] = r.imp[b] ∧ t.exp[b] = r.exp[b]) ∧
    (nb < 8 → t.imp[fb] = (r.imp[fb] + above r.imp) % 1000000000 ∧
      t.exp[fb] = (r.exp[fb] + above r.exp) % 1000000000) ∧
    (8 ≤ nb → t = r) ∧
    { t with imp := r.imp, exp := r.exp } = r

/-- The two updates of the band registers: the booking of an accepted frame and the band fold at recovery. -/
def Obligations.RegisterBankUpdates : Prop := BookingFrame ∧ BandFold

/-! ### Time (chapter 3) -/

/-- What the calendar may make of an evaluation event: the evaluation, and where an activation is due also the activation
check, either first (R55, R72, R74; log 5). -/
def Sys2Proof.Claim.CalendarTakes (s t : State) : Prop :=
  (activationDue s = false → t = evalBand s) ∧
  (activationDue s = true → ∃ n, let v := { s with draws := n }
    t = checkActivation (evalBand v) ∨ t = evalBand (checkActivation v))

/-- The order of the calendar and the Settlement Unit can show: an activation is due, or one is owed (R55; log 5). -/
abbrev Sys2Proof.Claim.closeMayActivate (s : State) : Prop :=
  activationDue s = true ∨ ∃ o, s.set.owed = some o ∧ o.calFlag = true

/-- The state `t` comes of the courses `l` taken on `s` in some order, free values having been counted (log 5). -/
def Sys2Proof.Claim.SomeOrder (l : List (State → State)) (s t : State) : Prop :=
  ∃ n, ∃ order : List (State → State), order.Perm l ∧ t = order.foldl (fun u f => f u) { s with draws := n }

/-- What the owners may make of a local minute: the calendar's part; at a midnight the evaluation and then the Settlement
Unit's part, or, where a close may activate, the evaluation, the activation check and the Settlement Unit's part in any
order (R47, R55, R81; log 5, log 46). -/
def Sys2Proof.Claim.MinuteTakes (s t : State) : Prop :=
  (s.tim.localSec % 86400 ≠ 0 → CalendarTakes s t) ∧
  (s.tim.localSec % 86400 = 0 → ¬closeMayActivate s → t = localMidnight (evalBand s)) ∧
  (s.tim.localSec % 86400 = 0 → closeMayActivate s → SomeOrder [evalBand, checkActivation, localMidnight] s t)

/-- The state when the UTC second in progress has ended, the count not at its end: the run clock has passed what was
left of the second, the divider is at 0 and the count one higher (R39; log 2). -/
abbrev Sys2Proof.Claim.secondOn (s : State) : State :=
  { s with tim := { s.tim with
      runMs := s.tim.runMs + (1000 - s.tim.subMs), subMs := 0, utc := s.tim.utc + 1 } }

/-- The state after a change of the cap records to `cfg`: CAP_RECORD is raised; Ceff appearing leads to FAILSAFE when
health is LOST and fail-safe enabled, else to NORMAL; Ceff becoming absent leads to UNCAPPED; otherwise the state
stands (R106). -/
def Sys2Proof.Claim.recordsSet (cfg : CapSettings) (s : State) : State :=
  let t := raise .capRecord { s with xcc := { s.xcc with cfg := cfg } }
  let enter (x : Xcc) : State := handOn (raise .capState { t with xcc := x })
  match s.xcc.cfg.ceff, cfg.ceff with
  | none, some _ =>
    if cfg.fsEnable = true ∧ s.frx.health = .lost then
      enter { s.xcc with cfg := cfg, state := .failsafe, holdEnd := none, load := none, allowance := some cfg.fsc }
    else enter { s.xcc with cfg := cfg, state := .normal, q := 0, holdEnd := none, load := none, allowance := none }
  | some _, none =>
    enter { s.xcc with cfg := cfg, state := .uncapped, q := 0, holdEnd := none, load := none, allowance := none }
  | _, _ => t

/-- The check of the cap records against the present wall time (R105): with time VALID each record whose expiry the count
has reached is removed and the other stands, with no checkpoint; with none, or with time INVALID, nothing changes. -/
def Sys2Proof.Claim.CapExpiries : Prop :=
  ∀ s : State,
    let left (r : Option CapRecord) : Option CapRecord :=
      match r with
      | some x =>
        match x.expiry with
        | some e => if e ≤ s.tim.utc then none else some x
        | none => some x
      | none => none
    let c := s.xcc.cfg
    let due : Prop := ∃ r e, (c.util = some r ∨ c.prem = some r) ∧ r.expiry = some e ∧ e ≤ s.tim.utc
    (s.tim.valid = true → due →
      capExpiry s = recordsSet { c with util := left c.util, prem := left c.prem } s) ∧
    (s.tim.valid = false ∨ ¬due → capExpiry s = s) ∧
    (capExpiryDue s = true ↔ s.tim.valid = true ∧ due)

/-- SECOND_TICK advances the count. Outside RUN or with time INVALID nothing else happens. In RUN with time VALID the cap
records whose expiry has come are removed, and at a whole local minute the owners take the local minute, at a midnight
with the local midnight, an activation due or owed taken in any order the spec leaves open (log 5). -/
def Sys2Proof.Claim.SecondAdvances : Prop :=
  ∀ s : State, s.sup.powered = true → s.tim.utc ≠ utcMax →
    let t := secondOn s
    let u := capExpiry t
    (s.sup.supply ≠ .run ∨ s.tim.valid = false → exec .secondTick s = .next (finish t)) ∧
    (s.sup.supply = .run → s.tim.valid = true → u.tim.localSec % 60 ≠ 0 → exec .secondTick s = .next (finish u)) ∧
    (s.sup.supply = .run → s.tim.valid = true → u.tim.localSec % 60 = 0 →
      ∃ w, MinuteTakes u w ∧ exec .secondTick s = .next (finish w))

/-- The count passing 4,294,967,295 becomes 0 with time INVALID, raises TIME and flags the open period; in RUN it is
taken as a step (R39; log 28). -/
def Sys2Proof.Claim.CountEnd : Prop :=
  ∀ s : State, s.sup.powered = true → s.tim.utc = utcMax →
    let t := raise .time { s with
      tim := { s.tim with runMs := s.tim.runMs + (1000 - s.tim.subMs), subMs := 0, utc := 0, valid := false }
      reg := { s.reg with flags := { s.reg.flags with timeInvalidSeen := true } } }
    (s.sup.supply ≠ .run → exec .secondTick s = .next (finish t)) ∧
    (s.sup.supply = .run → exec .secondTick s =
      .next (finish (stepEvent false (if s.tim.valid then some (localSeconds utcMax s.tim.offset) else none) t)))

/-- SECOND_TICK with main supply present: the advance of the count with its events in RUN, and the end of the count. -/
def Obligations.SecondTick : Prop := SecondAdvances ∧ CapExpiries ∧ CountEnd

/-- SET_TIME inside 2020 to 2099 sets the count and the divider, makes time VALID, raises TIME and is taken as a step
from the wall time before; outside it answers RANGE and changes nothing. -/
def Sys2Proof.Claim.SetTime : Prop :=
  ∀ (p : Port) (t : Nat) (s : State), Serves p (.setTime t) s →
    let u := taken p 4 s
    (631152000 ≤ t ∧ t ≤ 3155759999 → exec (.setTime p t) s = .next (answered p 4 .ok (.utc t)
      (stepEvent false (if s.tim.valid then some s.tim.localSec else none)
        (raise .time { u with tim := { s.tim with utc := t, subMs := 0, valid := true } })))) ∧
    (t < 631152000 ∨ 3155759999 < t → exec (.setTime p t) s = .next (answered p 4 .range (.detail 1 0) u))

/-- SET_LOCAL_OFFSET without a value answers the offset; with a multiple of 15 in −720..+840 it stores it, with a
changed offset it raises TIME and is taken as a step, and it requests a CONFIG checkpoint; any other value is RANGE. -/
def Sys2Proof.Claim.SetLocalOffset : Prop :=
  ∀ (p : Port) (o : Option Int) (s : State), Serves p (.setLocalOffset o) s →
    let u := taken p 5 s
    (o = none → exec (.setLocalOffset p o) s = .next (answered p 5 .ok (.offset s.tim.offset) u)) ∧
    (∀ m, o = some m → -720 ≤ m ∧ m ≤ 840 ∧ m % 15 = 0 →
      (m = s.tim.offset → exec (.setLocalOffset p o) s =
        .next (answered p 5 .ok (.offset m) (requestCheckpoint .config u))) ∧
      (m ≠ s.tim.offset → exec (.setLocalOffset p o) s = .next (answered p 5 .ok (.offset m)
        (requestCheckpoint .config (stepEvent false (if s.tim.valid then some s.tim.localSec else none)
          (raise .time { u with tim := { s.tim with offset := m } })))))) ∧
    (∀ m, o = some m → ¬(-720 ≤ m ∧ m ≤ 840 ∧ m % 15 = 0) →
      exec (.setLocalOffset p o) s = .next (answered p 5 .range (.detail 1 0) u))

/-- SET_TIME and SET_LOCAL_OFFSET: what each stores, when it is a step, and what it refuses. -/
def Obligations.TimeRequests : Prop := SetTime ∧ SetLocalOffset

/-- The scheduled trigger for a billing date found, unless the retry taken first has closed that date (R81; log 43). -/
def Sys2Proof.Claim.triggerFor (d : Nat) (s : State) : State :=
  match s.tim.lastClose with
  | some l => if d ≤ l then s else trigger .scheduled (some d) s
  | none => trigger .scheduled (some d) s

/-- What the Settlement Unit may make of a step or resume event: a trigger for a billing date passed, then the retry of
an owed close; with a close owed already either of the two may be first (R82, R88, R89; log 5). -/
def Sys2Proof.Claim.SettlementTakes (resume : Bool) (earlier : Option Nat) (s t : State) : Prop :=
  let due := stepDue earlier s
  let retries := stepRetries resume earlier s
  (due = none → retries = false → t = s) ∧ (due = none → retries = true → t = retryOwed s) ∧
  (∀ d, due = some d → retries = true ∧
    (s.set.owed = none → t = retryOwed (trigger .scheduled (some d) s)) ∧
    (s.set.owed ≠ none → ∃ n, let v := { s with draws := n }
      t = retryOwed (trigger .scheduled (some d) v) ∨ t = triggerFor d (retryOwed v)))

/-- What the owners may make of a step or resume event, the cap expiries made: the evaluation, then the Settlement Unit's
part; or, where a close may activate, in any order the evaluation, the activation check, the trigger for a billing date
passed and the retry of an owed close where one is prompted (R48 to R50, R55, R82, R89; log 5, log 46). -/
def Sys2Proof.Claim.StepTakes (resume : Bool) (earlier : Option Nat) (s t : State) : Prop :=
  (¬closeMayActivate s → SettlementTakes resume earlier (evalBand s) t) ∧
  (closeMayActivate s → SomeOrder [evalBand, checkActivation,
    fun u => match stepDue earlier s with
      | some d => triggerFor d u
      | none => u,
    fun u => if stepRetries resume earlier s then retryOwed u else u] s t)

/-- A step or resume event is taken by the cap records, then by the calendar and the Settlement Unit. -/
def Sys2Proof.Claim.StepEvent : Prop :=
  ∀ (resume : Bool) (earlier : Option Nat) (s : State),
    StepTakes resume earlier (capExpiry s) (stepEvent resume earlier s)

/-- The judgement of a step or resume event: with the earlier and the present time VALID, the billing date passed, unless
it is closed or already owed; the retry at every resume event, and where a local midnight was passed, with a time INVALID
none (log 48). -/
def Sys2Proof.Claim.StepJudgement : Prop :=
  ∀ (e : Nat) (s : State),
    (∀ d, stepDue (some e) s = some d ↔ s.tim.valid = true ∧ passedBilling s.set.day e s.tim.localSec = some d ∧
      (∀ l, s.tim.lastClose = some l → l < d) ∧ ∀ o, s.set.owed = some o → o.date ≠ some d) ∧
    stepDue none s = none ∧
    (∀ earlier, stepRetries true earlier s = true) ∧ stepRetries false none s = false ∧
    (stepRetries false (some e) s = true ↔ s.tim.valid = true ∧ e / 86400 < s.tim.localSec / 86400)

/-- Dates and day numbers agree: the date of a day exists, numbers back to that day, and every date from 2000 on is the
date of its number; the day numbered 0 is Saturday 2000-01-01 and weekdays follow each other. -/
def Sys2Proof.Claim.DatesAgree : Prop :=
  (∀ n : Nat, let d := dateOf n
    2000 ≤ d.year ∧ validDate d.year d.month d.day = true ∧ dayNumber d.year d.month d.day = n) ∧
  (∀ y m d : Nat, 2000 ≤ y → validDate y m d = true → dateOf (dayNumber y m d) = ⟨y, m, d⟩) ∧
  dateOf 0 = ⟨2000, 1, 1⟩ ∧ weekdayOf 0 = 5 ∧ ∀ n : Nat, weekdayOf (n + 1) = weekdayOf n + 1

/-- Local time is the UTC count plus 60 times the offset, 0 where that is negative; the local day is its whole days and
the minute of day its minutes since then (R45). -/
def Sys2Proof.Claim.LocalTime : Prop :=
  ∀ t : Tim,
    let sum : Int := (t.utc : Int) + 60 * t.offset
    t.localSec = localSeconds t.utc t.offset ∧ (0 ≤ sum → (t.localSec : Int) = sum) ∧ (sum < 0 → t.localSec = 0) ∧
      86400 * t.localDay ≤ t.localSec ∧ t.localSec < 86400 * t.localDay + 86400 ∧
      t.localMinute = (t.localSec - 86400 * t.localDay) / 60

/-- Local time, and the dates and weekdays of its days. -/
def Obligations.DatesAndDayNumbers : Prop := LocalTime ∧ DatesAgree

/-- The billing date a forward step finds is a billing date whose midnight lies after the earlier local time and at or
before the present one, and it is the latest such date; where it finds none, none of the last 31 days is such a date. -/
def Sys2Proof.Claim.BillingDatePassed : Prop :=
  ∀ billingDay earlier present : Nat,
    (∀ d, passedBilling billingDay earlier present = some d →
      isBillingDate billingDay d = true ∧ earlier < 86400 * d ∧ 86400 * d ≤ present ∧
        ∀ e : Nat, isBillingDate billingDay e = true → 86400 * e ≤ present → e ≤ d) ∧
    (passedBilling billingDay earlier present = none → ∀ e : Nat, isBillingDate billingDay e = true →
      earlier < 86400 * e → 86400 * e ≤ present → e + 31 ≤ present / 86400)

/-- A step or resume event: the order its owners may take it in, what it finds due, and the billing date passed. -/
def Obligations.StepEvents : Prop := StepEvent ∧ StepJudgement ∧ BillingDatePassed

/-! ### Tariff calendar (chapter 4) -/

/-- Within a day profile whose minutes increase, the band is that of the switch point with the latest minute at or before
the present one, and the profile's last band before the first point. -/
def Obligations.SwitchPointInForce : Prop :=
  ∀ (l : List SwitchPoint) (m : Nat), l.Pairwise (fun a b => a.minute < b.minute) →
    (∀ x ∈ l, x.minute ≤ m → (∀ y ∈ l, y.minute ≤ m → y.minute ≤ x.minute) → bandAt l m = some x.band) ∧
    ((∀ x ∈ l, m < x.minute) → bandAt l m = l.getLast?.map SwitchPoint.band)

/-- The band in effect with its source: the fallback band while time is INVALID; the calendar band where the map entry
selected by (OV1, OV0) is CALENDAR; a forced band below nb; else the fallback band. The calendar band comes from the
special day of the full date, then of the month-day, then from the season's week. -/
def Sys2Proof.Claim.BandRule : Prop :=
  ∀ (t : Tim) (c : Cal),
    let a := c.active
    let e := c.map[c.mapIndex]
    (t.valid = false → evaluate t c = (a.fallback, .timeFallback)) ∧
    (t.valid = true → e = .calendar → evaluate t c = a.bandFor t.localDay t.localMinute) ∧
    (∀ k, t.valid = true → e = .force k → k.val < a.nb → evaluate t c = (k, .override)) ∧
    (∀ k, t.valid = true → e = .force k → a.nb ≤ k.val → evaluate t c = (a.fallback, .overrideFallback)) ∧
    (∀ day minute p points, a.specialFor (dateOf day) = some p → a.days[p] = some points →
      a.bandFor day minute = ((bandAt points minute).getD a.fallback, .specialDay)) ∧
    (∀ day minute x week points, a.specialFor (dateOf day) = none →
      a.seasonFor (dateOf day).month (dateOf day).day = some x → a.weeks[x.week] = some week →
      a.days[week[weekdayOf day]] = some points →
      a.bandFor day minute = ((bandAt points minute).getD a.fallback, .schedule)) ∧
    (c.mapIndex.val = 2 * c.lines[1].effective.toNat + c.lines[0].effective.toNat)

/-- An evaluation puts the band and its source into effect and raises BAND exactly when the band changes. -/
def Sys2Proof.Claim.EvaluationIsInEffect : Prop :=
  ∀ s : State,
    let r := evaluate s.tim s.cal
    let t := { s with cal := { s.cal with band := r.1, source := r.2 } }
    (r.1 = s.cal.band → evalBand s = t) ∧ (r.1 ≠ s.cal.band → evalBand s = raise .band t)

/-- The special day's profile: of the full date where the calendar has one, else of the recurring month-day, else none
(R57). -/
def Sys2Proof.Claim.SpecialDayRule : Prop :=
  ∀ (c : Calendar) (d : Date),
    let fullDate : SpecialDate := .full d.year d.month d.day
    let recurring : SpecialDate := .recurring d.month d.day
    (∀ (i : Fin 24) x, c.specials[i] = some x →
      (∀ (j : Fin 24) y, c.specials[j] = some y → j ≠ i → y.date ≠ x.date) →
      (x.date = fullDate → c.specialFor d = some x.profile) ∧
      (x.date = recurring → (∀ (j : Fin 24) y, c.specials[j] = some y → y.date ≠ fullDate) →
        c.specialFor d = some x.profile)) ∧
    ((∀ (j : Fin 24) y, c.specials[j] = some y → y.date ≠ fullDate ∧ y.date ≠ recurring) → c.specialFor d = none)

/-- The season in force on a month-day: the latest start at or before it; before every start, the latest start of all; and
none where there is no season (R57). -/
def Sys2Proof.Claim.SeasonRule : Prop :=
  ∀ (c : Calendar) (month day : Nat), day ≤ 31 → (∀ (i : Fin 4) x, c.seasons[i] = some x → x.day ≤ 31) →
    (∀ (i j : Fin 4) x y, c.seasons[i] = some x → c.seasons[j] = some y → (x.month, x.day) = (y.month, y.day) → i = j) →
    let upTo (x : Season) (m d : Nat) : Prop := x.month < m ∨ x.month = m ∧ x.day ≤ d
    (∀ (i : Fin 4) x, c.seasons[i] = some x →
      (upTo x month day → (∀ (j : Fin 4) y, c.seasons[j] = some y → upTo y month day → upTo y x.month x.day) →
        c.seasonFor month day = some x) ∧
      ((∀ (j : Fin 4) y, c.seasons[j] = some y → ¬upTo y month day ∧ upTo y x.month x.day) →
        c.seasonFor month day = some x)) ∧
    ((∀ j : Fin 4, c.seasons[j] = none) → c.seasonFor month day = none)

/-- The evaluation of the band in effect: which band and source, with the special day and the season that give it, and
that it is put into effect, BAND raised on a change. -/
def Obligations.BandEvaluation : Prop := BandRule ∧ SpecialDayRule ∧ SeasonRule ∧ EvaluationIsInEffect

/-- A calendar that is valid by the conditions of R53 and R69. -/
def Sys2Proof.Claim.ValidCalendar (c : Calendar) : Prop :=
  (∃ t, c.bands = some t ∧ t.fallback.val < t.entries.length ∧ (∀ e ∈ t.entries, e.rank.val < t.entries.length) ∧
    (t.entries.map BandEntry.rank).Nodup ∧
    ∀ (i : Fin 12) points, c.days[i] = some points → ∀ p ∈ points, p.band.val < t.entries.length) ∧
  (∃ (i : Fin 4) (x : Season), c.seasons[i] = some x) ∧
  (∀ (i : Fin 4) x, c.seasons[i] = some x → (c.weeks[x.week]).isSome = true ∧
    ∀ (j : Fin 4) y, c.seasons[j] = some y → j ≠ i → (y.month, y.day) ≠ (x.month, x.day)) ∧
  (∀ (i : Fin 4) w, c.weeks[i] = some w → ∀ d : Fin 7, (c.days[w[d]]).isSome = true) ∧
  (∀ (i : Fin 24) x, c.specials[i] = some x → (c.days[x.profile]).isSome = true ∧
    ∀ (j : Fin 24) y, c.specials[j] = some y → j ≠ i → y.date ≠ x.date)

/-- An entry of a calendar breaks a condition of R69, by table (BANDS 1 to SPECIAL 5) and index; what concerns a whole
table has index 0, and of two entries that repeat each other it is the higher-indexed one. -/
def Sys2Proof.Claim.failsAt (c : Calendar) (table k : Nat) : Prop :=
  match table with
  | 1 => k = 0 ∧ (c.bands = none ∨ ∃ t, c.bands = some t ∧ t.entries.length ≤ t.fallback.val) ∨
    ∃ t e, c.bands = some t ∧ t.entries[k]? = some e ∧ (t.entries.length ≤ e.rank.val ∨
      ∃ j f, j < k ∧ t.entries[j]? = some f ∧ f.rank = e.rank)
  | 2 => k = 0 ∧ (∀ i : Fin 4, c.seasons[i] = none) ∨
    ∃ (i : Fin 4) (x : Season), i.val = k ∧ c.seasons[i] = some x ∧ (c.weeks[x.week] = none ∨
      ∃ (j : Fin 4) (y : Season), j < i ∧ c.seasons[j] = some y ∧ y.month = x.month ∧ y.day = x.day)
  | 3 => ∃ (i : Fin 4) (w : Vector (Fin 12) 7), i.val = k ∧ c.weeks[i] = some w ∧ ∃ d : Fin 7, c.days[w[d]] = none
  | 4 => ∃ (i : Fin 12) (l : List SwitchPoint), i.val = k ∧ c.days[i] = some l ∧ ∃ x ∈ l, c.nb ≤ x.band.val
  | 5 => ∃ (i : Fin 24) (x : Special), i.val = k ∧ c.specials[i] = some x ∧ (c.days[x.profile] = none ∨
      ∃ (j : Fin 24) (y : Special), j < i ∧ c.specials[j] = some y ∧ y.date = x.date)
  | _ => False

/-- Whole-calendar validation answers no failure exactly for the calendars that meet every condition on the references
between tables, the ranks, and the uniqueness of starts and dates; the failure it answers is the first in the order of
R69, by table and then by index; and a valid calendar always gives a band below nb. -/
def Obligations.ValidationIsExact : Prop :=
  ∀ c : Calendar,
    (c.validate = none ↔ ValidCalendar c) ∧
    (∀ table k, c.validate = some (table, k) ↔ failsAt c table k ∧
      ∀ table' k', failsAt c table' k' → table < table' ∨ table = table' ∧ k ≤ k') ∧
    (c.validate = none → ∀ day minute, (c.bandFor day minute).1.val < c.nb)

/-- OVERRIDE_LINE_LEVEL_CHANGE with main supply present: a level that differs from the debounced state starts a debounce
of 200 ms, one that returns to it cancels it, an unchanged level changes nothing. OVERRIDE_DEBOUNCE_EXPIRY takes the
level as the debounced state at the end of a running debounce, to which run time passes (log 2), and does nothing without
one (log 3). -/
def Sys2Proof.Claim.LineEvents : Prop :=
  ∀ (i : Fin 2) (level : Bool) (s : State), s.sup.powered = true →
    let l := s.cal.lines[i]
    let with' (x : OvLine) : State := { s with cal := { s.cal with lines := s.cal.lines.set i x } }
    (level = l.level → exec (.overrideLineLevelChange i level) s = .next s) ∧
    (level ≠ l.level → level = l.debounced → exec (.overrideLineLevelChange i level) s =
      .next (with' { l with level := level, timer := none })) ∧
    (level ≠ l.level → level ≠ l.debounced → exec (.overrideLineLevelChange i level) s =
      .next (with' { l with level := level, timer := some (s.tim.runMs + 200) })) ∧
    (l.timer = none → exec (.overrideDebounceExpiry i) s = .next (finish s)) ∧
    (∀ t, l.timer = some t → exec (.overrideDebounceExpiry i) s = .next (finish
      (updLine i (fun x => { x with debounced := x.level, timer := none }) (passTo t s))))

/-- An update of an override line writes that line alone, and evaluates the band exactly when the line's effective value
changes outside STARTING. The effective value is the debounced pin with source PIN, the virtual value with VIRTUAL. -/
def Sys2Proof.Claim.OverrideChange : Prop :=
  ∀ (i : Fin 2) (f : OvLine → OvLine) (s : State),
    let l := s.cal.lines[i]
    let t := { s with cal := { s.cal with lines := s.cal.lines.set i (f l) } }
    ((f l).effective = l.effective ∨ s.sup.supply = .starting → updLine i f s = t) ∧
    ((f l).effective ≠ l.effective → s.sup.supply ≠ .starting → updLine i f s = evalBand t) ∧
    (l.source = .pin → l.effective = l.debounced) ∧ (l.source = .virtual → l.effective = l.virt)

/-- SET_OVERRIDE_SOURCE, SET_OVERRIDE and SET_OVERRIDE_MAP: what each stores and answers, the CONFIG checkpoint of each
accepted write, the read forms, and RANGE for a value above 1 and for a FORCE entry above 7 (the band byte of a CALENDAR
entry is not judged: log 45). -/
def Sys2Proof.Claim.OverrideRequests : Prop :=
  ∀ (p : Port) (s : State),
    (∀ (i : Fin 2), Serves p (.setOverrideSource i none) s → exec (.setOverrideSource p i none) s = .next
      (answered p 7 .ok (.overrideLine s.cal.lines[i].source s.cal.lines[i].debounced s.cal.lines[i].virt)
        (taken p 7 s))) ∧
    (∀ (i : Fin 2) (c : Nat), Serves p (.setOverrideSource i (some c)) s → exec (.setOverrideSource p i (some c)) s =
      .next (answered p 7 .ok .empty (requestCheckpoint .config
        (updLine i (fun l => { l with source := if c = 1 then .virtual else .pin }) (taken p 7 s))))) ∧
    (∀ (i : Fin 2) (v : Bool), Serves p (.setOverride i v.toNat) s → exec (.setOverride p i v.toNat) s =
      .next (answered p 8 .ok .empty (requestCheckpoint .config
        (updLine i (fun l => { l with virt := v }) (taken p 8 s))))) ∧
    (∀ (i : Fin 2) (v : Nat), Serves p (.setOverride i v) s → 1 < v → exec (.setOverride p i v) s =
      .next (answered p 8 .range (.detail 2 0) (taken p 8 s))) ∧
    (Serves p (.setOverrideMap none) s → exec (.setOverrideMap p none) s =
      .next (answered p 9 .ok (.overrideMap s.cal.map) (taken p 9 s))) ∧
    (∀ m : Vector RawMapEntry 4, Serves p (.setOverrideMap (some m)) s →
      ((∀ i : Fin 4, m[i].kind = 1 → m[i].band ≤ 7) → exec (.setOverrideMap p (some m)) s =
        .next (answered p 9 .ok .empty (requestCheckpoint .config (overrideChange { taken p 9 s with
          cal := { s.cal with map := Vector.ofFn fun i => RawMapEntry.entry m[i] } })))) ∧
      (∀ i : Fin 4, m[i].kind = 1 → 7 < m[i].band → (∀ j : Fin 4, j < i → m[j].kind = 1 → m[j].band ≤ 7) →
        exec (.setOverrideMap p (some m)) s = .next (answered p 9 .range (.detail 1 i) (taken p 9 s))))

/-- The override lines and the three requests on them. -/
def Obligations.OverrideLines : Prop := LineEvents ∧ OverrideChange ∧ OverrideRequests

/-- The conditions R65 to R68 put on the edits of the passive calendar. -/
def Sys2Proof.Claim.editOk (q : Request) : Prop :=
  match q with
  | .passiveBands nb fb l => 1 ≤ nb ∧ nb ≤ 8 ∧ l.length = nb ∧ fb ≤ 7 ∧ ∀ b ∈ l, b.value ≤ 1000 ∧ b.rank ≤ 7
  | .passiveSeason i x => i < 4 ∧ ∀ e, x = some e → e.week < 4 ∧ validMonthDay e.month e.day = true
  | .passiveWeek i w => i < 4 ∧ ∀ v, w = some v → ∀ d ∈ v.toList, d < 12
  | .passiveDay i d => i < 12 ∧ ∀ l, d = some l → 1 ≤ l.length ∧ l.length ≤ 8 ∧
      (∀ x ∈ l, x.minute < 1440 ∧ x.band ≤ 7) ∧ l.Pairwise (fun a b => a.minute < b.minute)
  | .passiveSpecial i x => i < 24 ∧ ∀ e, x = some e → e.profile < 12 ∧
      (e.kind = 0 → validMonthDay e.month e.day = true) ∧
      (e.kind ≠ 0 → 20 ≤ e.year ∧ e.year ≤ 99 ∧ validDate (2000 + e.year) e.month e.day = true)
  | _ => True

/-- The passive calendar `c` after an edit's own change (R63, R65 to R68). -/
def Sys2Proof.Claim.edited (q : Request) (c : Calendar) : Calendar :=
  match q with
  | .passiveClear name => Calendar.empty name
  | .passiveBands _ fb l => { c with bands := some { fallback := Fin.ofNat 8 fb, entries := l.map RawBand.entry } }
  | .passiveSeason i x => { c with seasons := c.seasons.set (Fin.ofNat 4 i) (x.map RawSeason.entry) }
  | .passiveWeek i w =>
    { c with weeks := c.weeks.set (Fin.ofNat 4 i) (w.map fun v => Vector.ofFn fun j => Fin.ofNat 12 v[j]) }
  | .passiveDay i d => { c with days := c.days.set (Fin.ofNat 12 i) (d.map fun l => l.map RawPoint.entry) }
  | .passiveSpecial i x => { c with specials := c.specials.set (Fin.ofNat 24 i) (x.map RawSpecial.entry) }
  | _ => c

/-- A request is one of the six edits of the passive calendar. -/
def Sys2Proof.Claim.isEdit (q : Request) : Bool :=
  match q with
  | .passiveClear _ | .passiveBands _ _ _ | .passiveSeason _ _ | .passiveWeek _ _ | .passiveDay _ _
  | .passiveSpecial _ _ => true
  | _ => false

/-- The index a passive edit of one entry names. -/
def Sys2Proof.Claim.editIndex (q : Request) : Option Nat :=
  match q with
  | .passiveSeason i _ | .passiveWeek i _ | .passiveDay i _ | .passiveSpecial i _ => some i
  | _ => none

/-- PASSIVE_CLEAR, PASSIVE_BANDS, PASSIVE_SEASON, PASSIVE_WEEK, PASSIVE_DAY and PASSIVE_SPECIAL within their own limits
answer OK and leave the edited passive calendar with the common effects of R64; with the passive calendar absent all but
PASSIVE_CLEAR answer STATE, also where they are outside their limits (log 53); outside their limits they answer RANGE and edit nothing, the detail naming the table and the
entry (of the bands the first one out of range, and 0 for the header: log 19). A recurring special day's year byte is not judged (log 45). -/
def Sys2Proof.Claim.EditRequests : Prop :=
  ∀ (i : Instr) (p : Port) (q : Request) (s : State), i.request = some (p, q) → isEdit q = true → Serves p q s →
    let u := taken p (Request.code q) s
    (Request.code q = 10 → exec i s =
      .next (answered p 10 .ok .empty (passiveEdit (edited q s.cal.active) u))) ∧
    (Request.code q ≠ 10 → s.cal.passive = none →
      exec i s = .next (answered p (Request.code q) .state .empty u)) ∧
    (∀ c, Request.code q ≠ 10 → s.cal.passive = some c → editOk q →
      exec i s = .next (answered p (Request.code q) .ok .empty (passiveEdit (edited q c) u))) ∧
    (s.cal.passive ≠ none → ¬editOk q →
      let range (k : Nat) : Prop :=
        exec i s = .next (answered p (Request.code q) .range (.detail (Request.code q - 10) k) u)
      (∀ k, editIndex q = some k → range k) ∧
      (∀ nb fb l, q = .passiveBands nb fb l →
        let header : Prop := 1 ≤ nb ∧ nb ≤ 8 ∧ l.length = nb ∧ fb ≤ 7
        let fine (k : Nat) : Prop := ∀ b, l[k]? = some b → b.value ≤ 1000 ∧ b.rank ≤ 7
        (¬header → range 0) ∧ (∀ k, header → ¬fine k → (∀ j, j < k → fine j) → range k)))

/-- The common effects of a passive edit: the passive calendar as given, no activation time, not persisted, an owed
activation cancelled with its close still owed, image writes of the passive calendar that wait dropped, one granted as a
write of the passive calendar marked edited, and a CONFIG checkpoint when anything persistent changed. -/
def Sys2Proof.Claim.PassiveEditEffects : Prop :=
  ∀ (c : Calendar) (s : State),
    let owed := s.set.owed.map fun o => { o with calFlag := false }
    let t := { s with
      cal := { s.cal with passive := some c, activation := none, persisted := false }
      set := { s.set with owed := owed }
      hst := { s.hst with
        calWaiting := s.hst.calWaiting.filter CalWrite.ofActive
        calJob := s.hst.calJob.map fun j => if j.grantedActive then j else { j with edited := true } } }
    (s.cal.activation = none ∧ s.cal.persisted = false ∧ s.set.owed = owed → passiveEdit c s = t) ∧
    (s.cal.activation ≠ none ∨ s.cal.persisted = true ∨ s.set.owed ≠ owed →
      passiveEdit c s = requestCheckpoint .config t)

/-- The six edits of the passive calendar: what each answers and stores, and the common effects of R64. -/
def Obligations.PassiveEdits : Prop := EditRequests ∧ PassiveEditEffects

/-- The local day and minute of a date-time as carried (R70). -/
abbrev Sys2Proof.Claim.activationAt (t : RawDateTime) : ActTime :=
  { day := dayNumber (2000 + t.year) t.month t.day, minute := t.minute }

/-- PASSIVE_ACTIVATE_AT: RANGE for a time that does not exist or lies outside 2020 to 2099, STATE without a passive
calendar, RANGE with table and index where validation fails; otherwise the time is set, an owed activation cancelled,
the image write (or, with an image written, a CONFIG checkpoint) requested, and the activation check made at once. -/
def Sys2Proof.Claim.PassiveActivateAt : Prop :=
  ∀ (p : Port) (t : RawDateTime) (s : State), Serves p (.passiveActivateAt t) s →
    let u := taken p 16 s
    (RawDateTime.ok t = true ↔ 20 ≤ t.year ∧ t.year ≤ 99 ∧ validDate (2000 + t.year) t.month t.day = true ∧
      t.minute < 1440) ∧
    (RawDateTime.ok t = false → exec (.passiveActivateAt p t) s = .next (answered p 16 .range (.detail 1 0) u)) ∧
    (RawDateTime.ok t = true → s.cal.passive = none →
      exec (.passiveActivateAt p t) s = .next (answered p 16 .state .empty u)) ∧
    (∀ c table index, RawDateTime.ok t = true → s.cal.passive = some c → c.validate = some (table, index) →
      exec (.passiveActivateAt p t) s = .next (answered p 16 .range (.detail table index) u)) ∧
    (∀ c, RawDateTime.ok t = true → s.cal.passive = some c → c.validate = none → s.activationOwed = false →
      let v := { u with cal := { s.cal with activation := some (activationAt t) } }
      exec (.passiveActivateAt p t) s = .next (answered p 16 .ok .empty (checkActivation
        (if s.cal.persisted then requestCheckpoint .config v else requestImage v)))) ∧
    (∀ c o, RawDateTime.ok t = true → s.cal.passive = some c → c.validate = none → s.set.owed = some o →
      o.calFlag = true →
      let v := requestCheckpoint .config { u with
        cal := { s.cal with activation := some (activationAt t) }
        set := { s.set with owed := some { o with calFlag := false } } }
      exec (.passiveActivateAt p t) s = .next (answered p 16 .ok .empty (checkActivation
        (if s.cal.persisted then requestCheckpoint .config v else requestImage v))))

/-- PASSIVE_ACTIVATE_NOW: STATE without a passive calendar, RANGE where validation fails; otherwise the activation time
is cleared, the image write requested unless one was written, and a CALENDAR trigger made: OK where the close was
performed, DEFERRED where it is owed. -/
def Sys2Proof.Claim.PassiveActivateNow : Prop :=
  ∀ (p : Port) (s : State), Serves p .passiveActivateNow s →
    let u := taken p 17 s
    (s.cal.passive = none → exec (.passiveActivateNow p) s = .next (answered p 17 .state .empty u)) ∧
    (∀ c table index, s.cal.passive = some c → c.validate = some (table, index) →
      exec (.passiveActivateNow p) s = .next (answered p 17 .range (.detail table index) u)) ∧
    (∀ c, s.cal.passive = some c → c.validate = none →
      let v := { u with cal := { s.cal with activation := none } }
      let w := trigger .calendar none (if s.cal.persisted then v else requestImage v)
      (w.set.owed = none → exec (.passiveActivateNow p) s = .next (answered p 17 .ok .empty w)) ∧
      (w.set.owed ≠ none → exec (.passiveActivateNow p) s = .next (answered p 17 .deferred .empty w)))

/-- The activation within a close: the passive calendar becomes the active one and the passive calendar is absent, the
designation names the passive calendar's image sector, the band is evaluated under the new calendar, CALENDAR is raised
and a checkpoint requested, and the image writes become writes of the active calendar. With no passive calendar there is
nothing to activate. -/
def Sys2Proof.Claim.ActivationSwaps : Prop :=
  ∀ s : State,
    (s.cal.passive = none → activate s = s) ∧
    (∀ c, s.cal.passive = some c →
      activate s = requestCheckpoint .calendar (raise .calendar (evalBand { s with
        cal := { s.cal with
          active := c, passive := none, designation := some s.cal.passiveAt, imageHeld := s.cal.persisted,
          persisted := false }
        hst := { s.hst with
          calWaiting := s.hst.calWaiting.map fun w => { w with ofActive := true }
          calJob := s.hst.calJob.map fun j => { j with ofActive := true } } })))

/-- The activation check: due where time is VALID and the local minute has reached the activation time, which then becomes
absent while a CALENDAR trigger is made; otherwise nothing happens (R72, R74). -/
def Sys2Proof.Claim.ActivationCheck : Prop :=
  ∀ s : State,
    (activationDue s = true ↔ s.tim.valid = true ∧ ∃ a, s.cal.activation = some a ∧
      a.day * 1440 + a.minute ≤ s.tim.localSec / 60) ∧
    (activationDue s = false → checkActivation s = s) ∧
    (activationDue s = true →
      checkActivation s = trigger .calendar none { s with cal := { s.cal with activation := none } })

/-- The request of an image write goes to the sector not designated for the active calendar, or 10 when none is; it
replaces a write waiting for that sector, else joins the list, and ends at once while the area is FAILED (R71, R153). -/
def Sys2Proof.Claim.ImageRequest : Prop :=
  ∀ s : State,
    let k := if s.cal.designation = some 10 then 11 else 10
    let placed (l : List CalWrite) : State :=
      { s with cal := { s.cal with passiveAt := k }, hst := { s.hst with calWaiting := l } }
    let w : CalWrite := { sector := k, ofActive := false }
    (s.hst.calFailed = true → requestImage s = placed s.hst.calWaiting) ∧
    (s.hst.calFailed = false → (∀ x ∈ s.hst.calWaiting, x.sector ≠ k) →
      requestImage s = placed (s.hst.calWaiting ++ [w])) ∧
    (∀ pre x post, s.hst.calFailed = false → s.hst.calWaiting = pre ++ x :: post → x.sector = k →
      (∀ y ∈ pre ++ post, y.sector ≠ k) → requestImage s = placed (pre ++ w :: post))

/-- PASSIVE_ACTIVATE_AT, PASSIVE_ACTIVATE_NOW, the activation check, the image write, and the activation within a close. -/
def Obligations.CalendarActivation : Prop :=
  PassiveActivateAt ∧ PassiveActivateNow ∧ ActivationCheck ∧ ImageRequest ∧ ActivationSwaps

/-! ### Billing periods and settlement (chapter 5) -/

/-- In every settlement the carried credit plus the earned credit equals the applied total plus the credit carried out
plus the forfeit, and the credit carried out does not exceed the credit cap. -/
def Obligations.SettlementBalances : Prop :=
  ∀ (mode : SetMode) (c : Calendar) (imp exp : Vector Nat 8) (credit cap : Nat),
    let x := settle mode c imp exp credit cap
    credit + x.earned = x.applied + x.creditOut + x.forfeit ∧ x.creditOut ≤ cap

/-- TOTAL mode: the figures from the net import of the whole period, the per-band figures of the bands below nb, and no
per-band billable; the pool that remains is divided by the credit cap. -/
def Obligations.TotalModeFigures : Prop :=
  ∀ (c : Calendar) (imp exp : Vector Nat 8) (C K : Nat),
    let bands := (List.finRange 8).filter fun b => decide (b.val < c.nb)
    let sumI := (bands.map fun b => imp[b]).sum
    let sumE := (bands.map fun b => exp[b]).sum
    let N : Int := (sumI : Int) - sumE
    let x := settle .total c imp exp C K
    (x.bands = bands.map fun b => { imp := imp[b], exp := exp[b], billable := none }) ∧
    (0 ≤ N → x.earned = 0 ∧ (x.applied : Int) = min (C : Int) N ∧ (x.billable : Int) = N - x.applied ∧
      x.creditOut = min (C - x.applied) K ∧ x.forfeit = C - x.applied - x.creditOut) ∧
    (N < 0 → (x.earned : Int) = -N ∧ x.applied = 0 ∧ x.billable = 0 ∧
      x.creditOut = min (C + x.earned) K ∧ x.forfeit = C + x.earned - x.creditOut)

/-- BANDED mode, in closed form: each band with surplus earns its surplus times its value factor div 1,000; with no
offset rank twice, each band with net import is applied what the pool holds beyond the net imports of the bands
of lower rank, so credit reaches the lowest rank first, and is billed the rest. -/
def Obligations.BandedModeFigures : Prop :=
  ∀ (c : Calendar) (t : BandTable) (imp exp : Vector Nat 8) (C K : Nat), c.bands = some t → t.entries.length ≤ 8 →
    (t.entries.map BandEntry.rank).Nodup →
    let bands := (List.finRange 8).filter fun b => decide (b.val < t.entries.length)
    let rank (b : Fin 8) : Nat := match t.entries[b.val]? with
      | some e => e.rank.val
      | none => 8
    let net (b : Fin 8) : Nat := imp[b] - exp[b]
    let earn (b : Fin 8) : Nat := (exp[b] - imp[b]) * valueOf t.entries b / 1000
    let pool := C + (bands.map earn).sum
    let before (b : Fin 8) : Nat := ((bands.filter fun k => decide (rank k < rank b)).map net).sum
    let billable (b : Fin 8) : Nat := net b - min (net b) (pool - before b)
    let x := settle .banded c imp exp C K
    x.earned = (bands.map earn).sum ∧
    (x.bands = bands.map fun b => { imp := imp[b], exp := exp[b], billable := some (billable b) }) ∧
    x.billable = (bands.map billable).sum ∧ x.applied = min pool ((bands.map net).sum) ∧
    x.creditOut = min (pool - x.applied) K ∧ x.forfeit = pool - x.applied - x.creditOut

/-- A slot is free when it is BLANK and no pending entry is bound to it. The candidate is the first free slot behind the
write pointer in the current sector, or slot 0 of an all-BLANK next sector where the current one has none. The margin
counts the free slots behind the candidate in its sector, and 16 more where the sector after it is all BLANK (R144). -/
def Sys2Proof.Claim.CandidateRule : Prop :=
  ∀ h : Hst,
    let next (x : Nat) : Prop := h.nextLog x ≠ x ∧ Store.sectorBlank h.store (h.nextLog x) = true
    let noneAhead : Prop := ∀ j, h.writePtr < j → j / 16 = h.curLog → h.free j = false
    (∀ k, h.free k = true ↔ Store.at h.store k = none ∧ ∀ e ∈ h.queue, e.slot ≠ k) ∧
    (∀ k, h.writePtr < k → k / 16 = h.curLog → h.free k = true →
      (∀ j, h.writePtr < j → j < k → j / 16 = h.curLog → h.free j = false) → h.candidate = some k) ∧
    (noneAhead → next h.curLog → h.candidate = some (16 * h.nextLog h.curLog)) ∧
    (noneAhead → ¬next h.curLog → h.candidate = none) ∧
    (∀ k, (next (k / 16) → h.margin k = (h.freeAfter k (k / 16)).length + 16) ∧
      (¬next (k / 16) → h.margin k = (h.freeAfter k (k / 16)).length)) ∧
    (∀ k x j, j ∈ h.freeAfter k x ↔ k < j ∧ j / 16 = x ∧ h.free j = true) ∧ ∀ k x, (h.freeAfter k x).Nodup

/-- The next sector of a ring is the first behind a sector, in ring order, that is not retired, and the sector itself
where the others all are (R143, R144, R151, R160). -/
def Sys2Proof.Claim.NextSectorRule : Prop :=
  ∀ (h : Hst) (first len x n : Nat), first ≤ x → x < first + len → 1 ≤ n → n ≤ len →
    let behind (m : Nat) : Nat := first + (x - first + m) % len
    (∀ m, 1 ≤ m → m < n → behind m ∈ h.retired) →
    (behind n ∉ h.retired → h.nextSector first len x = behind n) ∧
    (n = len → behind n ∈ h.retired → h.nextSector first len x = x) ∧
    h.nextLog x = h.nextSector 4 6 x ∧ h.nextRing x = h.nextSector 0 4 x

/-- The log pre-erase enters the next sector in the ERASE list, once and not while under erase (log 22), where it is not
all BLANK and the current sector has at most 4 free slots ahead of the write pointer; otherwise it changes nothing
(R148). -/
def Sys2Proof.Claim.LogPreErase : Prop :=
  ∀ h : Hst,
    let next := h.nextLog h.curLog
    let due : Prop := (h.freeAfter h.writePtr h.curLog).length ≤ 4 ∧ Store.sectorBlank h.store next = false ∧
      next ≠ h.curLog ∧ next ∉ h.eraseList ∧ h.suspended ≠ some next ∧ h.engine ≠ .erase next
    (due → h.judgeLogPreErase = { h with eraseList := h.eraseList ++ [next] }) ∧ (¬due → h.judgeLogPreErase = h)

/-- A reservation is granted, of the candidate, exactly where fewer than 2 snapshots are pending, the log area is not
FAILED, and there is a candidate with a margin of at least 3. -/
def Sys2Proof.Claim.GrantRule : Prop :=
  ∀ (h : Hst) (k : Nat), h.grant = some k ↔
    h.queue.length < 2 ∧ h.logFailed = false ∧ h.candidate = some k ∧ 3 ≤ h.margin k

/-- The reservation of a log slot: the candidate, its margin, the grant, the next sector, and the log pre-erase. -/
def Obligations.ReservationRule : Prop := CandidateRule ∧ GrantRule ∧ NextSectorRule ∧ LogPreErase

/-- A close can be performed now in slot `k`: RUN, no RESTART, the period number below its last, a slot granted (R85). -/
abbrev Sys2Proof.Claim.closable (k : Nat) (s : State) : Prop :=
  s.sup.supply = .run ∧ s.sup.restarting = false ∧ s.reg.period < periodMax ∧ s.hst.grant = some k

/-- A trigger merges into a close already owed, keeping its first reason, counting up to 65,535, owing an activation with
CALENDAR, and keeping the later date; else it is performed where a close can be; else it is owed. Only a performed close
raises no CLOSE_DEFERRED (R84 to R87, R90). -/
def Sys2Proof.Claim.TriggerRule : Prop :=
  ∀ (r : Reason) (date : Option Nat) (s : State),
    let deferred (o : Owed) : State := raise .closeDeferred { s with set := { s.set with owed := some o } }
    (∀ k, s.set.owed = none → closable k s → trigger r date s =
      performClose { reason := r, merged := 1, date := date, activates := decide (r = .calendar) } k s) ∧
    (s.set.owed = none → (∀ k, ¬closable k s) →
      trigger r date s = deferred { first := r, count := 1, calFlag := decide (r = .calendar), date := date }) ∧
    (∀ o, s.set.owed = some o → trigger r date s = deferred
      { first := o.first, count := min 65535 (o.count + 1), calFlag := o.calFlag || decide (r = .calendar),
        date := match o.date, date with
          | some a, some b => some (max a b)
          | some a, none => some a
          | none, b => b })

/-- The retry of an owed close performs it, with its first reason, count, date and activation, where a close can be
performed, and otherwise changes nothing (R88). -/
def Sys2Proof.Claim.RetryRule : Prop :=
  ∀ s : State,
    (s.set.owed = none ∨ (∀ k, ¬closable k s) → retryOwed s = s) ∧
    (∀ o k, s.set.owed = some o → closable k s → retryOwed s =
      performClose { reason := o.first, merged := o.count, date := o.date, activates := o.calFlag } k s)

/-- A local midnight triggers a SCHEDULED close for the local date where it is a billing date that is neither closed nor
already owed, and then retries an owed close (R81, R88). -/
def Sys2Proof.Claim.MidnightRule : Prop :=
  ∀ s : State,
    let day := s.tim.localSec / 86400
    let due : Prop := s.set.day ≠ 0 ∧ (dateOf day).day = s.set.day ∧ (∀ l, s.tim.lastClose = some l → l < day) ∧
      ∀ o, s.set.owed = some o → o.date ≠ some day
    (due → localMidnight s = retryOwed (trigger .scheduled (some day) s)) ∧ (¬due → localMidnight s = retryOwed s)

/-- Close triggers of every reason, the retry of an owed close, and the judgement of a local midnight. -/
def Obligations.TriggersAndRetries : Prop := TriggerRule ∧ RetryRule ∧ MidnightRule

/-- CLOSE_PERIOD: RANGE with no close at the last period number; performed at once where no close is owed and a slot is
granted, with the number of the period closed; else DEFERRED with the owed-close record, new or merged. -/
def Sys2Proof.Claim.ClosePeriod : Prop :=
  ∀ (p : Port) (s : State), Serves p .closePeriod s →
    let u := taken p 20 s
    (s.reg.period = periodMax → exec (.closePeriod p) s = .next (answered p 20 .range (.detail 0 0) u)) ∧
    (∀ k, s.reg.period < periodMax → s.sup.restarting = false → s.set.owed = none → s.hst.grant = some k →
      exec (.closePeriod p) s = .next (answered p 20 .ok (.closed s.reg.period)
        (performClose { reason := .commanded, merged := 1, date := none, activates := false } k u))) ∧
    (s.reg.period < periodMax → s.set.owed = none → s.sup.restarting = true ∨ s.hst.grant = none →
      let o : Owed := { first := .commanded, count := 1, calFlag := false, date := none }
      exec (.closePeriod p) s = .next (answered p 20 .deferred (.owedClose o)
        (raise .closeDeferred { u with set := { s.set with owed := some o } }))) ∧
    (∀ o, s.reg.period ≠ periodMax → s.set.owed = some o →
      let m : Owed := { o with count := min 65535 (o.count + 1) }
      exec (.closePeriod p) s = .next (answered p 20 .deferred (.owedClose m)
        (raise .closeDeferred { u with set := { s.set with owed := some m } })))

/-- The eight stages of a close: the snapshot of the period, with the settlement's figures, joins the pending queue in its
slot, the write pointer moves there and the log pre-erase is judged; the new period opens with the settlement's credit,
the band registers and counters at 0 and the totals as opening values, residues and totals standing; an activation the
close carries is made; PERIOD_CLOSED is raised, a SCHEDULED close sets the last scheduled close date, and no close is
owed. -/
def Obligations.CloseEffects : Prop :=
  ∀ (o : CloseOrder) (k : Nat) (s : State),
    let x := settle s.set.mode s.cal.active s.reg.imp s.reg.exp s.reg.credit s.set.cap
    let now := if s.tim.valid then some s.tim.utc else none
    let snap : Snapshot :=
      { number := s.reg.period, reason := o.reason, merged := o.merged, openTime := s.reg.openTime, closeTime := now,
        calName := s.cal.active.name, mode := s.set.mode, bands := x.bands, billable := x.billable,
        applied := x.applied, creditIn := s.reg.credit, creditOut := x.creditOut, forfeit := x.forfeit,
        ti := s.reg.ti, te := s.reg.te, billingDate := if o.reason = .scheduled then o.date else none,
        flags := s.reg.flags, counters := s.frx.counters }
    let queued : Hst := { s.hst with
      writePtr := k, curLog := k / 16, queue := s.hst.queue ++ [{ snap := snap, slot := k, fails := 0 }] }
    let opened : State := { s with
      hst := queued.judgeLogPreErase
      reg := { s.reg with
        credit := x.creditOut, forfeit := (s.reg.forfeit + x.forfeit) % 1000000000, imp := .replicate 8 0,
        exp := .replicate 8 0, tiOpen := s.reg.ti, teOpen := s.reg.te, period := s.reg.period + 1, openTime := now,
        flags := { PeriodFlags.clear with frameLossSeen := s.frx.lostSeen, timeInvalidSeen := !s.tim.valid } }
      frx := { s.frx with counters := .zero } }
    let t := if o.activates then activate opened else opened
    performClose o k s = raise .periodClosed { t with
      tim := if o.reason = .scheduled then { s.tim with lastClose := o.date } else s.tim
      set := { s.set with owed := none } }

/-- SET_SETTLEMENT: RANGE for a cap above 999,999,999 or a billing day above 28; otherwise each field present is stored
and the settings in force answered, with a CONFIG checkpoint when any was present. -/
def Sys2Proof.Claim.SetSettlement : Prop :=
  ∀ (p : Port) (mode cap day : Option Nat) (s : State), Serves p (.setSettlement mode cap day) s →
    let u := taken p 19 s
    let set := { s.set with
      mode := match mode with
        | some m => if m = 1 then .banded else .total
        | none => s.set.mode
      cap := cap.getD s.set.cap
      day := day.getD s.set.day }
    let a : Answer := .settlement set.mode set.cap set.day
    (∀ c, cap = some c → 999999999 < c →
      exec (.setSettlement p mode cap day) s = .next (answered p 19 .range (.detail 2 0) u)) ∧
    (∀ d, (∀ c, cap = some c → c ≤ 999999999) → day = some d → 28 < d →
      exec (.setSettlement p mode cap day) s = .next (answered p 19 .range (.detail 3 0) u)) ∧
    ((∀ c, cap = some c → c ≤ 999999999) → (∀ d, day = some d → d ≤ 28) →
      (mode = none ∧ cap = none ∧ day = none →
        exec (.setSettlement p mode cap day) s = .next (answered p 19 .ok a u)) ∧
      (mode ≠ none ∨ cap ≠ none ∨ day ≠ none → exec (.setSettlement p mode cap day) s =
        .next (answered p 19 .ok a (requestCheckpoint .config { u with set := set }))))

/-- CLOSE_PERIOD and SET_SETTLEMENT. -/
def Obligations.SettlementRequests : Prop := ClosePeriod ∧ SetSettlement

/-! ### Export cap control (chapter 6) -/

/-- The export power of a site sum: (−S × 144) / 10 truncated toward zero, within ±88,430 W over the site sums of a
frame, with the rows of R109's table. -/
def Sys2Proof.Claim.ExportPower : Prop :=
  (∀ S : Int, S ≤ 0 → exportPower S = -S * 144 / 10) ∧ (∀ S : Int, 0 ≤ S → exportPower S = -(S * 144 / 10)) ∧
  (∀ S : Int, -6141 ≤ S → S ≤ 6141 → -88430 ≤ exportPower S ∧ exportPower S ≤ 88430) ∧
  exportPower (-623) = 8971 ∧ exportPower 623 = -8971 ∧ exportPower (-1) = 14 ∧ exportPower 1 = -14 ∧
  exportPower (-6141) = 88430 ∧ exportPower 0 = 0

/-- The qualification counter at a frame: up by one above Ceff, stopping at T, held from Ceff − H to Ceff, down by one
below, stopping at 0; it stays within 0..T. -/
def Sys2Proof.Claim.Qualification : Prop :=
  ∀ (xs : Int) (ceff h t q : Nat), q ≤ t →
    ((ceff : Int) < xs → qualify xs ceff h t q = min t (q + 1)) ∧
    ((ceff : Int) - h ≤ xs → xs ≤ ceff → qualify xs ceff h t q = q) ∧
    (xs < (ceff : Int) - h → qualify xs ceff h t q = q - 1) ∧ qualify xs ceff h t q ≤ t

/-- The effective cap is absent without a record, and otherwise the smallest limit of the records present with the
hysteresis of that record, or the larger hysteresis where the limits are equal. -/
def Sys2Proof.Claim.EffectiveCap : Prop :=
  ∀ c : CapSettings,
    (c.util = none ∧ c.prem = none → c.ceff = none) ∧
    (∀ r, (c.util = some r ∧ c.prem = none) ∨ (c.util = none ∧ c.prem = some r) → c.ceff = some (r.limit, r.hyst)) ∧
    (∀ u p, c.util = some u → c.prem = some p → c.ceff = some (min u.limit p.limit,
      if u.limit = p.limit then max u.hyst p.hyst else if u.limit < p.limit then u.hyst else p.hyst))

/-- The arithmetic of the export cap: the export power of R109, the qualification counter of R110, Ceff of R106. -/
def Obligations.CapArithmetic : Prop := ExportPower ∧ Qualification ∧ EffectiveCap

/-- An accepted frame in the Export Cap Controller: its export power is recorded in every state; in NORMAL the state goes
to CURTAILING exactly when Q reaches T, with a hold and an allowance; in CURTAILING it goes to NORMAL when the hold has
expired and Q is 0, and otherwise forms the allowance min(Ceff + L, 100,000) with L = max(0, G − Xs) and hands it on, G being
the outputs last reported by the enabled units that are ONLINE or OFFLINE. -/
def Sys2Proof.Claim.CapFrame : Prop :=
  ∀ (S : Int) (s : State),
    let xs := exportPower S
    let x := { s.xcc with lastXs := some xs }
    let output (i : Fin 4) : Nat :=
      let u := s.ulc.units[i]
      match u.last with
      | some r => if u.cfg.enable = true ∧ (u.link = .online ∨ u.link = .offline) then r.output else 0
      | none => 0
    let load := (((output 0 + output 1 + output 2 + output 3 : Nat) : Int) - xs).toNat
    (s.xcc.state = .uncapped ∨ s.xcc.state = .failsafe → capFrame S s = { s with xcc := x }) ∧
    (∀ limit hyst, s.xcc.cfg.ceff = some (limit, hyst) →
      let q := qualify xs limit hyst s.xcc.cfg.trip s.xcc.q
      let a := min (limit + load) 100000
      (s.xcc.state = .normal → q ≠ s.xcc.cfg.trip → capFrame S s = { s with xcc := { x with q := q } }) ∧
      (s.xcc.state = .normal → q = s.xcc.cfg.trip → capFrame S s =
        handOn (raise .capState { s with xcc := { x with
          q := q, state := .curtailing, holdEnd := some (s.tim.runMs + 1000 * s.xcc.cfg.hold), load := some load,
          allowance := some a } })) ∧
      (∀ t, s.xcc.state = .curtailing → s.xcc.holdEnd = some t → s.tim.runMs < t ∨ q ≠ 0 →
        capFrame S s = handOn { s with xcc := { x with q := q, load := some load, allowance := some a } }) ∧
      (∀ t, s.xcc.state = .curtailing → s.xcc.holdEnd = some t → t ≤ s.tim.runMs → q = 0 →
        capFrame S s = handOn (raise .capState { s with xcc := { x with
          q := 0, state := .normal, holdEnd := none, load := none, allowance := none } })))

/-- Entry to LOST with a cap present and fail-safe enabled takes NORMAL and CURTAILING to FAILSAFE with the fail-safe cap
as allowance and Q kept; health LOCKED takes FAILSAFE to CURTAILING with Q = T, a fresh hold and the allowance kept;
both raise CAP_STATE and hand the result on. In every other state these changes of health change nothing. -/
def Sys2Proof.Claim.FailsafeEntryAndEnd : Prop :=
  ∀ s : State,
    let c := s.xcc.cfg
    (c.fsEnable = true → c.ceff ≠ none → s.xcc.state = .normal ∨ s.xcc.state = .curtailing →
      capHealth .lost s = handOn (raise .capState { s with xcc := { s.xcc with
        state := .failsafe, holdEnd := none, load := none, allowance := some c.fsc } })) ∧
    (c.fsEnable = false ∨ c.ceff = none ∨ s.xcc.state = .uncapped ∨ s.xcc.state = .failsafe →
      capHealth .lost s = s) ∧
    (s.xcc.state = .failsafe → capHealth .locked s = handOn (raise .capState { s with xcc := { s.xcc with
      state := .curtailing, q := c.trip, holdEnd := some (s.tim.runMs + 1000 * c.hold), load := none } })) ∧
    (s.xcc.state ≠ .failsafe → capHealth .locked s = s)

/-- The curtailment states at an accepted frame and at a change of frame health. -/
def Obligations.CurtailmentTransitions : Prop := CapFrame ∧ FailsafeEntryAndEnd

/-- SET_UTILITY_CAP, SET_PREMISES_CAP, CLEAR_UTILITY_CAP and CLEAR_PREMISES_CAP: RANGE for an expiry outside 2020 to 2099
or, with time VALID, not after the present count; otherwise the record is stored with limit and hysteresis brought down
to 60,000 and 5,000 and the set time, each clamp reported; a clear says whether no record was present (log 44) and changes
nothing then; every change of a record requests a CONFIG checkpoint. -/
def Sys2Proof.Claim.CapRecordRequests : Prop :=
  ∀ (p : Port) (limit hyst : Nat) (expiry : Option Nat) (s : State),
    let r : CapRecord := { limit := min 60000 limit, hyst := min 5000 hyst, expiry := expiry,
                           setTime := if s.tim.valid then some s.tim.utc else none }
    let a : Answer := .capRecord r (decide (60000 < limit)) (decide (5000 < hyst))
    let good : Prop := ∀ e, expiry = some e → 631152000 ≤ e ∧ e ≤ 3155759999 ∧ (s.tim.valid = true → s.tim.utc < e)
    let set (cfg : CapSettings) (code : Nat) := requestCheckpoint .config (recordsSet cfg (taken p code s))
    (Serves p (.setUtilityCap limit hyst expiry) s →
      (good → exec (.setUtilityCap p limit hyst expiry) s =
        .next (answered p 21 .ok a (set { s.xcc.cfg with util := some r } 21))) ∧
      (¬good → exec (.setUtilityCap p limit hyst expiry) s =
        .next (answered p 21 .range (.detail 3 0) (taken p 21 s)))) ∧
    (Serves p (.setPremisesCap limit hyst expiry) s →
      (good → exec (.setPremisesCap p limit hyst expiry) s =
        .next (answered p 23 .ok a (set { s.xcc.cfg with prem := some r } 23))) ∧
      (¬good → exec (.setPremisesCap p limit hyst expiry) s =
        .next (answered p 23 .range (.detail 3 0) (taken p 23 s)))) ∧
    (Serves p .clearUtilityCap s →
      (s.xcc.cfg.util = none → exec (.clearUtilityCap p) s =
        .next (answered p 22 .ok (.capCleared true) (taken p 22 s))) ∧
      (s.xcc.cfg.util ≠ none → exec (.clearUtilityCap p) s =
        .next (answered p 22 .ok (.capCleared false) (set { s.xcc.cfg with util := none } 22)))) ∧
    (Serves p .clearPremisesCap s →
      (s.xcc.cfg.prem = none → exec (.clearPremisesCap p) s =
        .next (answered p 24 .ok (.capCleared true) (taken p 24 s))) ∧
      (s.xcc.cfg.prem ≠ none → exec (.clearPremisesCap p) s =
        .next (answered p 24 .ok (.capCleared false) (set { s.xcc.cfg with prem := none } 24))))

/-- SET_CAP_CONTROL: with an enable flag that is neither clear nor set it answers RANGE; with no field present it only
answers; otherwise it stores each field present brought into its range, brings Q down to a lowered T, hands a changed
fail-safe cap on in FAILSAFE, enters FAILSAFE where fail-safe is switched on in LOST, requests a CONFIG checkpoint and
answers the settings in force with what was clamped. -/
def Sys2Proof.Claim.SetCapControl : Prop :=
  ∀ (p : Port) (fsc enable trip hold : Option Nat) (s : State), Serves p (.setCapControl fsc enable trip hold) s →
    let u := taken p 25 s
    let old := s.xcc.cfg
    let cfg := { old with
      fsc := (fsc.map (min 60000)).getD old.fsc
      fsEnable := match enable with
        | some n => n == 1
        | none => old.fsEnable
      trip := (trip.map fun n => max 1 (min 255 n)).getD old.trip
      hold := (hold.map (min 3600)).getD old.hold }
    let stored := { u with xcc := { s.xcc with cfg := cfg, q := min s.xcc.q cfg.trip } }
    let moved : State :=
      if s.xcc.state = .failsafe ∧ cfg.fsc ≠ old.fsc then
        handOn { stored with xcc := { stored.xcc with allowance := some cfg.fsc } }
      else if cfg.fsEnable = true ∧ old.fsEnable = false ∧ s.frx.health = .lost then failsafeIfDue stored
      else stored
    (∀ n, enable = some n → n % 2 = 1 → n ≠ 1 →
      exec (.setCapControl p fsc enable trip hold) s = .next (answered p 25 .range (.detail 2 0) u)) ∧
    (fsc = none ∧ enable = none ∧ trip = none ∧ hold = none → exec (.setCapControl p fsc enable trip hold) s =
      .next (answered p 25 .ok (.capControl old.fsc old.fsEnable old.trip old.hold false false false) u)) ∧
    (¬(fsc = none ∧ enable = none ∧ trip = none ∧ hold = none) → (∀ n, enable = some n → n % 2 = 0 ∨ n = 1) →
      exec (.setCapControl p fsc enable trip hold) s = .next (answered p 25 .ok
        (.capControl cfg.fsc cfg.fsEnable cfg.trip cfg.hold (decide (60000 < fsc.getD 0))
          (decide (trip.getD 1 < 1 ∨ 255 < trip.getD 1)) (decide (3600 < hold.getD 0)))
        (requestCheckpoint .config moved)))

/-- The five requests on the caps: the two records set and cleared, and the control settings. -/
def Obligations.CapRequests : Prop := CapRecordRequests ∧ SetCapControl

/-! ### Unit Link (chapter 7) -/

/-- A sharing in CURTAILING or FAILSAFE gives the units of a non-empty active set allowances that sum exactly to the
pool; each is its weight's share of the pool rounded down, the lowest-numbered unit taking the remainder, which is
smaller than the number of active units. -/
def Sys2Proof.Claim.SharingSumsToPool : Prop :=
  ∀ l : Ulc, l.curtailed = true → l.activeSet ≠ [] → (∀ i : Fin 4, 1 ≤ l.weights[i]) →
    let lost (i : Fin 4) : Nat :=
      let u := l.units[i]
      match u.last with
      | some r => if u.cfg.enable = true ∧ u.link = .offline then r.output else 0
      | none => 0
    let pool := l.handA.getD 0 - (lost 0 + lost 1 + lost 2 + lost 3)
    let total := (l.activeSet.map l.weight).sum
    let share (i : Fin 4) : Nat := ((l.reshare.units[i]).allowance).getD 0
    (l.activeSet.map share).sum = pool ∧ l.reshare.pool = some pool ∧
    (∀ i ∈ l.activeSet, l.activeSet.head? ≠ some i → share i = pool * l.weight i / total) ∧
    (∀ i, l.activeSet.head? = some i → pool * l.weight i / total ≤ share i ∧
      share i < pool * l.weight i / total + l.activeSet.length)

/-- The allowance each unit has in force after a sharing, over the rows of R138: none for a disabled unit, 0 in effective
standby, and for the other units the share in the active set or 0 outside it while a cap or fail-safe is in force, absent
otherwise. Nothing else of a unit changes, and "no active unit" stands while curtailed with an empty active set. -/
def Sys2Proof.Claim.AllowancesInForce : Prop :=
  ∀ (l : Ulc) (i : Fin 4),
    let u := l.units[i]
    let v := l.reshare.units[i]
    (u.cfg.enable = false → v.allowance = none) ∧
    (u.cfg.enable = true → u.cfg.effStandby = true → v.allowance = some 0) ∧
    (u.cfg.enable = true → u.cfg.effStandby = false → l.curtailed = false → v.allowance = none) ∧
    (u.cfg.enable = true → u.cfg.effStandby = false → l.curtailed = true → u.isActive = false →
      v.allowance = some 0) ∧
    (l.curtailed = true → u.isActive = true → v.allowance = some (l.share i)) ∧
    { v with allowance := u.allowance } = u ∧
    (l.reshare.noActive = true ↔ l.curtailed = true ∧ l.activeSet = []) ∧
    (u.isActive = true ↔ u.cfg.enable = true ∧ u.link = .online ∧ u.cfg.effStandby = false ∧
      ∀ r, u.last = some r → r.status ≠ .fault)

/-- A sharing: the allowances of the active set sum exactly to the pool, and every unit's allowance in force. -/
def Obligations.AllowanceSharing : Prop := SharingSumsToPool ∧ AllowancesInForce

/-- An exchange with unit `i` begins: the message carries its allowance in force and its sequence, one more than before
when the allowance differs from the one last sent (R128). -/
def Sys2Proof.Claim.sending (i : Fin 4) (l : Ulc) : Ulc :=
  let u := l.units[i]
  let seq : Byte := match u.lastSent with
    | some a => if a = u.allowance then u.seq else u.seq + 1
    | none => u.seq
  { l with
    units := l.units.set i { u with seq := seq, lastSent := some u.allowance }
    exchange := .sending { unit := i, allowance := u.allowance, seq := seq } }

/-- POLL_CYCLE_START in RUN with no exchange in progress begins a cycle of the enabled units, the lowest first, the next
cycle 250 ms later; otherwise it does nothing. ALLOWANCE_SENT opens a reply window of 40 ms. REPLY_WINDOW_EXPIRY ends the
exchange with a miss (times: log 2, log 33). Neither does anything without its occasion (log 3). -/
def Sys2Proof.Claim.PollCycle : Prop :=
  ∀ s : State, s.sup.powered = true →
    let enabled := unitNumbers.filter fun i => s.ulc.units[i].cfg.enable
    let now := max s.tim.runMs s.ulc.nextCycle
    let t := passTo s.ulc.nextCycle s
    (s.sup.supply ≠ .run ∨ s.ulc.exchange ≠ .none → exec .pollCycleStart s = .next (finish s)) ∧
    (s.sup.supply = .run → s.ulc.exchange = .none → enabled = [] → exec .pollCycleStart s =
      .next (finish { t with ulc := { s.ulc with nextCycle := now + 250, rest := [] } })) ∧
    (∀ i rest, s.sup.supply = .run → s.ulc.exchange = .none → enabled = i :: rest → exec .pollCycleStart s =
      .next (finish { t with ulc := sending i { s.ulc with nextCycle := now + 250, rest := rest } })) ∧
    (∀ m, s.ulc.exchange = .sending m → exec .allowanceSent s =
      .next (finish { s with ulc := { s.ulc with exchange := .window m (s.tim.runMs + 40) [] } })) ∧
    ((∀ m, s.ulc.exchange ≠ .sending m) → exec .allowanceSent s = .next (finish s)) ∧
    (∀ m closes got, s.ulc.exchange = .window m closes got → exec .replyWindowExpiry s =
      .next (finish (endExchange m.unit UnitEntry.missed (passTo closes s)))) ∧
    ((∀ m closes got, s.ulc.exchange ≠ .window m closes got) → exec .replyWindowExpiry s = .next (finish s))

/-- Where polling begins, at an entry to RUN too: a cycle of the enabled units, the lowest first, the next 250 ms later. -/
def Sys2Proof.Claim.CycleBegins : Prop :=
  ∀ s : State,
    let enabled := unitNumbers.filter fun i => s.ulc.units[i].cfg.enable
    (enabled = [] → beginCycle s =
      { s with ulc := { s.ulc with nextCycle := s.tim.runMs + 250, rest := [], exchange := .none } }) ∧
    (∀ i rest, enabled = i :: rest → beginCycle s =
      { s with ulc := sending i { s.ulc with nextCycle := s.tim.runMs + 250, rest := rest } }) ∧
    unitNumbers = [0, 1, 2, 3]

/-- UNIT_REPORT: outside a reply window the characters are discarded; inside it they are collected up to seven, and the
seventh ends the exchange, with the report where the reply is valid and with a miss where it is not. -/
def Sys2Proof.Claim.UnitReport : Prop :=
  ∀ (chars : List RxChar) (s : State), s.sup.powered = true →
    ((∀ m closes got, s.ulc.exchange ≠ .window m closes got) → exec (.unitReport chars) s = .next (finish s)) ∧
    (∀ m closes got, s.ulc.exchange = .window m closes got → (got ++ chars).length < 7 →
      exec (.unitReport chars) s =
        .next (finish { s with ulc := { s.ulc with exchange := .window m closes (got ++ chars) } })) ∧
    (∀ m closes got r, s.ulc.exchange = .window m closes got → 7 ≤ (got ++ chars).length →
      parseReport m.unit ((got ++ chars).take 7) = some r →
      exec (.unitReport chars) s = .next (finish (endExchange m.unit (UnitEntry.reported r m.seq) s))) ∧
    (∀ m closes got, s.ulc.exchange = .window m closes got → 7 ≤ (got ++ chars).length →
      parseReport m.unit ((got ++ chars).take 7) = none →
      exec (.unitReport chars) s = .next (finish (endExchange m.unit UnitEntry.missed s)))

/-- The Export Cap Controller's result reaches the units: the curtailment state and the site allowance are handed on, in
FAILSAFE the fail-safe cap as the allowance, and the allowances shared again (R119, R120, R135, R137). -/
def Sys2Proof.Claim.HandedOn : Prop :=
  ∀ s : State,
    let handed (a : Option Nat) : Ulc := ({ s.ulc with handState := s.xcc.state, handA := a } : Ulc).reshare
    handOn s = { s with ulc := handed s.xcc.allowance } ∧ share s = { s with ulc := s.ulc.reshare } ∧
    (s.xcc.state = .failsafe → activeSetChanged s =
      { s with xcc := { s.xcc with allowance := some s.xcc.cfg.fsc }, ulc := handed (some s.xcc.cfg.fsc) }) ∧
    (s.xcc.state ≠ .failsafe → activeSetChanged s = share s)

/-- The end of an exchange with unit `i`, whose entry becomes `f` of it: UNIT is raised where the link state or
not-following changes; the allowances are shared again where the unit enters or leaves the active set, or ONLINE or
OFFLINE; and the next unit of the cycle is polled, or the cycle ends (R127, R131, R134, R135, R137). -/
def Sys2Proof.Claim.ExchangeEnd : Prop :=
  ∀ (i : Fin 4) (f : UnitEntry → UnitEntry) (s : State),
    let u := s.ulc.units[i]
    let w := f u
    w.cfg = u.cfg →
    let moved : State := { s with ulc := { s.ulc with units := s.ulc.units.set i w } }
    let told := if w.link ≠ u.link ∨ w.notFollowing ≠ u.notFollowing then raise .unit moved else moved
    let counts (l : LinkState) : Prop := l = .online ∨ l = .offline
    let next (t : State) : State := { t with ulc := match t.ulc.rest with
      | [] => { t.ulc with exchange := .none }
      | k :: rest => sending k { t.ulc with rest := rest } }
    (w.isActive ≠ u.isActive → endExchange i f s = next (activeSetChanged told)) ∧
    (w.isActive = u.isActive → u.cfg.enable = true → w.link ≠ u.link → counts w.link ∨ counts u.link →
      endExchange i f s = next (share told)) ∧
    (w.isActive = u.isActive → (u.cfg.enable = true → w.link ≠ u.link → ¬counts w.link ∧ ¬counts u.link) →
      endExchange i f s = next told)

/-- POLL_CYCLE_START, ALLOWANCE_SENT, UNIT_REPORT and REPLY_WINDOW_EXPIRY, and what the end of an exchange brings. -/
def Obligations.UnitLinkExchanges : Prop := PollCycle ∧ CycleBegins ∧ UnitReport ∧ ExchangeEnd ∧ HandedOn

/-- The bytes of a unit's reply, written from the layout of R201. -/
def Sys2Proof.Claim.reportBytes (i : Fin 4) (output status : Nat) (echo : Byte) : List Byte :=
  withCrc ([BitVec.ofNat 8 i.val] ++ leBytes 2 output ++ leBytes 1 status ++ [echo])

/-- A unit's reply with good characters is read back with its output clamped to 30,000 W; the same reply to a message to
another unit is a miss. -/
def Sys2Proof.Claim.UnitReplyReadBack : Prop :=
  ∀ (i j : Fin 4) (output n : Nat) (st : UnitStatus) (echo : Byte), output < 65536 → UnitStatus.ofCode n = some st →
    let chars := (reportBytes i output n echo).map goodChar
    parseReport i chars =
      some { output := min output 30000, status := st, echo := echo, clamped := decide (30000 < output) } ∧
    (j ≠ i → parseReport j chars = none)

/-- A reply that has not seven characters, has a missing stop bit, a wrong check, the address of another unit or an unknown
status code is a miss (R129). -/
def Sys2Proof.Claim.UnitReplyMissed : Prop :=
  ∀ (i : Fin 4) (chars : List RxChar),
    let l := chars.map RxChar.byte
    chars.length ≠ 7 ∨ (∃ c ∈ chars, c.stopOk = false) ∨ crcOk l = false ∨ (l.getD 0 0).toNat ≠ i.val ∨
      2 < (l.getD 3 0).toNat → parseReport i chars = none

/-- The bytes hold a table's fields, each an offset, a width and an unsigned value that fits it (R197). -/
abbrev Sys2Proof.Claim.Holds (l : List Byte) (table : List (Nat × Nat × Nat)) : Prop :=
  ∀ x ∈ table, x.2.2 < 256 ^ x.2.1 → leNat ((l.drop x.1).take x.2.1) = x.2.2

/-- The rows of an optional field: its presence, then its value, 0 when it is absent (R197). -/
def Sys2Proof.Claim.optAt (offset width : Nat) (o : Option Nat) : List (Nat × Nat × Nat) :=
  [(offset, 1, o.isSome.toNat), (offset + 1, width, o.getD 0)]

/-- The rows of several fields of 4 bytes, from an offset on, `step` bytes apart. -/
def Sys2Proof.Claim.rowsAt (offset step : Nat) (l : List Nat) : List (Nat × Nat × Nat) :=
  l.zipIdx.map fun x => (offset + step * x.2, 4, x.1)

/-- An ALLOWANCE message is 9 bytes as R201 lays them out. A response frame is 7 bytes and its payload as R200 lays them
out. Both end in their check. The status codes are numbered in the order of R187. -/
def Sys2Proof.Claim.SentFrames : Prop :=
  (∀ m : AllowanceMsg, m.bytes.length = 9 ∧ crcOk m.bytes = true ∧
    Holds m.bytes ([(0, 1, m.unit.val)] ++ optAt 1 4 m.allowance ++ [(6, 1, m.seq.toNat)])) ∧
  (∀ r : Response, let n := r.answer.bytes.length
    r.frame.length = n + 7 ∧ crcOk r.frame = true ∧ (r.frame.drop 5).take n = r.answer.bytes ∧
      Holds r.frame [(0, 1, 0xC3), (1, 2, n), (3, 1, r.code), (4, 1, r.status.code)]) ∧
  ([.ok, .accepted, .deferred, .busy, .badFrame, .unknown, .denied, .state, .locked, .range, .notFound,
    .viewExpired] : List Status).map Status.code = List.range 12

/-- A calendar's lists are within the limits of R65 and R67: at most 8 bands and at most 8 switch points a day. -/
abbrev Sys2Proof.Claim.Calendar.within (c : Calendar) : Prop :=
  (c.bands.elim 0 fun t => t.entries.length) ≤ 8 ∧ ∀ i : Fin 12, (c.days[i].elim 0 List.length) ≤ 8

/-- The lists of an answer are within the spec's limits: a calendar's, 8 bands of a snapshot, 12 retired sectors. -/
def Sys2Proof.Claim.Answer.within : Answer → Prop
  | .calendarSummary c _ => Calendar.within c
  | .calendarPart c _ => Calendar.within c
  | .snapshot r => r.bands.length ≤ 8
  | .status r => r.retired.length ≤ 12
  | _ => True

/-- Every answer whose lists are within their limits fits 480 bytes. READ_REGISTERS is 111 bytes as R202 lays them out; a
SPECIALS part is 145 bytes; READ_SNAPSHOT is a length and the record (R200, R202, R203; absent lists: log 60; counts of
fixed tables: log 61). -/
def Sys2Proof.Claim.SentPayloads : Prop :=
  (∀ a : Answer, Answer.within a → a.bytes.length ≤ 480) ∧
  (∀ (r : RegCopy) (left : Option Nat),
    let l := (Answer.registers r left).bytes
    l.length = 111 ∧ Holds l ([(0, 1, left.isSome.toNat), (1, 4, r.ti), (5, 4, r.te), (9, 2, r.ri), (11, 2, r.re)] ++
      rowsAt 13 4 r.imp.toList ++ rowsAt 45 4 r.exp.toList ++ [(77, 4, r.credit), (81, 4, r.forfeit), (85, 4, r.period)] ++
      optAt 89 4 r.openTime ++ [(94, 1, r.band.val)] ++ optAt 95 4 r.capture ++ optAt 100 2 left ++
      [(103, 4, r.tiOpen), (107, 4, r.teOpen)])) ∧
  (∀ c : Calendar, (Answer.calendarPart c .specials).bytes.length = 145) ∧
  (∀ r : Snapshot, let l := (Answer.snapshot r).bytes
    Holds l [(0, 2, r.bytes.length)] ∧ l.drop 2 = r.bytes)

/-- A snapshot record is 74 + 8 nb bytes in TOTAL mode and 74 + 12 nb in BANDED: a head of 28, the bands, a tail of 46,
each field where R203 has it. -/
def Sys2Proof.Claim.SnapshotRecord : Prop :=
  ∀ r : Snapshot, (∀ b ∈ r.bands, b.billable.isSome = decide (r.mode = .banded)) →
    let nb := r.bands.length
    let width := if r.mode = .banded then 12 else 8
    let tail := 28 + width * nb
    let l := r.bytes
    let date (f : Date → Nat) : Nat := (r.billingDate.map fun d => f (dateOf d)).getD 0
    l.length = tail + 46 ∧ (l.drop 18).take 8 = r.calName.toList ∧
    Holds l ([(0, 1, 1), (1, 4, r.number), (5, 1, r.reason.code), (6, 2, r.merged)] ++ optAt 8 4 r.openTime ++
      optAt 13 4 r.closeTime ++ [(26, 1, nb), (27, 1, r.mode.code)] ++
      rowsAt 28 width (r.bands.map SnapBand.imp) ++ rowsAt 32 width (r.bands.map SnapBand.exp) ++
      (if r.mode = .banded then rowsAt 36 width (r.bands.map fun b => b.billable.getD 0) else []) ++
      [(tail, 5, r.billable), (tail + 5, 5, r.applied), (tail + 10, 4, r.creditIn), (tail + 14, 4, r.creditOut),
        (tail + 18, 5, r.forfeit), (tail + 23, 4, r.ti), (tail + 27, 4, r.te), (tail + 31, 1, r.billingDate.isSome.toNat),
        (tail + 32, 1, date Date.year - 2000), (tail + 33, 1, date Date.month), (tail + 34, 1, date Date.day),
        (tail + 36, 2, r.counters.missed), (tail + 38, 2, r.counters.errors), (tail + 40, 2, r.counters.clamped),
        (tail + 42, 2, r.counters.dups), (tail + 44, 2, r.counters.discarded)]) ∧
    [0, 1, 2, 3, 4, 5, 6, 7].map (l.getD (tail + 35) 0).getLsbD =
      [r.flags.timeInvalidSeen, r.flags.frontendFaultSeen, r.flags.resyncSeen, r.flags.frameLossSeen,
        r.flags.restartLoss, false, false, false] ∧
    ([.scheduled, .commanded, .calendar] : List Reason).map Reason.code = [0, 1, 2] ∧
    ([.total, .banded] : List SetMode).map SetMode.code = [0, 1]

/-- The kind and the body of a slot's record (R204). -/
def Sys2Proof.Claim.recordOf : SlotContent → Option (Nat × List Byte)
  | .snapshot r => some (1, r.bytes)
  | .half n c => some (2, leBytes 4 c.seq ++ leBytes 1 n ++ c.share n)
  | .part n total c => some (3, leBytes 1 n ++ leBytes 1 total ++ (c.image.drop (249 * (n - 1))).take 249)
  | .junk => none

/-- A slot's 256 bytes are a kind, a length, a body, their check, and 0xFF to the end; a BLANK slot is all 0xFF, and INVALID
content has no stated bytes. Every body fits 251 bytes. The halves of a checkpoint share its fields, each once, in the
free order (log 9); the parts of a calendar, at most 5, are its whole content in order (R204; log 10, 61). -/
def Sys2Proof.Claim.SlotLayout : Prop :=
  (∀ x kind body, recordOf x = some (kind, body) → body.length ≤ 251 → ∃ l, slotBytes (some x) = some l ∧
    l.length = 256 ∧ Holds l [(0, 1, kind), (1, 2, body.length)] ∧ (l.drop 3).take body.length = body ∧
    crcOk (l.take (body.length + 5)) = true ∧ ∀ b ∈ l.drop (body.length + 5), b = 0xFF#8) ∧
  (∀ x kind body, recordOf x = some (kind, body) → (∀ r, x = .snapshot r → r.bands.length ≤ 8) → body.length ≤ 251) ∧
  slotBytes none = some (List.replicate 256 0xFF#8) ∧ slotBytes (some .junk) = none ∧
  (∀ c : Checkpoint, c.share 0 ++ c.share 1 = c.content ∧ ∃ fields : List (List Byte), fields.Perm c.fields ∧ c.content = fields.flatten) ∧
  (∀ c : Calendar, ((List.range c.parts).flatMap fun i => (c.image.drop (249 * i)).take 249) = c.image ∧
    (Calendar.within c → 1 ≤ c.parts ∧ c.parts ≤ 5))

/-- The messages of the two input links are read back field by field, and which replies are misses; what is sent and what
is stored is laid out as chapter 11 says. -/
def Obligations.LinkMessagesReadBack : Prop :=
  PhaseFrameReadBack ∧ UnitReplyReadBack ∧ UnitReplyMissed ∧ SentFrames ∧ SentPayloads ∧ SnapshotRecord ∧ SlotLayout

/-- The unit states: a miss in PROBING or ONLINE counts up and the third in a row is OFFLINE, a miss elsewhere changes
nothing; a valid report of an enabled unit is kept, makes the unit ONLINE with no misses, and clears the mismatch and
not-following where the echo is the sequence sent, else counts up to 8 mismatches, the eighth setting not-following. -/
def Obligations.UnitStates : Prop :=
  ∀ (u : UnitEntry) (r : Report) (sent : Byte),
    (u.link = .probing ∨ u.link = .online →
      (u.miss < 2 → u.missed = { u with miss := u.miss + 1 }) ∧
      (2 ≤ u.miss → u.missed = { u with miss := 3, link := .offline })) ∧
    (u.link = .disabled ∨ u.link = .offline → u.missed = u) ∧
    (u.link ≠ .disabled →
      (r.echo = sent → u.reported r sent =
        { u with last := some r, link := .online, miss := 0, mismatch := 0, notFollowing := false }) ∧
      (r.echo ≠ sent → u.reported r sent =
        { u with last := some r, link := .online, miss := 0, mismatch := min 8 (u.mismatch + 1),
                 notFollowing := u.notFollowing || decide (7 ≤ u.mismatch) }))

/-- The exchange in progress is with unit `i`, its message being sent or its reply window open (R127). -/
def Sys2Proof.Claim.going (i : Fin 4) (l : Ulc) : Bool :=
  match l.exchange with
  | .none => false
  | .sending m => m.unit == i
  | .window m _ _ => m.unit == i

/-- Unit `i` leaves the cycle: it is not polled again in it, and an exchange in progress with it is abandoned, the next
unit's beginning (R127), also where its message is still being sent (log 56). -/
def Sys2Proof.Claim.leftCycle (i : Fin 4) (l : Ulc) : Ulc :=
  let others := l.rest.filter (· ≠ i)
  if going i l then
    match others with
    | [] => { l with rest := [], exchange := .none }
    | k :: rest => sending k { l with rest := rest }
  else { l with rest := others }

/-- The state `t`, in which unit `i` has changed from `u`, once the allowances are shared again: through the Export Cap
Controller where the unit enters or leaves the active set, else at once where `always` says so or the weight of an
active unit has changed (R135, R137). -/
def Sys2Proof.Claim.sharedAgain (u : UnitEntry) (i : Fin 4) (always : Bool) (t : State) : State :=
  if t.ulc.units[i].isActive ≠ u.isActive then activeSetChanged t
  else if always || t.ulc.units[i].isActive && t.ulc.weights[t.ulc.units[i].cfg.slot] != t.ulc.weights[u.cfg.slot]
  then share t else t

/-- SET_UNIT_CONFIG, SET_UNIT_STANDBY and SET_PROFILE_WEIGHTS: RANGE for a unit above 3, a profile slot above 3 or a flag
that is neither clear nor set, with its item; with no parameter present only the answer; otherwise what each stores, the
UNIT notice and the cycle's change with a changed link enable, the sharing (none for a mask-off that leaves the active set:
log 57), a CONFIG checkpoint, and the answer. A unit enabled starts PROBING and one disabled is DISABLED, both without a
report; every other unit's configuration stands. Where a disable ends the exchange in progress and another unit of the
cycle follows, its poll and the sharing come in either order (R137; log 5, 52). -/
def Obligations.UnitRequests : Prop :=
  ∀ (p : Port) (s : State),
    let flagOk (n : Option Nat) : Prop := ∀ k, n = some k → k % 2 = 0 ∨ k = 1
    (∀ unit e slot m, Serves p (.setUnitConfig unit e slot m) s →
      let range (item : Nat) : Prop :=
        exec (.setUnitConfig p unit e slot m) s = .next (answered p 27 .range (.detail item 0) (taken p 27 s))
      (4 ≤ unit → range 1) ∧ (unit < 4 → ¬flagOk e → range 2) ∧
      (unit < 4 → flagOk e → 3 < slot.getD 0 → range 3) ∧
      (unit < 4 → flagOk e → slot.getD 0 ≤ 3 → ¬flagOk m → range 4) ∧
      (∀ i : Fin 4, unit = i.val → flagOk e → slot.getD 0 ≤ 3 → flagOk m →
        let u := s.ulc.units[i]
        let new : UnitConfig := { u.cfg with
          enable := match e with
            | some n => n == 1
            | none => u.cfg.enable
          slot := match slot with
            | some n => Fin.ofNat 4 n
            | none => u.cfg.slot
          maskOff := match m with
            | some n => n == 1
            | none => u.cfg.maskOff }
        let w : UnitEntry :=
          if new.enable = u.cfg.enable then { u with cfg := new }
          else if new.enable then { u with cfg := new, link := .probing, miss := 0, last := none }
          else { u with cfg := new, link := .disabled, miss := 0, last := none, lastSent := none, mismatch := 0,
                        notFollowing := false }
        let moved : State := { taken p 27 s with ulc := { s.ulc with units := s.ulc.units.set i w } }
        let told : State := raise .unit moved
        let again (t : State) : State := sharedAgain u i true t
        let leaves (t : State) : State := { t with ulc := leftCycle i t.ulc }
        let polls : Prop := going i s.ulc = true ∧ ∃ j ∈ s.ulc.rest, j ≠ i
        let answers (v : State) : Prop :=
          exec (.setUnitConfig p unit e slot m) s = .next (answered p 27 .ok (.unitConfig new) v) ∧
            v.ulc.units[i].cfg = new ∧ (∀ j : Fin 4, j ≠ i → v.ulc.units[j].cfg = s.ulc.units[j].cfg) ∧
            v.ulc.weights = s.ulc.weights ∧ v.xcc.cfg = s.xcc.cfg ∧ v.reg = s.reg
        let sets (v : State) : Prop := answers (requestCheckpoint .config v)
        (e = none ∧ slot = none ∧ m = none → answers (taken p 27 s)) ∧
        (¬(e = none ∧ slot = none ∧ m = none) →
          (new.enable = u.cfg.enable → sets (sharedAgain u i false moved)) ∧
          (new.enable = true → u.cfg.enable = false → sets (again told)) ∧
          (new.enable = false → u.cfg.enable = true → ¬polls → sets (leaves (again told))) ∧
          (new.enable = false → u.cfg.enable = true → polls →
            let drawn : State := { told with draws := s.draws + 1 }
            sets (leaves (again drawn)) ∨ sets (again (leaves drawn)))))) ∧
    (∀ unit r, Serves p (.setUnitStandby unit r) s →
      (4 ≤ unit → exec (.setUnitStandby p unit r) s =
        .next (answered p 28 .range (.detail 1 0) (taken p 28 s))) ∧
      (unit < 4 → ¬flagOk r → exec (.setUnitStandby p unit r) s =
        .next (answered p 28 .range (.detail 2 0) (taken p 28 s))) ∧
      (∀ i : Fin 4, unit = i.val → flagOk r →
        let u := s.ulc.units[i]
        let b : Bool := match r with
          | some n => n == 1
          | none => u.cfg.standby
        let moved : State := { taken p 28 s with
          ulc := { s.ulc with units := s.ulc.units.set i { u with cfg := { u.cfg with standby := b } } } }
        let changed : Prop := u.cfg.enable = true ∧ (b && !u.cfg.maskOff) ≠ (u.cfg.standby && !u.cfg.maskOff)
        let v := if r = none then taken p 28 s
          else requestCheckpoint .config (if changed then sharedAgain u i true moved else moved)
        exec (.setUnitStandby p unit r) s = .next (answered p 28 .ok (.standby b u.cfg.maskOff (b && !u.cfg.maskOff)) v) ∧
          v.ulc.units[i].cfg = { u.cfg with standby := b } ∧
          (∀ j : Fin 4, j ≠ i → v.ulc.units[j].cfg = s.ulc.units[j].cfg) ∧
          v.ulc.weights = s.ulc.weights ∧ v.xcc.cfg = s.xcc.cfg ∧ v.reg = s.reg)) ∧
    (∀ w : Vector (Option Nat) 4, Serves p (.setProfileWeights w) s →
      let new : Vector Nat 4 := Vector.ofFn fun i => (w[i].map fun n => max 1 (min 100 n)).getD s.ulc.weights[i]
      let moved : State := { taken p 29 s with ulc := { s.ulc with weights := new } }
      let changed : Prop := ∃ i : Fin 4, s.ulc.units[i].isActive = true ∧
        new[s.ulc.units[i].cfg.slot] ≠ s.ulc.weights[s.ulc.units[i].cfg.slot]
      let answer : Answer := .weights new (Vector.ofFn fun i => match w[i] with
        | some n => decide (n < 1 ∨ 100 < n)
        | none => false)
      ((∀ i : Fin 4, w[i] = none) →
        exec (.setProfileWeights p w) s = .next (answered p 29 .ok answer (taken p 29 s))) ∧
      ((∃ i : Fin 4, w[i] ≠ none) → changed → exec (.setProfileWeights p w) s =
        .next (answered p 29 .ok answer (requestCheckpoint .config (share moved)))) ∧
      ((∃ i : Fin 4, w[i] ≠ none) → ¬changed → exec (.setProfileWeights p w) s =
        .next (answered p 29 .ok answer (requestCheckpoint .config moved))))

/-! ### History Store (chapter 8) -/

/-- SNAPSHOT_PROGRAM_COMPLETE. Read back VALID: the slot holds the record, the entry moves from the pending queue to the
index, an owed close is retried and a CLOSE checkpoint requested. Read back INVALID: the slot is INVALID, the entries
are bound anew with a slot chosen by R144's candidate rule, the log pre-erase is judged, and the second failure of one
snapshot marks the log area FAILED with STORE_FAULT. The case of a rebinding that finds no slot is left out: the bound
slots' invariant excludes it (log 31). With no snapshot program in progress nothing happens (log 3). -/
def Obligations.SnapshotProgramComplete : Prop :=
  ∀ s : State, s.sup.powered = true →
    (∀ (valid : Bool), s.hst.engine ≠ .snapshot → exec (.snapshotProgramComplete valid) s = .next (finish s)) ∧
    (∀ e rest, s.hst.engine = .snapshot → s.hst.queue = e :: rest →
      let done := { s with hst := { s.hst with
        store := Store.put s.hst.store e.slot (.snapshot e.snap), queue := rest,
        index := s.hst.index ++ [(e.snap.number, e.slot)], engine := .idle } }
      exec (.snapshotProgramComplete true) s = .next (finish (requestCheckpoint .close (retryOwed done)))) ∧
    (∀ e rest k, s.hst.engine = .snapshot → s.hst.queue = e :: rest → rest.length ≤ 1 →
      let h : Hst := { s.hst with store := Store.put s.hst.store e.slot .junk, engine := .idle }
      h.candidate = some k →
      let bound : List PendingSnap := match rest with
        | [] => [{ e with slot := k, fails := e.fails + 1 }]
        | e2 :: _ => [{ e with slot := e2.slot, fails := e.fails + 1 }, { e2 with slot := k }]
      let t := { s with hst :=
        ({ h with queue := bound, writePtr := k, curLog := k / 16 } : Hst).judgeLogPreErase }
      (e.fails = 0 → exec (.snapshotProgramComplete false) s = .next (finish t)) ∧
      (1 ≤ e.fails → exec (.snapshotProgramComplete false) s =
        .next (finish (raise .storeFault { t with hst := { t.hst with logFailed := true } }))))

/-- A checkpoint request joins the outstanding one or makes it, and is not made while the area is FAILED. -/
def Sys2Proof.Claim.CheckpointRequest : Prop :=
  ∀ (c : Cause) (s : State),
    (s.hst.ckptFailed = true → requestCheckpoint c s = s) ∧
    (s.hst.ckptFailed = false → s.hst.ckptReq = none →
      requestCheckpoint c s = { s with hst := { s.hst with ckptReq := some c.bit } }) ∧
    (∀ set, s.hst.ckptFailed = false → s.hst.ckptReq = some set →
      requestCheckpoint c s = { s with hst := { s.hst with ckptReq := some (set ||| c.bit) } })

/-- The next record position is the first behind the last one written, in the current sector, with both slots BLANK; else
the first of the next sector where that is another and all BLANK; else none (R151). -/
def Sys2Proof.Claim.RecordPosition : Prop :=
  ∀ h : Hst,
    let from' := match h.ckptLast with
      | some p => p + 1
      | none => 0
    let unused (q : Nat) : Prop := Store.at h.store (2 * q) = none ∧ Store.at h.store (2 * q + 1) = none
    let next := h.nextRing h.ckptSector
    let allUsed : Prop := ∀ q, from' ≤ q → q < 8 → ¬unused (8 * h.ckptSector + q)
    (∀ p, from' ≤ p → p < 8 → unused (8 * h.ckptSector + p) →
      (∀ q, from' ≤ q → q < p → ¬unused (8 * h.ckptSector + q)) → h.nextPosition = some (8 * h.ckptSector + p)) ∧
    (allUsed → next ≠ h.ckptSector → Store.sectorBlank h.store next = true → h.nextPosition = some (8 * next)) ∧
    (allUsed → next = h.ckptSector ∨ Store.sectorBlank h.store next = false → h.nextPosition = none)

/-- The judgement of the ring: with at least 4 positions of the current sector used, a next sector not all BLANK is
entered in the ERASE list, once and not while under erase (log 22); with every other sector retired and all 8 positions
used the area is FAILED with STORE_FAULT, request and retry ending (log 38). Otherwise nothing changes (R151). -/
def Sys2Proof.Claim.RingJudgement : Prop :=
  ∀ s : State,
    let h := s.hst
    let next := h.nextRing h.ckptSector
    let used := ((List.range 8).filter fun p => (Store.at h.store (2 * (8 * h.ckptSector + p))).isSome ||
      (Store.at h.store (2 * (8 * h.ckptSector + p) + 1)).isSome).length
    let enters : Prop := next ≠ h.ckptSector ∧ 4 ≤ used ∧ Store.sectorBlank h.store next = false ∧
      next ∉ h.eraseList ∧ h.suspended ≠ some next ∧ h.engine ≠ .erase next
    let fails : Prop := next = h.ckptSector ∧ used = 8 ∧ h.ckptFailed = false
    (enters → judgeRing s = { s with hst := { h with eraseList := h.eraseList ++ [next] } }) ∧
    (fails → judgeRing s =
      raise .storeFault { s with hst := { h with ckptFailed := true, ckptReq := none, ckptRetry := none } }) ∧
    (¬enters → ¬fails → judgeRing s = s)

/-- A checkpoint carries the sequence number behind the newest's, modulo 2^32, or 1 when there is none, the capture time
and the causes; and what it captures is what recovery brings back of it, the designation only where the sector holds the
active calendar's image (R76, R163, R174), and with the persisted flag the passive image's sector (log 42). -/
def Sys2Proof.Claim.CaptureComesBack : Prop :=
  ∀ (causes : CauseSet) (s r : State),
    let c := captureNow causes s
    let t := loadCheckpoint c r
    (s.hst.newestSeq = none → c.seq = 1) ∧ (∀ n, s.hst.newestSeq = some n → c.seq = (n + 1) % 4294967296) ∧
    c.causes = causes ∧ t.tim.resumeFrom = some { utc := s.tim.utc, valid := s.tim.valid } ∧
    t.reg = s.reg ∧ t.frx.counters = s.frx.counters ∧ t.netting = s.netting ∧ t.set = s.set ∧
    t.tim.offset = s.tim.offset ∧ t.tim.lastClose = s.tim.lastClose ∧
    t.cal.designation = (if s.cal.imageHeld then s.cal.designation else none) ∧
    t.cal.persisted = s.cal.persisted ∧ t.cal.passiveAt = s.cal.passiveAt ∧
    t.cal.activation = s.cal.activation ∧ t.cal.map = s.cal.map ∧
    (∀ i : Fin 2, t.cal.lines[i].source = s.cal.lines[i].source ∧ t.cal.lines[i].virt = s.cal.lines[i].virt) ∧
    t.xcc.cfg = s.xcc.cfg ∧ (∀ i : Fin 4, t.ulc.units[i].cfg = s.ulc.units[i].cfg) ∧
    t.ulc.weights = s.ulc.weights ∧ t.premLock = s.premLock ∧ t.upt.mask = s.upt.mask ∧ t.ppt.mask = s.ppt.mask

/-- CHECKPOINT_PROGRAM_COMPLETE: both slots of the position are written, and the position is the ring's last. Both VALID:
it is the newest checkpoint and the interval starts anew. Otherwise the captured content waits for its retry, and a
failed retry marks the area FAILED with STORE_FAULT, ending request and retry (log 38). The ring pre-erase is then judged.
With no checkpoint program in progress nothing happens (log 3). -/
def Sys2Proof.Claim.CheckpointProgramComplete : Prop :=
  ∀ (v0 v1 : Bool) (s : State), s.sup.powered = true →
    ((∀ c p r, s.hst.engine ≠ .checkpoint c p r) →
      exec (.checkpointProgramComplete v0 v1) s = .next (finish s)) ∧
    (∀ c p r, s.hst.engine = .checkpoint c p r →
      let half (n : Fin 2) (v : Bool) : SlotContent := if v then .half n c else .junk
      let h : Hst := { s.hst with
        store := Store.put (Store.put s.hst.store (2 * p) (half 0 v0)) (2 * p + 1) (half 1 v1)
        ckptSector := p / 8, ckptLast := some (p % 8), engine := .idle }
      ((v0 && v1) = true → exec (.checkpointProgramComplete v0 v1) s = .next (finish (judgeRing { s with
        hst := { h with newestSeq := some c.seq, periodicFrom := s.tim.runMs, periodicFired := false } }))) ∧
      ((v0 && v1) = false → r = false → exec (.checkpointProgramComplete v0 v1) s =
        .next (finish (judgeRing { s with hst := { h with ckptRetry := some c } }))) ∧
      ((v0 && v1) = false → r = true → exec (.checkpointProgramComplete v0 v1) s =
        .next (finish (judgeRing (raise .storeFault { s with
          hst := { h with ckptFailed := true, ckptReq := none, ckptRetry := none } })))))

/-- PERIODIC_CHECKPOINT_TIMER requests a PERIODIC checkpoint 900 s after the interval's start, once, and not while the
area is FAILED (log 2, log 36). -/
def Sys2Proof.Claim.PeriodicTimer : Prop :=
  ∀ s : State, s.sup.powered = true →
    (s.hst.periodicFired = false → s.hst.ckptFailed = false → exec .periodicCheckpointTimer s =
      .next (finish (requestCheckpoint .periodic { passTo (s.hst.periodicFrom + 900000) s with
        hst := { s.hst with periodicFired := true } }))) ∧
    (s.hst.periodicFired = true ∨ s.hst.ckptFailed = true → exec .periodicCheckpointTimer s = .next (finish s))

/-- Checkpoints: how requests join, the record position, what one captures and recovery brings back, the end of its
program, the judgement of the ring, and the checkpoint interval. -/
def Obligations.Checkpoints : Prop :=
  CheckpointRequest ∧ RecordPosition ∧ CaptureComesBack ∧ CheckpointProgramComplete ∧ RingJudgement ∧ PeriodicTimer

/-- CALENDAR_PART_PROGRAM_COMPLETE: a VALID part is written and the next follows in the next slot; after the last part a
write edited meanwhile is stale, one of the passive calendar marks it persisted, one of the active calendar's present
content gives the designation its image where that names the sector, all but the stale with a CALENDAR checkpoint. An
INVALID part is programmed again in the next slot, and a second failure marks the image area FAILED with STORE_FAULT,
ending every write (log 34). With no part program in progress nothing happens (log 3). -/
def Sys2Proof.Claim.PartProgramComplete : Prop :=
  ∀ s : State, s.sup.powered = true →
    (∀ valid : Bool, s.hst.engine ≠ .part → exec (.calendarPartProgramComplete valid) s = .next (finish s)) ∧
    (∀ j, s.hst.engine = .part → s.hst.calJob = some j →
      let k := 16 * j.sector + j.slot
      let good : Hst := { s.hst with store := Store.put s.hst.store k (.part j.next j.parts j.content), engine := .idle }
      let bad : Hst := { s.hst with store := Store.put s.hst.store k .junk, engine := .idle }
      let ended := { s with hst := { good with calJob := none } }
      (j.next ≠ j.parts → exec (.calendarPartProgramComplete true) s = .next (finish { s with hst := { good with
        calJob := some { j with slot := j.slot + 1, next := j.next + 1 } } })) ∧
      (j.next = j.parts → j.edited = true →
        exec (.calendarPartProgramComplete true) s = .next (finish ended)) ∧
      (j.next = j.parts → j.edited = false → j.ofActive = false → exec (.calendarPartProgramComplete true) s =
        .next (finish (requestCheckpoint .calendar { ended with cal := { s.cal with persisted := true } }))) ∧
      (j.next = j.parts → j.edited = false → j.ofActive = true →
        (s.cal.designation = some j.sector ∧ j.content = s.cal.active → exec (.calendarPartProgramComplete true) s =
          .next (finish (requestCheckpoint .calendar { ended with cal := { s.cal with imageHeld := true } }))) ∧
        (¬(s.cal.designation = some j.sector ∧ j.content = s.cal.active) →
          exec (.calendarPartProgramComplete true) s = .next (finish (requestCheckpoint .calendar ended)))) ∧
      (j.failed = false → exec (.calendarPartProgramComplete false) s = .next (finish { s with hst := { bad with
        calJob := some { j with slot := j.slot + 1, failed := true } } })) ∧
      (j.failed = true → exec (.calendarPartProgramComplete false) s = .next (finish (raise .storeFault { s with
        hst := { bad with calFailed := true, calJob := none, calWaiting := [] } }))))

/-- SECTOR_ERASE_COMPLETE leaves the sector's slots BLANK but for those named, which are INVALID, and every other slot as
it was. With all BLANK a calendar write goes on to its parts and a sector of the log retries an owed close. Otherwise the
sector is retired with STORE_FAULT: the ring is judged again, an area with no sector left, or the image area, is FAILED,
which ends a request and a retry of the ring (log 38) and every write of the images (log 34).
The log pre-erase is then judged. ERASE_SUSPEND suspends an erase in progress exactly when a read, a snapshot or a
checkpoint waits. With no erase in progress neither does anything (log 3). -/
def Sys2Proof.Claim.EraseEvents : Prop :=
  ∀ (b : BitVec 16) (s : State), s.sup.powered = true →
    ((∀ x, s.hst.engine ≠ .erase x) →
      exec (.sectorEraseComplete b) s = .next (finish s) ∧ exec .eraseSuspend s = .next (finish s)) ∧
    (∀ x, s.hst.engine = .erase x →
      let m := Store.erased s.hst.store x b
      let judged (t : State) : State := updHst Hst.judgeLogPreErase t
      (∀ k, Store.at m k = if k / 16 = x then (if b.getLsbD (k % 16) then some .junk else none)
        else Store.at s.hst.store k) ∧
      (b = 0 →
        let t := { s with hst := { s.hst with
          store := m, engine := .idle,
          calJob := s.hst.calJob.map fun j => if j.sector = x then { j with erasing := false } else j } }
        (4 ≤ x ∧ x < 10 → exec (.sectorEraseComplete b) s = .next (finish (judged (retryOwed t)))) ∧
        (x < 4 ∨ 10 ≤ x → exec (.sectorEraseComplete b) s = .next (finish (judged t)))) ∧
      (b ≠ 0 →
        let retired := s.hst.retired ++ [x]
        let t := raise .storeFault { s with hst := { s.hst with store := m, engine := .idle, retired := retired } }
        let failed (h : Hst) : State := raise .storeFault { t with hst := h }
        let ringGone : Prop := ∀ i : Fin 4, i.val ∈ retired
        let logGone : Prop := ∀ i : Fin 6, 4 + i.val ∈ retired
        (x < 4 → ¬ringGone → exec (.sectorEraseComplete b) s = .next (finish (judged (judgeRing t)))) ∧
        (x < 4 → ringGone → exec (.sectorEraseComplete b) s = .next (finish (judged
          (failed { t.hst with ckptFailed := true, ckptReq := none, ckptRetry := none })))) ∧
        (4 ≤ x → x < 10 → ¬logGone → exec (.sectorEraseComplete b) s = .next (finish (judged t))) ∧
        (4 ≤ x → x < 10 → logGone → exec (.sectorEraseComplete b) s =
          .next (finish (judged (failed { t.hst with logFailed := true })))) ∧
        (10 ≤ x → exec (.sectorEraseComplete b) s = .next (finish (judged
          (failed { t.hst with calFailed := true, calJob := none, calWaiting := [] }))))) ∧
      (suspendDue s = true → exec .eraseSuspend s =
        .next (finish { s with hst := { s.hst with engine := .idle, suspended := some x } })) ∧
      (suspendDue s = false → exec .eraseSuspend s = .next (finish s)) ∧
      (suspendDue s = true ↔ s.hst.reads ≠ [] ∨ s.hst.queue ≠ [] ∧ s.hst.logFailed = false ∨
        s.hst.ckptFailed = false ∧ (s.hst.ckptRetry ≠ none ∨ s.hst.ckptReq ≠ none) ∧ s.hst.nextPosition ≠ none))

/-- The ends of calendar part programs and of sector erases, and the suspension of an erase. -/
def Obligations.PartsAndErases : Prop := PartProgramComplete ∧ EraseEvents

/-- READ_SNAPSHOT: number 0 and an offset above 95 are RANGE (no other number: log 51); the records held are the pairs of
the index and behind them the pending entries, an offset counting back from the last; a record not held is NOT_FOUND, a pending snapshot is
answered at once, and for a record of the index a slot read is asked for while the request keeps its buffer. -/
def Sys2Proof.Claim.ReadSnapshot : Prop :=
  ∀ (p : Port) (key : SnapshotKey) (s : State), Serves p (.readSnapshot key) s →
    let u := taken p 31 s
    let held : List (Nat × HeldAt) :=
      s.hst.index.map (fun x => (x.1, .slot x.2)) ++ s.hst.queue.map (fun e => (e.snap.number, .queue e.snap))
    let found : Option (Nat × HeldAt) := match key with
      | .number n => held.find? fun x => x.1 == n
      | .offset k => if k < held.length then held[held.length - 1 - k]? else none
    let refused : Prop := key = .number 0 ∨ ∃ k, key = .offset k ∧ 95 < k
    (refused → exec (.readSnapshot p key) s = .next (answered p 31 .range (.detail 1 0) u)) ∧
    (¬refused → found = none → exec (.readSnapshot p key) s = .next (answered p 31 .notFound .empty u)) ∧
    (∀ n r, ¬refused → found = some (n, .queue r) →
      exec (.readSnapshot p key) s = .next (answered p 31 .ok (.snapshot r) u)) ∧
    (∀ n k, ¬refused → found = some (n, .slot k) → exec (.readSnapshot p key) s =
      .next (finish { u with hst := { s.hst with reads := s.hst.reads ++ [(p, n, k)] } }))

/-- SLOT_READ_COMPLETE: recovery's read goes on to the next slot; a port's read answers OK with the record the slot
holds, and NOT_FOUND with the pair taken out of the index where it holds none; a slot that has decayed reads INVALID
(log 8). With no slot read in progress nothing happens (log 3). -/
def Sys2Proof.Claim.SlotReadComplete : Prop :=
  ∀ (decayed : Bool) (s : State), s.sup.powered = true →
    let store (k : Nat) : Store := if decayed then Store.put s.hst.store k .junk else s.hst.store
    ((∀ who k, s.hst.engine ≠ .read who k) → exec (.slotReadComplete decayed) s = .next (finish s)) ∧
    (∀ k, s.hst.engine = .read .recovery k → exec (.slotReadComplete decayed) s = .next (finish { s with
      hst := { s.hst with engine := .idle, store := store k }, sup := { s.sup with unread := s.sup.unread.tail } })) ∧
    (∀ p n k, s.hst.engine = .read (.port p n) k →
      let t := { s with hst := { s.hst with engine := .idle, store := store k, reads := s.hst.reads.tail } }
      (∀ r, decayed = false → Store.at s.hst.store k = some (.snapshot r) →
        exec (.slotReadComplete decayed) s = .next (answered p 31 .ok (.snapshot r) t)) ∧
      (decayed = true ∨ (∀ r, Store.at s.hst.store k ≠ some (.snapshot r)) →
        exec (.slotReadComplete decayed) s = .next (answered p 31 .notFound .empty { t with
          hst := { t.hst with index := s.hst.index.filter fun x => x.1 != n } })))

/-- LOCK_ARCHIVE and UNLOCK_ARCHIVE: a list that is empty, longer than 6 or names a sector outside 4..9 is RANGE; else
the sectors named are locked, but for one under erase, or unlocked, the other locks stand, the log pre-erase is judged,
and the six locks are answered. -/
def Sys2Proof.Claim.ArchiveLocks : Prop :=
  ∀ (p : Port) (l : SectorList) (s : State),
    let bad : Prop := ∃ x, l = .list x ∧ (x = [] ∨ 6 < x.length ∨ ∃ k ∈ x, k < 4 ∨ 9 < k)
    let names (k : Nat) : Prop := l = .all ∨ ∃ x, l = .list x ∧ k ∈ x
    let result (on : Bool) (code : Nat) (v : Vector Bool 6) : State := { taken p code s with
      hst := ({ s.hst with locks := v } : Hst).judgeLogPreErase }
    (Serves p (.lockArchive l) s →
      (bad → exec (.lockArchive p l) s = .next (answered p 32 .range (.detail 1 0) (taken p 32 s))) ∧
      (¬bad → ∃ v : Vector Bool 6, exec (.lockArchive p l) s = .next (answered p 32 .ok (.locks v) (result true 32 v)) ∧
        ∀ i : Fin 6, (v[i] = true ↔ s.hst.locks[i] = true ∨ names (4 + i) ∧ s.hst.underErase (4 + i) = false))) ∧
    (Serves p (.unlockArchive l) s →
      (bad → exec (.unlockArchive p l) s = .next (answered p 33 .range (.detail 1 0) (taken p 33 s))) ∧
      (¬bad → ∃ v : Vector Bool 6,
        exec (.unlockArchive p l) s = .next (answered p 33 .ok (.locks v) (result false 33 v)) ∧
        ∀ i : Fin 6, (v[i] = true ↔ s.hst.locks[i] = true ∧ ¬names (4 + i))))

/-- READ_SNAPSHOT, the end of a slot read, and the archive locks. -/
def Obligations.ArchiveRequests : Prop := ReadSnapshot ∧ SlotReadComplete ∧ ArchiveLocks

/-! ### Supply, checkpoints and restart (chapter 9) -/

/-- MAINS_WARN_ASSERT and MAINS_WARN_DEASSERT with main supply present. From RUN the assertion is the entry to WARNING:
an erase in progress is suspended, polling stops, the wall time is kept for the resume event, SUPPLY is raised and a
POWER_FAIL checkpoint requested; in DOWN it cancels the debounce. In DOWN the deassertion starts a debounce of 500 ms.
Otherwise only the level changes, and a level that is already there changes nothing. -/
def Sys2Proof.Claim.MainsWarn : Prop :=
  ∀ s : State, s.sup.powered = true →
    (s.sup.mainsWarn = true → exec .mainsWarnAssert s = .next s) ∧
    (s.sup.mainsWarn = false → s.sup.supply = .run → exec .mainsWarnAssert s =
      .next (finish (requestCheckpoint .powerFail (raise .supply { s with
        sup := { s.sup with mainsWarn := true, supply := .warning }
        hst := match s.hst.engine with
          | .erase x => { s.hst with engine := .idle, suspended := some x }
          | _ => s.hst
        ulc := { s.ulc with rest := [], exchange := .none }
        tim := { s.tim with resumeFrom := some { utc := s.tim.utc, valid := s.tim.valid } } })))) ∧
    (s.sup.mainsWarn = false → s.sup.supply = .down → exec .mainsWarnAssert s =
      .next (finish { s with sup := { s.sup with mainsWarn := true, debounce := none } })) ∧
    (s.sup.mainsWarn = false → s.sup.supply = .starting ∨ s.sup.supply = .warning → exec .mainsWarnAssert s =
      .next (finish { s with sup := { s.sup with mainsWarn := true } })) ∧
    (s.sup.mainsWarn = false → exec .mainsWarnDeassert s = .next s) ∧
    (s.sup.mainsWarn = true → s.sup.supply = .down → exec .mainsWarnDeassert s =
      .next (finish { s with sup := { s.sup with mainsWarn := false, debounce := some (s.tim.runMs + 500) } })) ∧
    (s.sup.mainsWarn = true → s.sup.supply ≠ .down → exec .mainsWarnDeassert s =
      .next (finish { s with sup := { s.sup with mainsWarn := false } }))

/-- The state at the entry to RUN: SUPPLY is raised and the sequence number absent (R5, R165). -/
def Sys2Proof.Claim.inRun (s : State) : State :=
  raise .supply { s with sup := { s.sup with supply := .run }, frx := { s.frx with lastSeq := none } }

/-- The resume event from the wall time kept (R48). -/
def Sys2Proof.Claim.resumed (s : State) : State :=
  stepEvent true (match s.tim.resumeFrom with
    | some w => if w.valid then some (localSeconds w.utc s.tim.offset) else none
    | none => none) s

/-- What an entry to RUN may lead to: polling and the resume event, in that order where no cap record expires on it, and
in either order where one does (R48, R127; log 5); a step comes after both (log 58). -/
def Sys2Proof.Claim.RunEntered (s t : State) : Prop :=
  (capExpiryDue s = false → t = resumed (beginCycle (inRun s))) ∧
  (capExpiryDue s = true → t = resumed (beginCycle (inRun { s with draws := s.draws + 1 })) ∨
    t = beginCycle (resumed (inRun { s with draws := s.draws + 1 })))

/-- A ride-through is counted and a PERIODIC checkpoint requested (R164, R165). -/
def Sys2Proof.Claim.rodeThrough (s : State) : State :=
  requestCheckpoint .periodic
    { s with sup := { s.sup with debounce := none, rideThrough := satAdd s.sup.rideThrough 1 } }

/-- SUPPLY_DEBOUNCE_EXPIRY in DOWN with a debounce running, to whose end run time passes (log 2), leads back to RUN with a
ride-through. WRITE_SEQUENCE_END in
WARNING, once the pending queue is empty or the log FAILED, no checkpoint carrying POWER_FAIL waits, and the engine is
free with no read waiting, leads to the RESTART's reset, to DOWN while MAINS_WARN is asserted, or back to RUN with a
ride-through. Each does nothing where these conditions fail (log 3). -/
def Sys2Proof.Claim.SupplyReturns : Prop :=
  ∀ s : State, s.sup.powered = true →
    (∀ t, s.sup.supply = .down → s.sup.debounce = some t →
      ∃ u, RunEntered (rodeThrough (passTo t s)) u ∧ exec .supplyDebounceExpiry s = .next (finish u)) ∧
    (s.sup.supply ≠ .down ∨ s.sup.debounce = none → exec .supplyDebounceExpiry s = .next (finish s)) ∧
    (let ended : Prop := s.sup.supply = .warning ∧ (s.hst.queue = [] ∨ s.hst.logFailed = true) ∧
      (∀ c, s.hst.ckptReq = some c → Cause.powerFail.isIn c = false) ∧
      (∀ c, s.hst.ckptRetry = some c → Cause.powerFail.isIn c.causes = false) ∧
      s.hst.engine = .idle ∧ s.hst.reads = []
     (¬ended → exec .writeSequenceEnd s = .next (finish s)) ∧
     (ended → s.sup.restarting = true → exec .writeSequenceEnd s = .next (resetEngine s)) ∧
     (ended → s.sup.restarting = false → s.sup.mainsWarn = true → exec .writeSequenceEnd s =
       .next (finish (raise .supply { s with sup := { s.sup with supply := .down, debounce := none } }))) ∧
     (ended → s.sup.restarting = false → s.sup.mainsWarn = false →
       ∃ u, RunEntered (rodeThrough s) u ∧ exec .writeSequenceEnd s = .next (finish u)))

/-- The Supply Monitor's events: MAINS_WARN_ASSERT, MAINS_WARN_DEASSERT, SUPPLY_DEBOUNCE_EXPIRY and
WRITE_SEQUENCE_END. -/
def Obligations.SupplyEvents : Prop := MainsWarn ∧ SupplyReturns

/-- The checkpoint selected is that of a valid position, both slots holding its halves with one sequence number, and it is
the newest: every other's number lies 1 to 2^31 − 1 behind it modulo 2^32. None is selected where none is valid. -/
def Sys2Proof.Claim.NewestCheckpoint : Prop :=
  ∀ m : Store,
    (∀ p c, checkpointAt m p = some c ↔ Store.at m (2 * p) = some (.half 0 c) ∧
      ∃ d, Store.at m (2 * p + 1) = some (.half 1 d) ∧ d.seq = c.seq) ∧
    (selectNewest (ringCheckpoints m) = none ↔ ∀ p, p < 32 → checkpointAt m p = none) ∧
    (∀ p c, p < 32 → checkpointAt m p = some c →
      (∀ q d, q < 32 → q ≠ p → checkpointAt m q = some d → d.seq < 4294967296 ∧
        1 ≤ ((c.seq : Int) - d.seq) % 4294967296 ∧ ((c.seq : Int) - d.seq) % 4294967296 ≤ 2147483647) →
      selectNewest (ringCheckpoints m) = some (p, c))

/-- Recovery's read in progress ends: the engine is idle behind it (log 27). -/
def Sys2Proof.Claim.readEnded (h : Hst) : Hst :=
  { h with engine := match h.engine with
      | .read .recovery _ => .idle
      | e => e }

/-- RECOVERY_CHECKPOINT_SCAN at its stage, whatever reads remain (log 27): every part of the newest valid checkpoint of
the ring goes to its block (the passive sector: log 42) and the ring goes on behind it; with none the factory values stand, also for what STARTING had
counted (log 41), the ring goes on in its first blank sector, and STORE_FAULT is raised where a ring slot is not BLANK.
The log is read next. At any other moment nothing happens (log 3). -/
def Sys2Proof.Claim.CheckpointScan : Prop :=
  ∀ s : State, s.sup.powered = true →
    let due : Prop := s.sup.supply = .starting ∧ s.sup.stage = .ring
    let used : Prop := ∃ k, k < 64 ∧ Store.at s.hst.store k ≠ none
    (¬due → exec .recoveryCheckpointScan s = .next (finish s)) ∧
    (due → ∃ u, exec .recoveryCheckpointScan s = .next (finish u) ∧ u.sup.supply = .starting ∧ u.sup.stage = .log ∧
      u.sup.unread = (List.range 96).map (64 + ·) ∧ u.hst.store = s.hst.store ∧ (u.sup.ringHeld = true ↔ used) ∧
      (∀ p c, selectNewest (ringCheckpoints s.hst.store) = some (p, c) →
        u.reg = c.reg ∧ u.frx = { s.frx with counters := c.counters } ∧ u.netting = c.netting ∧ u.set = c.set ∧
        u.tim.offset = c.offset ∧ u.tim.lastClose = c.lastClose ∧ u.tim.resumeFrom = some c.capture ∧
        u.cal.designation = c.cal.designation ∧ u.cal.imageHeld = c.cal.designation.isSome ∧
        u.cal.persisted = c.cal.persisted ∧ u.cal.passiveAt = c.cal.passiveAt ∧
        u.cal.activation = c.cal.activation ∧ u.cal.map = c.cal.map ∧ u.xcc.cfg = c.caps ∧
        (∀ i : Fin 2, u.cal.lines[i].source = c.cal.sources[i] ∧ u.cal.lines[i].virt = c.cal.virts[i]) ∧
        (∀ i : Fin 4, u.ulc.units[i].cfg = c.units[i]) ∧ u.ulc.weights = c.weights ∧ u.premLock = c.premLock ∧
        u.upt.mask = c.uptMask ∧ u.ppt.mask = c.pptMask ∧
        u.sup.selected = some { period := c.reg.period, causes := c.causes } ∧
        u.hst.ckptSector = p / 8 ∧ u.hst.ckptLast = some (p % 8) ∧ u.hst.newestSeq = some c.seq) ∧
      (selectNewest (ringCheckpoints s.hst.store) = none →
        u.reg = .factory ∧ u.frx = { s.frx with counters := .zero } ∧ u.netting = .vector ∧ u.set = s.set ∧
        u.xcc = s.xcc ∧ u.ulc = s.ulc ∧ u.cal = s.cal ∧ u.tim = s.tim ∧ u.sup.selected = none ∧
        u.hst.ckptLast = none ∧ u.hst.newestSeq = s.hst.newestSeq ∧
        (∀ x, x < 4 → Store.sectorBlank s.hst.store x = true →
          (∀ y, y < x → Store.sectorBlank s.hst.store y = false) → u.hst.ckptSector = x) ∧
        ((∀ x, x < 4 → Store.sectorBlank s.hst.store x = false) → u.hst.ckptSector = 0) ∧
        (¬used → u.upt = s.upt ∧ u.ppt = s.ppt) ∧
        (used → u.upt = s.upt.raise .storeFault ∧ u.ppt = s.ppt.raise .storeFault)))

/-- A sector needs a recovery erase: it is not all BLANK, and it is a ring sector other than the current one that holds no
valid checkpoint, a log sector other than the current one of which no slot is in the index, or an image sector that is
not designated and holds no valid image (R176). -/
def Sys2Proof.Claim.erasedAtRecovery (designation : Option Nat) (h : Hst) (x : Nat) : Prop :=
  Store.sectorBlank h.store x = false ∧
    (x < 4 ∧ x ≠ h.ckptSector ∧ (∀ p, p / 8 = x → checkpointAt h.store p = none) ∨
      4 ≤ x ∧ x < 10 ∧ x ≠ h.curLog ∧ (∀ y ∈ h.index, y.2 / 16 ≠ x) ∨
      10 ≤ x ∧ x < 12 ∧ designation ≠ some x ∧ imageIn h.store x = none)

/-- The log scan: the slot with the highest snapshot number is the write pointer, its sector the current one. From the
sector after it round to that slot, a snapshot joins the index where its number is above every one before it. In an empty
log the write pointer stands before slot 4.0. The snapshots numbered from `n` on are those of the index, in its order. -/
def Sys2Proof.Claim.LogIndex : Prop :=
  ∀ h : Hst,
    let holds (k : Nat) (r : Snapshot) : Prop := 64 ≤ k ∧ k < 160 ∧ Store.at h.store k = some (.snapshot r)
    let g := h.scanLog
    ((∀ k r, ¬holds k r) → g.writePtr = 63 ∧ g.curLog = 4 ∧ g.index = []) ∧
    (∀ k r, holds k r → (∀ j x, holds j x → j ≠ k → x.number < r.number) →
      let place (j : Nat) : Nat := (j + 80 - 16 * (k / 16)) % 96
      g.writePtr = k ∧ g.curLog = k / 16 ∧ g.index.Pairwise (fun a b => a.1 < b.1) ∧
      ∀ n j, (n, j) ∈ g.index ↔ place j ≤ place k ∧ ∃ x, holds j x ∧ x.number = n ∧
        ∀ i y, holds i y → place i < place j → y.number < n) ∧
    (∀ n, g.newerSnapshots n = (g.index.filter fun x => decide (n ≤ x.1)).filterMap fun x =>
      match Store.at h.store x.2 with
      | some (.snapshot r) => some r
      | _ => none) ∧
    g.newestNumber = ((g.index.getLast?).map Prod.fst).getD 0

/-- RECOVERY_LOG_SCAN at its stage, whatever reads remain (log 27, log 59), with `snaps` the snapshots of the index
numbered from the open period on. With none the registers stand but for the flags of R178. With some the Register Bank is
that which the newest close left, the forfeits of all of them added, no close is owed, RESTART_LOSS is set, and a RESTART
checkpoint requested. RESTART_LOSS is also set where the checkpoint loaded was no power-failure one, or where none was
though a ring slot is not BLANK. The recovery erases are listed in ascending order, then the pre-erases; a ring that can
go on nowhere fails. The gap runs from the newest snapshot to the open period. All else stands (log 3). -/
def Sys2Proof.Claim.LogScan : Prop :=
  ∀ s : State, s.sup.powered = true →
    let due : Prop := s.sup.supply = .starting ∧ s.sup.stage = .log
    let h := s.hst.scanLog
    let snaps := h.newerSnapshots s.reg.period
    let loss : Prop := snaps ≠ [] ∨ (∃ x, s.sup.selected = some x ∧ Cause.powerFail.isIn x.causes = false) ∨
      s.sup.selected = none ∧ s.sup.ringHeld = true
    let ringEnds : Prop := s.hst.ckptFailed = false ∧ s.hst.nextRing s.hst.ckptSector = s.hst.ckptSector ∧
      ∀ p, p / 8 = s.hst.ckptSector →
        Store.at s.hst.store (2 * p) ≠ none ∨ Store.at s.hst.store (2 * p + 1) ≠ none
    (¬due → exec .recoveryLogScan s = .next (finish s)) ∧
    (due → ∃ u, exec .recoveryLogScan s = .next (finish u) ∧
      u = { s with
        reg := u.reg, frx := u.frx, set := u.set, tim := u.tim, hst := u.hst, upt := u.upt, ppt := u.ppt
        sup := { s.sup with stage := .images, unread := (List.range 32).map (160 + ·) } } ∧
      u.hst = { readEnded s.hst with
        index := h.index, writePtr := h.writePtr, curLog := h.curLog, eraseList := u.hst.eraseList
        ckptFailed := u.hst.ckptFailed, ckptReq := u.hst.ckptReq, ckptRetry := u.hst.ckptRetry
        gap := if h.newestNumber < s.reg.period - 1 then some (s.reg.period - 1 - h.newestNumber) else none } ∧
      (ringEnds → u.hst.ckptFailed = true ∧ u.hst.ckptReq = none ∧ u.hst.ckptRetry = none ∧
        u.upt = s.upt.raise .storeFault ∧ u.ppt = s.ppt.raise .storeFault) ∧
      (¬ringEnds → u.hst.ckptFailed = s.hst.ckptFailed ∧ u.hst.ckptRetry = s.hst.ckptRetry ∧ u.upt = s.upt ∧
        u.ppt = s.ppt ∧ u.hst.ckptReq = if snaps = [] ∨ s.hst.ckptFailed = true then s.hst.ckptReq
          else some (s.hst.ckptReq.getD 0 ||| Cause.restart.bit)) ∧
      (∃ pre post, u.hst.eraseList = pre ++ post ∧ pre.Pairwise (· < ·) ∧
        (∀ x, x ∈ pre ↔ erasedAtRecovery s.cal.designation h x) ∧
        ∀ x ∈ post, x = h.nextLog h.curLog ∨ x = h.nextRing h.ckptSector) ∧
      (u.reg.flags.restartLoss = true ↔ loss ∨ snaps = [] ∧ s.reg.flags.restartLoss = true) ∧
      (snaps = [] → { u.reg with flags := s.reg.flags } = s.reg ∧ u.set = s.set ∧ u.tim = s.tim ∧ u.frx = s.frx ∧
        u.reg.flags = { s.reg.flags with
          restartLoss := u.reg.flags.restartLoss, timeInvalidSeen := s.reg.flags.timeInvalidSeen || !s.tim.valid }) ∧
      (∀ r, snaps.getLast? = some r →
        u.reg.ti = r.ti ∧ u.reg.te = r.te ∧ u.reg.tiOpen = r.ti ∧ u.reg.teOpen = r.te ∧ u.reg.ri = s.reg.ri ∧
        u.reg.re = s.reg.re ∧ u.reg.imp = .replicate 8 0 ∧ u.reg.exp = .replicate 8 0 ∧ u.reg.credit = r.creditOut ∧
        u.reg.period = r.number + 1 ∧ u.reg.openTime = r.closeTime ∧
        u.reg.flags = { PeriodFlags.clear with restartLoss := true, timeInvalidSeen := !s.tim.valid } ∧
        u.reg.forfeit = snaps.foldl (fun f x => (f + x.forfeit) % 1000000000) s.reg.forfeit ∧
        u.frx = { s.frx with counters := .zero } ∧ u.set = { s.set with owed := none } ∧
        u.tim = { s.tim with lastClose := match s.tim.lastClose, r.billingDate with
          | some a, some b => some (max a b)
          | none, some b => some b
          | a, none => a }))

/-- RECOVERY_CALENDAR_LOAD at its stage, whatever reads remain (log 27): the active calendar is the designated image, or
the built-in calendar where none is designated or held; the passive calendar is its image where one was written (in the
sector of log 42), else absent, with no activation time. STORE_FAULT is raised where an image named is not held. The band
registers are folded; XCC is UNCAPPED without a cap, FAILSAFE with health LOST and fail-safe enabled, else NORMAL, and
hands its result on; each enabled unit is PROBING; the band is evaluated. STARTING is left for RUN, or while MAINS_WARN is
asserted for WARNING with a checkpoint pending, else DOWN. All else stands (log 3). -/
def Sys2Proof.Claim.CalendarLoad : Prop :=
  ∀ s : State, s.sup.powered = true →
    let due : Prop := s.sup.supply = .starting ∧ s.sup.stage = .images
    let activeLost : Prop := ∃ k, s.cal.designation = some k ∧ imageIn s.hst.store k = none
    let passiveLost : Prop := s.cal.persisted = true ∧ imageIn s.hst.store s.cal.passiveAt = none
    (¬due → exec .recoveryCalendarLoad s = .next (finish s)) ∧
    (due → ∃ v u, exec .recoveryCalendarLoad s = .next (finish u) ∧
      v = { s with
        cal := v.cal, reg := s.reg.fold v.cal.active.nb v.cal.active.fallback, xcc := v.xcc, ulc := v.ulc
        hst := readEnded s.hst, sup := { s.sup with stage := .done, unread := [] }
        upt := { s.upt with notices := v.upt.notices }, ppt := { s.ppt with notices := v.ppt.notices } } ∧
      v.cal = { s.cal with
        active := v.cal.active, designation := v.cal.designation, imageHeld := v.cal.imageHeld
        passive := v.cal.passive, persisted := v.cal.persisted, activation := v.cal.activation
        band := (evaluate v.tim v.cal).1, source := (evaluate v.tim v.cal).2 } ∧
      (∀ k c, s.cal.designation = some k → imageIn s.hst.store k = some c →
        v.cal.active = c ∧ v.cal.designation = some k ∧ v.cal.imageHeld = true) ∧
      (s.cal.designation = none ∨ activeLost →
        v.cal.active = .builtIn ∧ v.cal.designation = none ∧ v.cal.imageHeld = false) ∧
      (∀ c, s.cal.persisted = true → imageIn s.hst.store s.cal.passiveAt = some c →
        v.cal.passive = some c ∧ v.cal.persisted = true ∧ v.cal.activation = s.cal.activation) ∧
      (s.cal.persisted = false ∨ passiveLost →
        v.cal.passive = none ∧ v.cal.persisted = false ∧ v.cal.activation = none) ∧
      (∃ told : BitVec 11, v.upt.notices = s.upt.notices ||| told ∧ v.ppt.notices = s.ppt.notices ||| told ∧
        ∀ n : Notice, told &&& n.bit ≠ 0 ↔
          n = .storeFault ∧ (activeLost ∨ passiveLost) ∨ n = .band ∧ v.cal.band ≠ s.cal.band) ∧
      v.xcc = { s.xcc with
        state := v.xcc.state, q := 0, holdEnd := none, load := none, allowance := v.xcc.allowance } ∧
      (s.xcc.cfg.ceff = none → v.xcc.state = .uncapped ∧ v.xcc.allowance = none) ∧
      (s.xcc.cfg.ceff ≠ none → s.xcc.cfg.fsEnable = true → s.frx.health = .lost →
        v.xcc.state = .failsafe ∧ v.xcc.allowance = some s.xcc.cfg.fsc) ∧
      (s.xcc.cfg.ceff ≠ none → ¬(s.xcc.cfg.fsEnable = true ∧ s.frx.health = .lost) →
        v.xcc.state = .normal ∧ v.xcc.allowance = none) ∧
      v.ulc = { s.ulc with
        units := v.ulc.units, handState := v.xcc.state, handA := v.xcc.allowance, pool := v.ulc.pool
        noActive := v.ulc.noActive } ∧
      (∀ i : Fin 4, v.ulc.units[i] = { s.ulc.units[i] with
        link := if s.ulc.units[i].cfg.enable then .probing else .disabled, allowance := v.ulc.units[i].allowance }) ∧
      v.ulc.reshare = v.ulc ∧
      (s.sup.mainsWarn = false → RunEntered v u) ∧
      (s.sup.mainsWarn = true → v.hst.checkpointPending = true →
        u = requestCheckpoint .powerFail (raise .supply { v with sup := { v.sup with supply := .warning } })) ∧
      (s.sup.mainsWarn = true → v.hst.checkpointPending = false →
        u = raise .supply { v with sup := { v.sup with supply := .down, debounce := none } }))

/-- What the scans of recovery find in the store: the checkpoint they select, and the index with the write pointer. -/
def Obligations.RecoveryFindings : Prop := NewestCheckpoint ∧ LogIndex

/-- The three ends of recovery's reads. -/
def Obligations.Recovery : Prop := CheckpointScan ∧ LogScan ∧ CalendarLoad

/-! ### Master ports (chapter 10) and request frames (chapter 11) -/

/-- The status of a request that is not served, in the order of the checks: DENIED without authority, STATE outside RUN,
LOCKED for what the premises lock holds back, RANGE without detail for an enumeration or name outside its list. -/
def Sys2Proof.Claim.refusal (p : Port) (q : Request) (s : State) : Option (Status × Answer) :=
  if authority p (Request.code q) = false then some (.denied, .empty)
  else if s.sup.supply ≠ .run ∧ Request.code q ≠ 35 then some (.state, .empty)
  else if p = .ppt ∧ s.premLock = true ∧ Request.held q = true then some (.locked, .empty)
  else if Request.fieldsOk q = false then some (.range, .detail 0 0)
  else none

/-- Every request of the catalogue reaches its owner only past the checks of R184 in their order. With the buffer
occupied it is answered BUSY behind the responses waiting, or counted as dropped with four such waiting. The Utility
Port has authority for every code and the Premises Port for fourteen. -/
def Obligations.RequestChecks : Prop :=
  ∀ (i : Instr) (p : Port) (q : Request) (s : State), i.request = some (p, q) → s.sup.powered = true →
    let x := s.port p
    (∀ st a, x.buffer = none → refusal p q s = some (st, a) →
      exec i s = .next (answered p (Request.code q) st a (taken p (Request.code q) s))) ∧
    (x.buffer = none → refusal p q s = none →
      let r := serve p q (taken p (Request.code q) s)
      (∀ st a, r.2 = some (st, a) → exec i s = .next (answered p (Request.code q) st a r.1)) ∧
      (r.2 = none → exec i s = .next (finish r.1))) ∧
    (∀ c, x.buffer = some c → x.waitingOthers < 4 → exec i s = .next (finish (s.updPort p fun x => { x with
      tx := x.tx ++ [{ own := false, resp := { code := Request.code q, status := .busy, answer := .empty } }] }))) ∧
    (∀ c, x.buffer = some c → 4 ≤ x.waitingOthers →
      exec i s = .next (finish (s.updPort p fun x => { x with dropped := satAdd x.dropped 1 }))) ∧
    authority .upt (Request.code q) = true ∧
    (authority .ppt (Request.code q) = true ↔
      Request.code q ∈ [3, 6, 18, 23, 24, 26, 28, 30, 31, 35, 36, 37, 38, 39])

/-- READ_TIME, READ_CALENDAR, READ_CAPS, READ_UNITS and GET_STATUS answer what they read, item by item, and change nothing;
GET_STATUS is served in every supply state. A hold is shown while it runs (log 49), its remaining time in milliseconds
(log 44). READ_CALENDAR answers NOT_FOUND for an absent
passive calendar and, before it looks for one, RANGE for a day index above 11 (log 19), its index read for DAY alone (log 45). -/
def Obligations.ReportRequests : Prop :=
  ∀ (p : Port) (s : State),
    (Serves p .readTime s → exec (.readTime p) s = .next (answered p 6 .ok (.time
      { utc := s.tim.utc, valid := s.tim.valid, offset := s.tim.offset, localDay := s.tim.localSec / 86400,
        weekday := weekdayOf (s.tim.localSec / 86400), secondOfDay := s.tim.localSec % 86400,
        runSeconds := s.tim.runMs / 1000, lastClose := s.tim.lastClose }) (taken p 6 s))) ∧
    (Serves p .readCaps s →
      let c := s.xcc.cfg
      let hold : Option Nat := match s.xcc.holdEnd with
        | some t => if s.tim.runMs < t then some t else none
        | none => none
      exec (.readCaps p) s = .next (answered p 26 .ok (.caps
        { util := c.util, prem := c.prem, ceff := c.ceff, state := s.xcc.state, q := s.xcc.q, trip := c.trip,
          holdEndSec := hold.map (· / 1000), holdLeft := hold.map (· - s.tim.runMs), lastXs := s.xcc.lastXs,
          load := s.xcc.load, allowance := s.xcc.allowance, fsc := c.fsc, fsEnable := c.fsEnable, hold := c.hold })
        (taken p 26 s))) ∧
    (Serves p .readUnits s → exec (.readUnits p) s = .next (answered p 30 .ok (.units
      { units := Vector.ofFn fun i =>
          let u := s.ulc.units[i]
          { entry := u, effStandby := u.cfg.standby && !u.cfg.maskOff, active := u.isActive }
        weights := s.ulc.weights, handState := s.ulc.handState, handA := s.ulc.handA, pool := s.ulc.pool,
        noActive := s.ulc.noActive }) (taken p 30 s))) ∧
    (s.sup.powered = true → (s.port p).buffer = none →
      let h := s.hst
      let x := s.port p
      let doing : Activity := match h.engine with
        | .idle => .idle
        | .read _ _ => .read
        | .erase _ => .erase
        | _ => .program
      exec (.getStatus p) s = .next (answered p 35 .ok (.status
        { supply := s.sup.supply, rideThrough := s.sup.rideThrough, lostCkpt := s.sup.lostCkpt,
          restarting := s.sup.restarting, health := s.frx.health, relock := s.frx.relock, lostSeen := s.frx.lostSeen,
          valid := s.tim.valid, band := s.cal.band, source := s.cal.source,
          debounced := Vector.ofFn fun i => s.cal.lines[i].debounced,
          effective := Vector.ofFn fun i => s.cal.lines[i].effective, period := s.reg.period, owed := s.set.owed,
          curt := s.xcc.state, ceff := s.xcc.cfg.ceff, allowance := s.xcc.allowance,
          links := Vector.ofFn fun i => s.ulc.units[i].link,
          notFollowing := Vector.ofFn fun i => s.ulc.units[i].notFollowing, noActive := s.ulc.noActive,
          activity := if h.suspended = none then doing else .suspended doing, ckptFailed := h.ckptFailed,
          logFailed := h.logFailed, calFailed := h.calFailed, retired := h.retired, pendingCount := h.queue.length,
          locks := h.locks, gap := h.gap, premLock := s.premLock, notices := x.notices, mask := x.mask,
          viewState := match x.view with
            | .none => 0
            | .held _ _ => 1
            | .expired _ _ => 2
          stalled := x.stalled, bad := x.bad, dropped := x.dropped }) (taken p 35 s))) ∧
    (∀ calendar part index, Serves p (.readCalendar calendar part index) s →
      let named := if calendar = 0 then some s.cal.active else s.cal.passive
      let line (l : OvLine) : LineReport :=
        { debounced := l.debounced, source := l.source, virt := l.virt, effective := l.effective }
      let summary : SummaryExtras :=
        { band := s.cal.band, source := s.cal.source, lines := Vector.ofFn fun i => line s.cal.lines[i],
          map := s.cal.map, activation := s.cal.activation, persisted := s.cal.persisted,
          owed := match s.set.owed with
            | some o => o.calFlag
            | none => false
          designation := s.cal.designation }
      (part = 4 → 11 < index → exec (.readCalendar p calendar part index) s =
        .next (answered p 18 .range (.detail 3 index) (taken p 18 s))) ∧
      (part ≠ 4 ∨ index ≤ 11 → named = none → exec (.readCalendar p calendar part index) s =
        .next (answered p 18 .notFound .empty (taken p 18 s))) ∧
      (∀ c, part ≠ 4 ∨ index ≤ 11 → named = some c → exec (.readCalendar p calendar part index) s =
        .next (answered p 18 .ok (match part with
          | 0 => .calendarSummary c summary
          | 1 => .calendarPart c .bands
          | 2 => .calendarPart c .seasons
          | 3 => .calendarPart c .weeks
          | 4 => .calendarPart c (.day (Fin.ofNat 12 index))
          | _ => .calendarPart c .specials) (taken p 18 s))))

/-- The register state as READ_REGISTERS and a view copy it: band registers at or above nb read 0 (R36, R193). -/
def Sys2Proof.Claim.registersNow (s : State) : RegCopy :=
  let nb := s.cal.active.nb
  { ti := s.reg.ti, te := s.reg.te, tiOpen := s.reg.tiOpen, teOpen := s.reg.teOpen, ri := s.reg.ri, re := s.reg.re,
    imp := Vector.ofFn fun b : Fin 8 => if b.val < nb then s.reg.imp[b] else 0,
    exp := Vector.ofFn fun b : Fin 8 => if b.val < nb then s.reg.exp[b] else 0,
    credit := s.reg.credit, forfeit := s.reg.forfeit, period := s.reg.period, openTime := s.reg.openTime,
    band := s.cal.band, capture := if s.tim.valid then some s.tim.utc else none }

/-- FREEZE_VIEW holds a copy of the register state for 10 s; READ_REGISTERS answers the live registers without a view,
the copy with the time left while one is held, and VIEW_EXPIRED after its expiry; RELEASE_VIEW drops the view and says
what it was; VIEW_EXPIRY makes a held view expired, run time passing to its expiry (log 2), and does nothing without one
(log 3). -/
def Obligations.Views : Prop :=
  ∀ (p : Port) (s : State),
    (Serves p .freezeView s → exec (.freezeView p) s = .next (answered p 38 .ok
      (.view (if s.tim.valid then some s.tim.utc else none) ((s.tim.runMs + 10000) / 1000))
      (s.updPort p fun x => { x with
        buffer := some 38, view := .held (registersNow s) (s.tim.runMs + 10000) }))) ∧
    (Serves p .readRegisters s →
      ((s.port p).view = .none → exec (.readRegisters p) s =
        .next (answered p 3 .ok (.registers (registersNow s) none) (taken p 3 s))) ∧
      (∀ c t, (s.port p).view = .held c t → exec (.readRegisters p) s =
        .next (answered p 3 .ok (.registers c (some (t - s.tim.runMs))) (taken p 3 s))) ∧
      (∀ c t, (s.port p).view = .expired c t →
        exec (.readRegisters p) s = .next (answered p 3 .viewExpired .empty (taken p 3 s)))) ∧
    (Serves p .releaseView s → exec (.releaseView p) s = .next (answered p 39 .ok
      (.released (match (s.port p).view with
        | .none => 0
        | .held _ _ => 1
        | .expired _ _ => 2)) (s.updPort p fun x => { x with buffer := some 39, view := .none }))) ∧
    (s.sup.powered = true →
      (∀ c t, (s.port p).view = .held c t → exec (.viewExpiry p) s =
        .next (finish ((passTo t s).updPort p fun x => { x with view := .expired c t }))) ∧
      ((∀ c t, (s.port p).view ≠ .held c t) → exec (.viewExpiry p) s = .next (finish s)))

/-- A notice raised is added to the sets of both ports and changes nothing else of them. A port's attention line, UATN or
PATN, is asserted exactly while a kind is both in its set and in its mask (R189, R190). -/
def Sys2Proof.Claim.Attention : Prop :=
  (∀ (n : Notice) (p : Port) (s : State),
    (raise n s).port p = { s.port p with notices := (s.port p).notices ||| n.bit }) ∧
  ∀ x : PortState, x.attention = true ↔ ∃ i : Fin 11, x.notices.getLsbD i = true ∧ x.mask.getLsbD i = true

/-- READ_NOTICES, SET_NOTICE_MASK, LOCK_PREMISES, UNLOCK_PREMISES, RESTART, CLEAR_FRAME_LOSS and SET_NETTING_METHOD: what
each stores and answers, with the checkpoint each accepted setting requests. A second RESTART adds nothing. -/
def Sys2Proof.Claim.PortSettings : Prop :=
  ∀ (p : Port) (s : State),
    (Serves p .readNotices s → exec (.readNotices p) s = .next (answered p 36 .ok (.notices (s.port p).notices)
      (s.updPort p fun x => { x with buffer := some 36, notices := 0 }))) ∧
    (Serves p (.setNoticeMask none) s → exec (.setNoticeMask p none) s =
      .next (answered p 37 .ok (.mask (s.port p).mask) (taken p 37 s))) ∧
    (∀ m : BitVec 16, Serves p (.setNoticeMask (some m)) s →
      (m.toNat < 2048 → exec (.setNoticeMask p (some m)) s = .next (answered p 37 .ok (.mask (m.setWidth 11))
        (requestCheckpoint .config (s.updPort p fun x => { x with buffer := some 37, mask := m.setWidth 11 })))) ∧
      (2048 ≤ m.toNat → exec (.setNoticeMask p (some m)) s =
        .next (answered p 37 .range (.detail 1 0) (taken p 37 s)))) ∧
    (Serves p .lockPremises s → exec (.lockPremises p) s = .next (answered p 40 .ok (.premLock true)
      (requestCheckpoint .config { taken p 40 s with premLock := true }))) ∧
    (Serves p .unlockPremises s → exec (.unlockPremises p) s = .next (answered p 41 .ok (.premLock false)
      (requestCheckpoint .config { taken p 41 s with premLock := false }))) ∧
    (Serves p .restart s →
      (s.sup.restarting = false → exec (.restart p) s = .next (answered p 34 .accepted .empty
        (requestCheckpoint .restart { taken p 34 s with sup := { s.sup with restarting := true } }))) ∧
      (s.sup.restarting = true → exec (.restart p) s = .next (answered p 34 .accepted .empty (taken p 34 s)))) ∧
    (Serves p .clearFrameLoss s → exec (.clearFrameLoss p) s = .next (answered p 1 .ok .empty
      { taken p 1 s with frx := { s.frx with lostSeen := false } })) ∧
    (Serves p (.setNettingMethod none) s → exec (.setNettingMethod p none) s =
      .next (answered p 2 .ok (.method s.netting) (taken p 2 s))) ∧
    (∀ m : Netting, Serves p (.setNettingMethod (some m.code)) s → exec (.setNettingMethod p (some m.code)) s =
      .next (answered p 2 .ok (.method m) (requestCheckpoint .config { taken p 2 s with netting := m })))

/-- The notices with the attention lines, and the requests on notices, the premises lock, RESTART, the lost-seen flag and
the netting method. -/
def Obligations.PortAndMeterSettings : Prop := Attention ∧ PortSettings

/-- A BUSY or BAD_FRAME response waits behind the others, or with four such waiting is dropped and counted (R183). -/
def Sys2Proof.Claim.otherSent (code : Nat) (st : Status) (x : PortState) : PortState :=
  if (x.tx.tail.filter fun e => !e.own).length < 4 then
    { x with tx := x.tx ++ [{ own := false, resp := { code := code, status := st, answer := .empty } }] }
  else { x with dropped := satAdd x.dropped 1 }

/-- The response to the buffered request joins the queue, and where it is sent at once frees the buffer (R182, R183; log 29). -/
def Sys2Proof.Claim.answerSent (p : Port) (code : Nat) (st : Status) (a : Answer) (s : State) : State :=
  s.updPort p fun x => { x with
    tx := x.tx ++ [{ own := true, resp := { code := code, status := st, answer := a } }]
    buffer := if x.tx = [] then none else x.buffer }

/-- A good frame's code and payload. BUSY while the buffer is occupied; else, in the order of the checks, UNKNOWN for a
code 0 or above 41, DENIED, STATE, LOCKED, RANGE without detail for a payload that is not its request's, and the owner's
answer (R182 to R187), whose response begins to be sent at once where no other is (log 29). -/
def Sys2Proof.Claim.PayloadTaken : Prop :=
  ∀ (p : Port) (code : Nat) (payload : List Byte) (s : State),
    let u := taken p code s
    let known : Prop := 1 ≤ code ∧ code ≤ 41
    let allowed : Prop := known ∧ authority p code = true
    let running : Prop := allowed ∧ (s.sup.supply = .run ∨ code = 35)
    let held : Prop := p = .ppt ∧ s.premLock = true ∧ (code = 23 ∨ code = 24 ∨ code = 28 ∧ payload[1]? = some 1#8)
    let ends (st : Status) (a : Answer) : Prop := takePayload p code payload s = answerSent p code st a u
    (∀ c, (s.port p).buffer = some c → takePayload p code payload s = s.updPort p (otherSent code .busy)) ∧
    ((s.port p).buffer = none →
      (¬known → ends .unknown .empty) ∧ (known → ¬allowed → ends .denied .empty) ∧
      (allowed → ¬running → ends .state .empty) ∧ (running → held → ends .locked .empty) ∧
      (running → ¬held →
        ((∀ q, decodeRequest code payload = some q → Request.fieldsOk q = false) → ends .range (.detail 0 0)) ∧
        (∀ q, decodeRequest code payload = some q → Request.fieldsOk q = true →
          let r := serve p q u
          (∀ st a, r.2 = some (st, a) → takePayload p code payload s = answerSent p code st a r.1) ∧
          (r.2 = none → takePayload p code payload s = r.1))))

/-- The characters of a frame carry a start marker, a length, a code, a payload and two check bytes (R200). -/
def Sys2Proof.Claim.FrameOf (frame : List RxChar) (code : Byte) (payload check : List Byte) : Prop :=
  payload.length ≤ 480 ∧ check.length = 2 ∧
    frame.map RxChar.byte = [0xC3#8] ++ leBytes 2 payload.length ++ [code] ++ payload ++ check

/-- The receiver of port `p` has collected `got`, or waits in HUNT with nothing collected (R180). -/
def Sys2Proof.Claim.Collected (p : Port) (got : List RxChar) (s : State) : Prop :=
  got = [] ∧ (s.port p).rx = .hunt ∨ got ≠ [] ∧ ∃ t, (s.port p).rx = .collect got t

/-- A bad frame: counted, and answered BAD_FRAME with a code; the receiver goes to `rx` (R181). -/
def Sys2Proof.Claim.badFrameTo (p : Port) (rx : RxState) (code : Nat) (s : State) : State :=
  s.updPort p fun x => otherSent code .badFrame { x with rx := rx, bad := satAdd x.bad 1 }

/-- REQUEST_FRAME and FRAME_LENGTH_OVERFLOW. Characters short of a frame's end are collected, from HUNT on or behind those
collected before. The frame's end leads to HUNT: with every stop bit there and the check right the code and payload are
taken, otherwise it is a bad frame with its code; characters behind the end are received from there on. A length above
480 is a bad frame of code 0 and leads to IGNORE, where what follows is discarded. In HUNT what is no start marker is
discarded, before a frame too, and in IGNORE everything, the idle time starting anew (R180, R181, R200). -/
def Sys2Proof.Claim.ReceiverFrames : Prop :=
  ∀ (p : Port) (got chars : List RxChar) (s : State), s.sup.powered = true →
    let into (rx : RxState) : State := s.updPort p fun x => { x with rx := rx }
    let run (t : State) : Prop := exec (.requestFrame p chars) s = .next (finish t)
    let ends (t : State) : Prop := run t ∧
      ∀ rest, exec (.requestFrame p (chars ++ rest)) s = exec (.requestFrame p rest) t
    (∀ more code payload check, Collected p got s → FrameOf (got ++ chars ++ more) code payload check → chars ≠ [] →
      let good : Prop := (∀ c ∈ got ++ chars, c.stopOk = true) ∧
        crcBytes ([0xC3#8] ++ leBytes 2 payload.length ++ [code] ++ payload) = check
      (more ≠ [] → run (into (.collect (got ++ chars) s.tim.runMs))) ∧
      (more = [] → good → ends (takePayload p code.toNat payload (into .hunt))) ∧
      (more = [] → ¬good → ends (badFrameTo p .hunt code.toNat s))) ∧
    (∀ a b c rest, Collected p got s → got ++ chars = [a, b, c] → a.byte = 0xC3#8 → chars ≠ [] →
      480 < b.byte.toNat + 256 * c.byte.toNat →
      exec (.requestFrame p (chars ++ rest)) s = .next (finish (badFrameTo p (.ignore s.tim.runMs) 0 s))) ∧
    (∀ n : BitVec 16, (s.port p).rx = .hunt → 480 < n.toNat →
      exec (.frameLengthOverflow p n) s = .next (finish (badFrameTo p (.ignore s.tim.runMs) 0 s))) ∧
    (∀ n : BitVec 16, exec (.frameLengthOverflow p n) s =
      exec (.requestFrame p (([0xC3#8] ++ leBytes 2 n.toNat).map goodChar)) s) ∧
    ((s.port p).rx = .hunt → (∀ c ∈ chars, c.byte ≠ 0xC3#8) → ends s) ∧
    (∀ t, (s.port p).rx = .ignore t → chars ≠ [] → run (into (.ignore s.tim.runMs)))

/-- FRAME_STALL drops a frame begun and counts it; IGNORE_IDLE_EXPIRY leads back to HUNT; RESPONSE_TRANSMIT_COMPLETE takes
the response sent off the queue, the next beginning and freeing the buffer if it answers the buffered request. Run time
passes to the stall and the idle time (log 2), and each does nothing without its occasion (log 3). -/
def Sys2Proof.Claim.PortLinkEvents : Prop :=
  ∀ (p : Port) (s : State), s.sup.powered = true →
    let x := s.port p
    (∀ got t, x.rx = .collect got t → exec (.frameStall p) s = .next (finish
      ((passTo (t + 50) s).updPort p fun x => { x with rx := .hunt, stalled := satAdd x.stalled 1 }))) ∧
    ((∀ got t, x.rx ≠ .collect got t) → exec (.frameStall p) s = .next (finish s)) ∧
    (∀ t, x.rx = .ignore t → exec (.ignoreIdleExpiry p) s = .next (finish
      ((passTo (t + 50) s).updPort p fun x => { x with rx := .hunt }))) ∧
    ((∀ t, x.rx ≠ .ignore t) → exec (.ignoreIdleExpiry p) s = .next (finish s)) ∧
    (x.tx = [] → exec (.responseTransmitComplete p) s = .next (finish s)) ∧
    (∀ e, x.tx = [e] → exec (.responseTransmitComplete p) s =
      .next (finish (s.updPort p fun x => { x with tx := [] }))) ∧
    (∀ e f rest, x.tx = e :: f :: rest → exec (.responseTransmitComplete p) s = .next (finish (s.updPort p fun x =>
      { x with tx := f :: rest, buffer := if f.own then none else x.buffer })))

/-- The receivers and the transmit queues of the ports' links: what a request frame's characters do, what a good frame
leads to, and the stall, idle and transmit events. -/
def Obligations.PortLinks : Prop := ReceiverFrames ∧ PayloadTaken ∧ PortLinkEvents

/-- Every well-formed request is read back whole from its code and payload. -/
def Obligations.RequestReadBack : Prop :=
  ∀ q : Request, q.wf = true → decodeRequest (Request.code q) (Request.payload q) = some q

/-- The frame of a well-formed request, received with good characters by a receiver in HUNT, does exactly what the
request's own command does. -/
def Obligations.FrameDoesItsRequest : Prop :=
  ∀ (i : Instr) (p : Port) (q : Request) (s : State), i.request = some (p, q) → i.wf = true →
    (s.port p).rx = .hunt → exec (.requestFrame p ((Request.frame q).map goodChar)) s = exec i s

/-! ### Invariants -/

/-- The state right after reset is sound: the billing record, the curtailment table, the units, the pending queue with its
slots, and the band. The blank store and the pointers into it are the model's (log 11). -/
def Obligations.ResetIsSafe : Prop := State.reset.Safe

/-- Every step keeps the billing record sound: the residues and registers in range, the band registers with the opening
total summing to the lifetime total modulo 10^9 in both directions, the period number, credit and forfeit in range, the
same of every record the store holds, has pending or is programming, and the store in its canonical form. -/
def Obligations.BillingRecordKept : Prop :=
  ∀ s t : State, s.inv = true → step s = .next t → t.inv = true

/-- Every step keeps the curtailment table: Q within 0..T, and with each curtailment state the presence of the effective
cap, the hold, the load estimate and the site allowance that belongs to it. -/
def Obligations.CurtailmentTableKept : Prop :=
  ∀ s t : State, s.curtOk = true → step s = .next t → t.curtOk = true

/-- Every step keeps the unit states: the counts in their ranges, with each link state the link enable, misses and last
report that belong to it, and only enabled units in the poll cycle. -/
def Obligations.UnitStatesKept : Prop :=
  ∀ s t : State, s.unitsOk = true → step s = .next t → t.unitsOk = true

/-- Every step keeps the pending queue at 2 snapshots or fewer, with the snapshot numbers strictly increasing through the
index and on through the queue, all below the open period's. -/
def Obligations.PendingQueueKept : Prop :=
  ∀ s t : State, s.queueOk = true → step s = .next t → t.queueOk = true

/-- Every step keeps each pending entry bound to a BLANK slot of its own, with a slot in hand for every program that may
yet fail, so that a rebinding always finds one (log 31), and no erase of the sector of such a slot, nor of one that is
archive-locked, is under way. -/
def Obligations.BoundSlotsKept : Prop :=
  ∀ s t : State, s.slotsOk = true → step s = .next t → t.slotsOk = true

/-- Every step keeps the active calendar valid and the band in effect below its nb, and with it the validity of every
calendar that may become the active one: committed for activation, being written, or held as an image. -/
def Obligations.BandKept : Prop :=
  ∀ s t : State, s.bandOk = true → step s = .next t → t.bandOk = true
end

