-- ==== Sys2Proof/Laws/Frames.lean ====
section
/-! SUPPORT. The frames of the shared operations: for each, the parts of the state it leaves alone, one lemma each. -/
namespace Sys2Proof.Machine

/-- A field of a choice between two states is the choice between the fields. -/
theorem ite_fields (c : Prop) [Decidable c] (a b : State) :
    (if c then a else b).frx = (if c then a.frx else b.frx) ∧
    (if c then a else b).netting = (if c then a.netting else b.netting) ∧
    (if c then a else b).reg = (if c then a.reg else b.reg) ∧
    (if c then a else b).tim = (if c then a.tim else b.tim) ∧
    (if c then a else b).cal = (if c then a.cal else b.cal) ∧
    (if c then a else b).set = (if c then a.set else b.set) ∧
    (if c then a else b).xcc = (if c then a.xcc else b.xcc) ∧
    (if c then a else b).ulc = (if c then a.ulc else b.ulc) ∧
    (if c then a else b).hst = (if c then a.hst else b.hst) ∧
    (if c then a else b).sup = (if c then a.sup else b.sup) ∧
    (if c then a else b).upt = (if c then a.upt else b.upt) ∧
    (if c then a else b).ppt = (if c then a.ppt else b.ppt) ∧
    (if c then a else b).premLock = (if c then a.premLock else b.premLock) ∧
    (if c then a else b).draws = (if c then a.draws else b.draws) ∧
    (if c then a else b).pending = (if c then a.pending else b.pending) := by
  split <;> simp

/-- All that a free choice of two courses can do (assumption 5). -/
theorem oneOf_cases (f g : State → State) (s : State) :
    oneOf f g s = f { s with draws := s.draws + 1 } ∨ oneOf f g s = g { s with draws := s.draws + 1 } := by
  unfold oneOf
  split_ifs
  · exact .inl rfl
  · exact .inr rfl

/-- All that two occurrences in free order can do (assumption 5). -/
theorem eitherIf_cases (m : Bool) (f g : State → State) (s : State) :
    eitherIf m f g s = g (f s) ∨ eitherIf m f g s = g (f { s with draws := s.draws + 1 }) ∨
      eitherIf m f g s = f (g { s with draws := s.draws + 1 }) := by
  unfold eitherIf either
  split_ifs
  · exact .inr (oneOf_cases _ _ s)
  · exact .inl rfl

/-- A property both courses keep, and that does not look at the count of free values, is kept. -/
theorem oneOf_keeps {P : State → Prop} {f g : State → State} {s : State} (hs : P s)
    (hd : P s → P { s with draws := s.draws + 1 }) (hf : ∀ t, P t → P (f t)) (hg : ∀ t, P t → P (g t)) :
    P (oneOf f g s) := by
  rcases oneOf_cases f g s with h | h <;> rw [h]
  · exact hf _ (hd hs)
  · exact hg _ (hd hs)

/-- A property both occurrences keep, and that does not look at the count of free values, is kept by both in either
order. -/
theorem eitherIf_keeps {P : State → Prop} (m : Bool) {f g : State → State} {s : State} (hs : P s)
    (hd : P s → P { s with draws := s.draws + 1 }) (hf : ∀ t, P t → P (f t)) (hg : ∀ t, P t → P (g t)) :
    P (eitherIf m f g s) := by
  rcases eitherIf_cases m f g s with h | h | h <;> rw [h]
  · exact hg _ (hf _ hs)
  · exact hg _ (hf _ (hd hs))
  · exact hf _ (hg _ (hd hs))

/-- A course put into a free place among others: no course is lost or made. -/
theorem weave_perm (f : State → State) (l : List (State → State)) (n : Nat) : (weave f l n).1.Perm (f :: l) := by
  induction l generalizing n with
  | nil => exact .refl _
  | cons g rest ih =>
    unfold weave
    split
    · exact .refl _
    · exact ((ih (n + 1)).cons g).trans (.swap f g rest)

/-- A free order of courses is an order of them. -/
theorem freeOrder_perm (l : List (State → State)) (n : Nat) : (freeOrder l n).1.Perm l := by
  induction l with
  | nil => exact .refl _
  | cons f rest ih => exact (weave_perm f _ _).trans (ih.cons f)

/-- All that occurrences in free order can do: they are taken in some order, free values having been counted
(assumption 5). -/
theorem anyOrder_cases (l : List (State → State)) (s : State) :
    ∃ n order, List.Perm order l ∧ anyOrder l s = inTurn order { s with draws := n } :=
  ⟨_, _, freeOrder_perm l s.draws, rfl⟩

/-- A property that each of some courses keeps is kept by all of them in turn. -/
theorem inTurn_keeps {P : State → Prop} {l : List (State → State)} (h : ∀ f ∈ l, ∀ t, P t → P (f t)) :
    ∀ {s : State}, P s → P (inTurn l s) := by
  induction l with
  | nil => exact id
  | cons f rest ih =>
    exact fun hs => ih (fun g hg => h g (.tail _ hg)) (h f (.head _) _ hs)

/-- A property that each of some occurrences keeps, and that does not look at the count of free values, is kept by them in
any order. -/
theorem anyOrder_keeps {P : State → Prop} {l : List (State → State)} {s : State} (hs : P s)
    (hd : ∀ n, P s → P { s with draws := n }) (h : ∀ f ∈ l, ∀ t, P t → P (f t)) : P (anyOrder l s) := by
  obtain ⟨n, order, perm, e⟩ := anyOrder_cases l s
  rw [e]
  exact inTurn_keeps (fun f hf => h f (perm.mem_iff.mp hf)) (hd n hs)

@[simp] theorem raise_frame (n : Notice) (s : State) :
    (raise n s).frx = s.frx ∧ (raise n s).netting = s.netting ∧ (raise n s).reg = s.reg ∧
    (raise n s).tim = s.tim ∧ (raise n s).cal = s.cal ∧ (raise n s).set = s.set ∧ (raise n s).xcc = s.xcc ∧
    (raise n s).ulc = s.ulc ∧ (raise n s).hst = s.hst ∧ (raise n s).sup = s.sup ∧
    (raise n s).premLock = s.premLock ∧ (raise n s).draws = s.draws ∧ (raise n s).pending = s.pending := by
  refine ⟨rfl, rfl, rfl, rfl, rfl, rfl, rfl, rfl, rfl, rfl, rfl, rfl, rfl⟩

@[simp] theorem setFlags_frame (f : PeriodFlags → PeriodFlags) (s : State) :
    (setFlags f s).frx = s.frx ∧ (setFlags f s).netting = s.netting ∧ (setFlags f s).tim = s.tim ∧
    (setFlags f s).cal = s.cal ∧ (setFlags f s).set = s.set ∧ (setFlags f s).xcc = s.xcc ∧
    (setFlags f s).ulc = s.ulc ∧ (setFlags f s).hst = s.hst ∧ (setFlags f s).sup = s.sup ∧
    (setFlags f s).upt = s.upt ∧ (setFlags f s).ppt = s.ppt ∧ (setFlags f s).premLock = s.premLock ∧
    (setFlags f s).draws = s.draws ∧ (setFlags f s).pending = s.pending := by
  refine ⟨rfl, rfl, rfl, rfl, rfl, rfl, rfl, rfl, rfl, rfl, rfl, rfl, rfl, rfl⟩

@[simp] theorem passTo_frame (t : Nat) (s : State) :
    (passTo t s).frx = s.frx ∧ (passTo t s).netting = s.netting ∧ (passTo t s).reg = s.reg ∧
    (passTo t s).cal = s.cal ∧ (passTo t s).set = s.set ∧ (passTo t s).xcc = s.xcc ∧ (passTo t s).ulc = s.ulc ∧
    (passTo t s).hst = s.hst ∧ (passTo t s).sup = s.sup ∧ (passTo t s).upt = s.upt ∧ (passTo t s).ppt = s.ppt ∧
    (passTo t s).premLock = s.premLock ∧ (passTo t s).draws = s.draws ∧ (passTo t s).pending = s.pending := by
  refine ⟨rfl, rfl, rfl, rfl, rfl, rfl, rfl, rfl, rfl, rfl, rfl, rfl, rfl, rfl⟩

@[simp] theorem updHst_frame (f : Hst → Hst) (s : State) :
    (updHst f s).frx = s.frx ∧ (updHst f s).netting = s.netting ∧ (updHst f s).reg = s.reg ∧
    (updHst f s).tim = s.tim ∧ (updHst f s).cal = s.cal ∧ (updHst f s).set = s.set ∧ (updHst f s).xcc = s.xcc ∧
    (updHst f s).ulc = s.ulc ∧ (updHst f s).sup = s.sup ∧ (updHst f s).upt = s.upt ∧ (updHst f s).ppt = s.ppt ∧
    (updHst f s).premLock = s.premLock ∧ (updHst f s).draws = s.draws ∧ (updHst f s).pending = s.pending := by
  refine ⟨rfl, rfl, rfl, rfl, rfl, rfl, rfl, rfl, rfl, rfl, rfl, rfl, rfl, rfl⟩

@[simp] theorem updCounters_frame (f : Counters → Counters) (s : State) :
    (updCounters f s).netting = s.netting ∧ (updCounters f s).reg = s.reg ∧ (updCounters f s).tim = s.tim ∧
    (updCounters f s).cal = s.cal ∧ (updCounters f s).set = s.set ∧ (updCounters f s).xcc = s.xcc ∧
    (updCounters f s).ulc = s.ulc ∧ (updCounters f s).hst = s.hst ∧ (updCounters f s).sup = s.sup ∧
    (updCounters f s).upt = s.upt ∧ (updCounters f s).ppt = s.ppt ∧ (updCounters f s).premLock = s.premLock ∧
    (updCounters f s).draws = s.draws ∧ (updCounters f s).pending = s.pending := by
  refine ⟨rfl, rfl, rfl, rfl, rfl, rfl, rfl, rfl, rfl, rfl, rfl, rfl, rfl, rfl⟩

@[simp] theorem updPort_frame (p : Port) (f : PortState → PortState) (s : State) :
    (State.updPort p f s).frx = s.frx ∧ (State.updPort p f s).netting = s.netting ∧
    (State.updPort p f s).reg = s.reg ∧ (State.updPort p f s).tim = s.tim ∧ (State.updPort p f s).cal = s.cal ∧
    (State.updPort p f s).set = s.set ∧ (State.updPort p f s).xcc = s.xcc ∧ (State.updPort p f s).ulc = s.ulc ∧
    (State.updPort p f s).hst = s.hst ∧ (State.updPort p f s).sup = s.sup ∧
    (State.updPort p f s).premLock = s.premLock ∧ (State.updPort p f s).draws = s.draws ∧
    (State.updPort p f s).pending = s.pending := by
  unfold State.updPort; split <;> simp

@[simp] theorem requestCheckpoint_frame (c : Cause) (s : State) :
    (requestCheckpoint c s).frx = s.frx ∧ (requestCheckpoint c s).netting = s.netting ∧
    (requestCheckpoint c s).reg = s.reg ∧ (requestCheckpoint c s).tim = s.tim ∧
    (requestCheckpoint c s).cal = s.cal ∧ (requestCheckpoint c s).set = s.set ∧
    (requestCheckpoint c s).xcc = s.xcc ∧ (requestCheckpoint c s).ulc = s.ulc ∧
    (requestCheckpoint c s).sup = s.sup ∧ (requestCheckpoint c s).upt = s.upt ∧
    (requestCheckpoint c s).ppt = s.ppt ∧ (requestCheckpoint c s).premLock = s.premLock ∧
    (requestCheckpoint c s).draws = s.draws ∧ (requestCheckpoint c s).pending = s.pending := by
  simp [requestCheckpoint, ite_fields]

@[simp] theorem failCheckpoints_frame (s : State) :
    (failCheckpoints s).frx = s.frx ∧ (failCheckpoints s).netting = s.netting ∧ (failCheckpoints s).reg = s.reg ∧
    (failCheckpoints s).tim = s.tim ∧ (failCheckpoints s).cal = s.cal ∧ (failCheckpoints s).set = s.set ∧
    (failCheckpoints s).xcc = s.xcc ∧ (failCheckpoints s).ulc = s.ulc ∧ (failCheckpoints s).sup = s.sup ∧
    (failCheckpoints s).premLock = s.premLock ∧ (failCheckpoints s).draws = s.draws ∧
    (failCheckpoints s).pending = s.pending := by
  refine ⟨rfl, rfl, rfl, rfl, rfl, rfl, rfl, rfl, rfl, rfl, rfl, rfl⟩

@[simp] theorem judgeRing_frame (s : State) :
    (judgeRing s).frx = s.frx ∧ (judgeRing s).netting = s.netting ∧ (judgeRing s).reg = s.reg ∧
    (judgeRing s).tim = s.tim ∧ (judgeRing s).cal = s.cal ∧ (judgeRing s).set = s.set ∧
    (judgeRing s).xcc = s.xcc ∧ (judgeRing s).ulc = s.ulc ∧ (judgeRing s).sup = s.sup ∧
    (judgeRing s).premLock = s.premLock ∧ (judgeRing s).draws = s.draws ∧ (judgeRing s).pending = s.pending := by
  simp [judgeRing, ite_fields]

@[simp] theorem share_frame (s : State) :
    (share s).frx = s.frx ∧ (share s).netting = s.netting ∧ (share s).reg = s.reg ∧ (share s).tim = s.tim ∧
    (share s).cal = s.cal ∧ (share s).set = s.set ∧ (share s).xcc = s.xcc ∧ (share s).hst = s.hst ∧
    (share s).sup = s.sup ∧ (share s).upt = s.upt ∧ (share s).ppt = s.ppt ∧ (share s).premLock = s.premLock ∧
    (share s).draws = s.draws ∧ (share s).pending = s.pending := by
  refine ⟨rfl, rfl, rfl, rfl, rfl, rfl, rfl, rfl, rfl, rfl, rfl, rfl, rfl, rfl⟩

@[simp] theorem handOn_frame (s : State) :
    (handOn s).frx = s.frx ∧ (handOn s).netting = s.netting ∧ (handOn s).reg = s.reg ∧ (handOn s).tim = s.tim ∧
    (handOn s).cal = s.cal ∧ (handOn s).set = s.set ∧ (handOn s).xcc = s.xcc ∧ (handOn s).hst = s.hst ∧
    (handOn s).sup = s.sup ∧ (handOn s).upt = s.upt ∧ (handOn s).ppt = s.ppt ∧ (handOn s).premLock = s.premLock ∧
    (handOn s).draws = s.draws ∧ (handOn s).pending = s.pending := by
  refine ⟨rfl, rfl, rfl, rfl, rfl, rfl, rfl, rfl, rfl, rfl, rfl, rfl, rfl, rfl⟩

@[simp] theorem beginCycle_frame (s : State) :
    (beginCycle s).frx = s.frx ∧ (beginCycle s).netting = s.netting ∧ (beginCycle s).reg = s.reg ∧
    (beginCycle s).tim = s.tim ∧ (beginCycle s).cal = s.cal ∧ (beginCycle s).set = s.set ∧
    (beginCycle s).xcc = s.xcc ∧ (beginCycle s).hst = s.hst ∧ (beginCycle s).sup = s.sup ∧
    (beginCycle s).upt = s.upt ∧ (beginCycle s).ppt = s.ppt ∧ (beginCycle s).premLock = s.premLock ∧
    (beginCycle s).draws = s.draws ∧ (beginCycle s).pending = s.pending := by
  refine ⟨rfl, rfl, rfl, rfl, rfl, rfl, rfl, rfl, rfl, rfl, rfl, rfl, rfl, rfl⟩

@[simp] theorem activeSetChanged_frame (s : State) :
    (activeSetChanged s).frx = s.frx ∧ (activeSetChanged s).netting = s.netting ∧
    (activeSetChanged s).reg = s.reg ∧ (activeSetChanged s).tim = s.tim ∧ (activeSetChanged s).cal = s.cal ∧
    (activeSetChanged s).set = s.set ∧ (activeSetChanged s).hst = s.hst ∧ (activeSetChanged s).sup = s.sup ∧
    (activeSetChanged s).upt = s.upt ∧ (activeSetChanged s).ppt = s.ppt ∧
    (activeSetChanged s).premLock = s.premLock ∧ (activeSetChanged s).draws = s.draws ∧
    (activeSetChanged s).pending = s.pending := by
  simp [activeSetChanged, ite_fields]

@[simp] theorem shareAnyway_frame (l : Ulc) (s : State) :
    (shareAnyway l s).frx = s.frx ∧ (shareAnyway l s).netting = s.netting ∧ (shareAnyway l s).reg = s.reg ∧
    (shareAnyway l s).tim = s.tim ∧ (shareAnyway l s).cal = s.cal ∧ (shareAnyway l s).set = s.set ∧
    (shareAnyway l s).hst = s.hst ∧ (shareAnyway l s).sup = s.sup ∧ (shareAnyway l s).upt = s.upt ∧
    (shareAnyway l s).ppt = s.ppt ∧ (shareAnyway l s).premLock = s.premLock ∧
    (shareAnyway l s).draws = s.draws ∧ (shareAnyway l s).pending = s.pending := by
  simp [shareAnyway, ite_fields]

@[simp] theorem dropUnit_frame (i : Fin 4) (s : State) :
    (dropUnit i s).frx = s.frx ∧ (dropUnit i s).netting = s.netting ∧ (dropUnit i s).reg = s.reg ∧
    (dropUnit i s).tim = s.tim ∧ (dropUnit i s).cal = s.cal ∧ (dropUnit i s).set = s.set ∧
    (dropUnit i s).xcc = s.xcc ∧ (dropUnit i s).hst = s.hst ∧ (dropUnit i s).sup = s.sup ∧
    (dropUnit i s).upt = s.upt ∧ (dropUnit i s).ppt = s.ppt ∧ (dropUnit i s).premLock = s.premLock ∧
    (dropUnit i s).draws = s.draws ∧ (dropUnit i s).pending = s.pending :=
  ⟨rfl, rfl, rfl, rfl, rfl, rfl, rfl, rfl, rfl, rfl, rfl, rfl, rfl, rfl⟩

@[simp] theorem shareIfChanged_frame (l : Ulc) (s : State) :
    (shareIfChanged l s).frx = s.frx ∧ (shareIfChanged l s).netting = s.netting ∧
    (shareIfChanged l s).reg = s.reg ∧ (shareIfChanged l s).tim = s.tim ∧ (shareIfChanged l s).cal = s.cal ∧
    (shareIfChanged l s).set = s.set ∧ (shareIfChanged l s).hst = s.hst ∧ (shareIfChanged l s).sup = s.sup ∧
    (shareIfChanged l s).upt = s.upt ∧ (shareIfChanged l s).ppt = s.ppt ∧
    (shareIfChanged l s).premLock = s.premLock ∧ (shareIfChanged l s).draws = s.draws ∧
    (shareIfChanged l s).pending = s.pending := by
  simp [shareIfChanged, ite_fields]

@[simp] theorem endExchange_frame (i : Fin 4) (f : UnitEntry → UnitEntry) (s : State) :
    (endExchange i f s).frx = s.frx ∧ (endExchange i f s).netting = s.netting ∧ (endExchange i f s).reg = s.reg ∧
    (endExchange i f s).tim = s.tim ∧ (endExchange i f s).cal = s.cal ∧ (endExchange i f s).set = s.set ∧
    (endExchange i f s).hst = s.hst ∧ (endExchange i f s).sup = s.sup ∧
    (endExchange i f s).premLock = s.premLock ∧ (endExchange i f s).draws = s.draws ∧
    (endExchange i f s).pending = s.pending := by
  simp [endExchange, ite_fields]

@[simp] theorem changeCurt_frame (x : Xcc) (s : State) :
    (changeCurt x s).frx = s.frx ∧ (changeCurt x s).netting = s.netting ∧ (changeCurt x s).reg = s.reg ∧
    (changeCurt x s).tim = s.tim ∧ (changeCurt x s).cal = s.cal ∧ (changeCurt x s).set = s.set ∧
    (changeCurt x s).hst = s.hst ∧ (changeCurt x s).sup = s.sup ∧ (changeCurt x s).premLock = s.premLock ∧
    (changeCurt x s).draws = s.draws ∧ (changeCurt x s).pending = s.pending := by
  refine ⟨rfl, rfl, rfl, rfl, rfl, rfl, rfl, rfl, rfl, rfl, rfl⟩

@[simp] theorem failsafeIfDue_frame (s : State) :
    (failsafeIfDue s).frx = s.frx ∧ (failsafeIfDue s).netting = s.netting ∧ (failsafeIfDue s).reg = s.reg ∧
    (failsafeIfDue s).tim = s.tim ∧ (failsafeIfDue s).cal = s.cal ∧ (failsafeIfDue s).set = s.set ∧
    (failsafeIfDue s).hst = s.hst ∧ (failsafeIfDue s).sup = s.sup ∧ (failsafeIfDue s).premLock = s.premLock ∧
    (failsafeIfDue s).draws = s.draws ∧ (failsafeIfDue s).pending = s.pending := by
  simp [failsafeIfDue, ite_fields]

@[simp] theorem capHealth_frame (h : Health) (s : State) :
    (capHealth h s).frx = s.frx ∧ (capHealth h s).netting = s.netting ∧ (capHealth h s).reg = s.reg ∧
    (capHealth h s).tim = s.tim ∧ (capHealth h s).cal = s.cal ∧ (capHealth h s).set = s.set ∧
    (capHealth h s).hst = s.hst ∧ (capHealth h s).sup = s.sup ∧ (capHealth h s).premLock = s.premLock ∧
    (capHealth h s).draws = s.draws ∧ (capHealth h s).pending = s.pending := by
  unfold capHealth; split <;> simp [ite_fields]

@[simp] theorem capRecordsChanged_frame (c : CapSettings) (s : State) :
    (capRecordsChanged c s).frx = s.frx ∧ (capRecordsChanged c s).netting = s.netting ∧
    (capRecordsChanged c s).reg = s.reg ∧ (capRecordsChanged c s).tim = s.tim ∧
    (capRecordsChanged c s).cal = s.cal ∧ (capRecordsChanged c s).set = s.set ∧
    (capRecordsChanged c s).hst = s.hst ∧ (capRecordsChanged c s).sup = s.sup ∧
    (capRecordsChanged c s).premLock = s.premLock ∧ (capRecordsChanged c s).draws = s.draws ∧
    (capRecordsChanged c s).pending = s.pending := by
  simp [capRecordsChanged, ite_fields]

@[simp] theorem setCapRecords_frame (f : CapSettings → CapSettings) (s : State) :
    (setCapRecords f s).frx = s.frx ∧ (setCapRecords f s).netting = s.netting ∧ (setCapRecords f s).reg = s.reg ∧
    (setCapRecords f s).tim = s.tim ∧ (setCapRecords f s).cal = s.cal ∧ (setCapRecords f s).set = s.set ∧
    (setCapRecords f s).hst = s.hst ∧ (setCapRecords f s).sup = s.sup ∧
    (setCapRecords f s).premLock = s.premLock ∧ (setCapRecords f s).draws = s.draws ∧
    (setCapRecords f s).pending = s.pending := by
  simp [setCapRecords]

@[simp] theorem capExpiry_frame (s : State) :
    (capExpiry s).frx = s.frx ∧ (capExpiry s).netting = s.netting ∧ (capExpiry s).reg = s.reg ∧
    (capExpiry s).tim = s.tim ∧ (capExpiry s).cal = s.cal ∧ (capExpiry s).set = s.set ∧
    (capExpiry s).hst = s.hst ∧ (capExpiry s).sup = s.sup ∧ (capExpiry s).premLock = s.premLock ∧
    (capExpiry s).draws = s.draws ∧ (capExpiry s).pending = s.pending := by
  simp [capExpiry, ite_fields]

@[simp] theorem capFrame_frame (x : Int) (s : State) :
    (capFrame x s).frx = s.frx ∧ (capFrame x s).netting = s.netting ∧ (capFrame x s).reg = s.reg ∧
    (capFrame x s).tim = s.tim ∧ (capFrame x s).cal = s.cal ∧ (capFrame x s).set = s.set ∧
    (capFrame x s).hst = s.hst ∧ (capFrame x s).sup = s.sup ∧ (capFrame x s).premLock = s.premLock ∧
    (capFrame x s).draws = s.draws ∧ (capFrame x s).pending = s.pending := by
  unfold capFrame; dsimp only; (repeat' split) <;> simp

@[simp] theorem setCapControl_frame (f : Option Nat) (e : Option Bool) (t h : Option Nat) (s : State) :
    (setCapControl f e t h s).frx = s.frx ∧ (setCapControl f e t h s).netting = s.netting ∧
    (setCapControl f e t h s).reg = s.reg ∧ (setCapControl f e t h s).tim = s.tim ∧
    (setCapControl f e t h s).cal = s.cal ∧ (setCapControl f e t h s).set = s.set ∧
    (setCapControl f e t h s).hst = s.hst ∧ (setCapControl f e t h s).sup = s.sup ∧
    (setCapControl f e t h s).premLock = s.premLock ∧ (setCapControl f e t h s).draws = s.draws ∧
    (setCapControl f e t h s).pending = s.pending := by
  simp [setCapControl, ite_fields]

@[simp] theorem establishCap_frame (s : State) :
    (establishCap s).frx = s.frx ∧ (establishCap s).netting = s.netting ∧ (establishCap s).reg = s.reg ∧
    (establishCap s).tim = s.tim ∧ (establishCap s).cal = s.cal ∧ (establishCap s).set = s.set ∧
    (establishCap s).ulc = s.ulc ∧ (establishCap s).hst = s.hst ∧ (establishCap s).sup = s.sup ∧
    (establishCap s).upt = s.upt ∧ (establishCap s).ppt = s.ppt ∧ (establishCap s).premLock = s.premLock ∧
    (establishCap s).draws = s.draws ∧ (establishCap s).pending = s.pending := by
  simp [establishCap, ite_fields]

@[simp] theorem evalBand_frame (s : State) :
    (evalBand s).frx = s.frx ∧ (evalBand s).netting = s.netting ∧ (evalBand s).reg = s.reg ∧
    (evalBand s).tim = s.tim ∧ (evalBand s).set = s.set ∧ (evalBand s).xcc = s.xcc ∧ (evalBand s).ulc = s.ulc ∧
    (evalBand s).hst = s.hst ∧ (evalBand s).sup = s.sup ∧ (evalBand s).premLock = s.premLock ∧
    (evalBand s).draws = s.draws ∧ (evalBand s).pending = s.pending := by
  simp [evalBand, ite_fields]

@[simp] theorem overrideChange_frame (s : State) :
    (overrideChange s).frx = s.frx ∧ (overrideChange s).netting = s.netting ∧ (overrideChange s).reg = s.reg ∧
    (overrideChange s).tim = s.tim ∧ (overrideChange s).set = s.set ∧ (overrideChange s).xcc = s.xcc ∧
    (overrideChange s).ulc = s.ulc ∧ (overrideChange s).hst = s.hst ∧ (overrideChange s).sup = s.sup ∧
    (overrideChange s).premLock = s.premLock ∧ (overrideChange s).draws = s.draws ∧
    (overrideChange s).pending = s.pending := by
  simp [overrideChange, ite_fields]

@[simp] theorem updLine_frame (i : Fin 2) (f : OvLine → OvLine) (s : State) :
    (updLine i f s).frx = s.frx ∧ (updLine i f s).netting = s.netting ∧ (updLine i f s).reg = s.reg ∧
    (updLine i f s).tim = s.tim ∧ (updLine i f s).set = s.set ∧ (updLine i f s).xcc = s.xcc ∧
    (updLine i f s).ulc = s.ulc ∧ (updLine i f s).hst = s.hst ∧ (updLine i f s).sup = s.sup ∧
    (updLine i f s).premLock = s.premLock ∧ (updLine i f s).draws = s.draws ∧
    (updLine i f s).pending = s.pending := by
  simp [updLine, ite_fields]

@[simp] theorem requestImage_frame (s : State) :
    (requestImage s).frx = s.frx ∧ (requestImage s).netting = s.netting ∧ (requestImage s).reg = s.reg ∧
    (requestImage s).tim = s.tim ∧ (requestImage s).set = s.set ∧ (requestImage s).xcc = s.xcc ∧
    (requestImage s).ulc = s.ulc ∧ (requestImage s).sup = s.sup ∧ (requestImage s).upt = s.upt ∧
    (requestImage s).ppt = s.ppt ∧ (requestImage s).premLock = s.premLock ∧ (requestImage s).draws = s.draws ∧
    (requestImage s).pending = s.pending := by
  simp [requestImage, ite_fields]

@[simp] theorem cancelOwedActivation_frame (s : State) :
    (cancelOwedActivation s).frx = s.frx ∧ (cancelOwedActivation s).netting = s.netting ∧
    (cancelOwedActivation s).reg = s.reg ∧ (cancelOwedActivation s).tim = s.tim ∧
    (cancelOwedActivation s).cal = s.cal ∧ (cancelOwedActivation s).xcc = s.xcc ∧
    (cancelOwedActivation s).ulc = s.ulc ∧ (cancelOwedActivation s).hst = s.hst ∧
    (cancelOwedActivation s).sup = s.sup ∧ (cancelOwedActivation s).upt = s.upt ∧
    (cancelOwedActivation s).ppt = s.ppt ∧ (cancelOwedActivation s).premLock = s.premLock ∧
    (cancelOwedActivation s).draws = s.draws ∧ (cancelOwedActivation s).pending = s.pending := by
  refine ⟨rfl, rfl, rfl, rfl, rfl, rfl, rfl, rfl, rfl, rfl, rfl, rfl, rfl, rfl⟩

@[simp] theorem passiveEdit_frame (c : Calendar) (s : State) :
    (passiveEdit c s).frx = s.frx ∧ (passiveEdit c s).netting = s.netting ∧ (passiveEdit c s).reg = s.reg ∧
    (passiveEdit c s).tim = s.tim ∧ (passiveEdit c s).xcc = s.xcc ∧ (passiveEdit c s).ulc = s.ulc ∧
    (passiveEdit c s).sup = s.sup ∧ (passiveEdit c s).upt = s.upt ∧ (passiveEdit c s).ppt = s.ppt ∧
    (passiveEdit c s).premLock = s.premLock ∧ (passiveEdit c s).draws = s.draws ∧
    (passiveEdit c s).pending = s.pending := by
  simp [passiveEdit, ite_fields]

@[simp] theorem activate_frame (s : State) :
    (activate s).frx = s.frx ∧ (activate s).netting = s.netting ∧ (activate s).reg = s.reg ∧
    (activate s).tim = s.tim ∧ (activate s).set = s.set ∧ (activate s).xcc = s.xcc ∧ (activate s).ulc = s.ulc ∧
    (activate s).sup = s.sup ∧ (activate s).premLock = s.premLock ∧ (activate s).draws = s.draws ∧
    (activate s).pending = s.pending := by
  unfold activate; split <;> simp

@[simp] theorem openPeriod_frame (s : State) :
    (openPeriod s).netting = s.netting ∧ (openPeriod s).tim = s.tim ∧ (openPeriod s).cal = s.cal ∧
    (openPeriod s).set = s.set ∧ (openPeriod s).xcc = s.xcc ∧ (openPeriod s).ulc = s.ulc ∧
    (openPeriod s).hst = s.hst ∧ (openPeriod s).sup = s.sup ∧ (openPeriod s).upt = s.upt ∧
    (openPeriod s).ppt = s.ppt ∧ (openPeriod s).premLock = s.premLock ∧ (openPeriod s).draws = s.draws ∧
    (openPeriod s).pending = s.pending := by
  refine ⟨rfl, rfl, rfl, rfl, rfl, rfl, rfl, rfl, rfl, rfl, rfl, rfl, rfl⟩

@[simp] theorem performClose_frame (o : CloseOrder) (k : Nat) (s : State) :
    (performClose o k s).netting = s.netting ∧ (performClose o k s).xcc = s.xcc ∧
    (performClose o k s).ulc = s.ulc ∧ (performClose o k s).sup = s.sup ∧
    (performClose o k s).premLock = s.premLock ∧ (performClose o k s).draws = s.draws ∧
    (performClose o k s).pending = s.pending := by
  simp [performClose, ite_fields]

@[simp] theorem trigger_frame (r : Reason) (d : Option Nat) (s : State) :
    (trigger r d s).netting = s.netting ∧ (trigger r d s).xcc = s.xcc ∧ (trigger r d s).ulc = s.ulc ∧
    (trigger r d s).sup = s.sup ∧ (trigger r d s).premLock = s.premLock ∧ (trigger r d s).draws = s.draws ∧
    (trigger r d s).pending = s.pending := by
  unfold trigger; (repeat' split) <;> simp

@[simp] theorem retryOwed_frame (s : State) :
    (retryOwed s).netting = s.netting ∧ (retryOwed s).xcc = s.xcc ∧ (retryOwed s).ulc = s.ulc ∧
    (retryOwed s).sup = s.sup ∧ (retryOwed s).premLock = s.premLock ∧ (retryOwed s).draws = s.draws ∧
    (retryOwed s).pending = s.pending := by
  unfold retryOwed; (repeat' split) <;> simp

@[simp] theorem localMidnight_frame (s : State) :
    (localMidnight s).netting = s.netting ∧ (localMidnight s).xcc = s.xcc ∧ (localMidnight s).ulc = s.ulc ∧
    (localMidnight s).sup = s.sup ∧ (localMidnight s).premLock = s.premLock ∧ (localMidnight s).draws = s.draws ∧
    (localMidnight s).pending = s.pending := by
  simp [localMidnight, ite_fields]

@[simp] theorem checkActivation_frame (s : State) :
    (checkActivation s).netting = s.netting ∧ (checkActivation s).xcc = s.xcc ∧ (checkActivation s).ulc = s.ulc ∧
    (checkActivation s).sup = s.sup ∧ (checkActivation s).premLock = s.premLock ∧
    (checkActivation s).draws = s.draws ∧ (checkActivation s).pending = s.pending := by
  simp [checkActivation, ite_fields]

@[simp] theorem stepTrigger_frame (d : Option Nat) (s : State) :
    (stepTrigger d s).netting = s.netting ∧ (stepTrigger d s).xcc = s.xcc ∧ (stepTrigger d s).ulc = s.ulc ∧
    (stepTrigger d s).sup = s.sup ∧ (stepTrigger d s).premLock = s.premLock ∧ (stepTrigger d s).draws = s.draws ∧
    (stepTrigger d s).pending = s.pending := by
  unfold stepTrigger; (repeat' split) <;> simp

@[simp] theorem settleStep_frame (r : Bool) (e : Option Nat) (s : State) :
    (settleStep r e s).netting = s.netting ∧ (settleStep r e s).xcc = s.xcc ∧ (settleStep r e s).ulc = s.ulc ∧
    (settleStep r e s).sup = s.sup ∧ (settleStep r e s).premLock = s.premLock ∧
    (settleStep r e s).pending = s.pending := by
  unfold settleStep eitherIf either oneOf; dsimp only; (repeat' split) <;> simp

@[simp] theorem calendarEvent_frame (s : State) :
    (calendarEvent s).netting = s.netting ∧ (calendarEvent s).xcc = s.xcc ∧ (calendarEvent s).ulc = s.ulc ∧
    (calendarEvent s).sup = s.sup ∧ (calendarEvent s).premLock = s.premLock ∧
    (calendarEvent s).pending = s.pending := by
  unfold calendarEvent eitherIf either oneOf; split_ifs <;> simp

@[simp] theorem localMinute_frame (s : State) :
    (localMinute s).netting = s.netting ∧ (localMinute s).xcc = s.xcc ∧ (localMinute s).ulc = s.ulc ∧
    (localMinute s).sup = s.sup ∧ (localMinute s).premLock = s.premLock ∧ (localMinute s).pending = s.pending := by
  unfold localMinute
  split_ifs
  · refine anyOrder_keeps (P := fun t => t.netting = s.netting ∧ t.xcc = s.xcc ∧ t.ulc = s.ulc ∧ t.sup = s.sup ∧
      t.premLock = s.premLock ∧ t.pending = s.pending) ?_ (fun _ h => h) ?_ <;> simp +contextual
  · simp
  · simp

@[simp] theorem takeStep_frame (r : Bool) (e : Option Nat) (s : State) :
    (takeStep r e s).netting = s.netting ∧ (takeStep r e s).xcc = s.xcc ∧ (takeStep r e s).ulc = s.ulc ∧
    (takeStep r e s).sup = s.sup ∧ (takeStep r e s).premLock = s.premLock ∧ (takeStep r e s).pending = s.pending := by
  unfold takeStep
  split_ifs
  · refine anyOrder_keeps (P := fun t => t.netting = s.netting ∧ t.xcc = s.xcc ∧ t.ulc = s.ulc ∧ t.sup = s.sup ∧
      t.premLock = s.premLock ∧ t.pending = s.pending) ?_ (fun _ h => h) ?_ <;> simp +contextual [ite_fields]
  · simp

@[simp] theorem stepEvent_frame (r : Bool) (e : Option Nat) (s : State) :
    (stepEvent r e s).netting = s.netting ∧ (stepEvent r e s).sup = s.sup ∧
    (stepEvent r e s).premLock = s.premLock ∧ (stepEvent r e s).pending = s.pending := by
  simp [stepEvent]

@[simp] theorem secondEvents_frame (s : State) :
    (secondEvents s).netting = s.netting ∧ (secondEvents s).sup = s.sup ∧ (secondEvents s).premLock = s.premLock ∧
    (secondEvents s).pending = s.pending := by
  simp [secondEvents, ite_fields]

@[simp] theorem grantCheckpoint_frame (k : Nat) (s : State) :
    (grantCheckpoint k s).frx = s.frx ∧ (grantCheckpoint k s).netting = s.netting ∧
    (grantCheckpoint k s).reg = s.reg ∧ (grantCheckpoint k s).tim = s.tim ∧ (grantCheckpoint k s).cal = s.cal ∧
    (grantCheckpoint k s).set = s.set ∧ (grantCheckpoint k s).xcc = s.xcc ∧ (grantCheckpoint k s).ulc = s.ulc ∧
    (grantCheckpoint k s).sup = s.sup ∧ (grantCheckpoint k s).upt = s.upt ∧ (grantCheckpoint k s).ppt = s.ppt ∧
    (grantCheckpoint k s).premLock = s.premLock ∧ (grantCheckpoint k s).draws = s.draws ∧
    (grantCheckpoint k s).pending = s.pending := by
  unfold grantCheckpoint; (repeat' split) <;> simp

@[simp] theorem grantWrite_frame (w : CalWrite) (l : List CalWrite) (s : State) :
    (grantWrite w l s).frx = s.frx ∧ (grantWrite w l s).netting = s.netting ∧ (grantWrite w l s).reg = s.reg ∧
    (grantWrite w l s).tim = s.tim ∧ (grantWrite w l s).cal = s.cal ∧ (grantWrite w l s).set = s.set ∧
    (grantWrite w l s).xcc = s.xcc ∧ (grantWrite w l s).ulc = s.ulc ∧ (grantWrite w l s).sup = s.sup ∧
    (grantWrite w l s).upt = s.upt ∧ (grantWrite w l s).ppt = s.ppt ∧ (grantWrite w l s).premLock = s.premLock ∧
    (grantWrite w l s).draws = s.draws ∧ (grantWrite w l s).pending = s.pending := by
  simp [grantWrite]

@[simp] theorem arbitrateRun_frame (s : State) :
    (arbitrateRun s).frx = s.frx ∧ (arbitrateRun s).netting = s.netting ∧ (arbitrateRun s).reg = s.reg ∧
    (arbitrateRun s).tim = s.tim ∧ (arbitrateRun s).cal = s.cal ∧ (arbitrateRun s).set = s.set ∧
    (arbitrateRun s).xcc = s.xcc ∧ (arbitrateRun s).ulc = s.ulc ∧ (arbitrateRun s).sup = s.sup ∧
    (arbitrateRun s).upt = s.upt ∧ (arbitrateRun s).ppt = s.ppt ∧ (arbitrateRun s).premLock = s.premLock ∧
    (arbitrateRun s).draws = s.draws ∧ (arbitrateRun s).pending = s.pending := by
  unfold arbitrateRun; (repeat' split) <;> simp

@[simp] theorem arbitrate_frame (s : State) :
    (arbitrate s).frx = s.frx ∧ (arbitrate s).netting = s.netting ∧ (arbitrate s).reg = s.reg ∧
    (arbitrate s).tim = s.tim ∧ (arbitrate s).cal = s.cal ∧ (arbitrate s).set = s.set ∧
    (arbitrate s).xcc = s.xcc ∧ (arbitrate s).ulc = s.ulc ∧ (arbitrate s).sup = s.sup ∧
    (arbitrate s).upt = s.upt ∧ (arbitrate s).ppt = s.ppt ∧ (arbitrate s).premLock = s.premLock ∧
    (arbitrate s).draws = s.draws ∧ (arbitrate s).pending = s.pending := by
  unfold arbitrate; (repeat' split) <;> simp

@[simp] theorem snapshotDone_frame (e : PendingSnap) (l : List PendingSnap) (s : State) :
    (snapshotDone e l s).netting = s.netting ∧ (snapshotDone e l s).xcc = s.xcc ∧
    (snapshotDone e l s).ulc = s.ulc ∧ (snapshotDone e l s).sup = s.sup ∧
    (snapshotDone e l s).premLock = s.premLock ∧ (snapshotDone e l s).draws = s.draws ∧
    (snapshotDone e l s).pending = s.pending := by
  simp [snapshotDone]

@[simp] theorem failLog_frame (s : State) :
    (failLog s).frx = s.frx ∧ (failLog s).netting = s.netting ∧ (failLog s).reg = s.reg ∧
    (failLog s).tim = s.tim ∧ (failLog s).cal = s.cal ∧ (failLog s).set = s.set ∧ (failLog s).xcc = s.xcc ∧
    (failLog s).ulc = s.ulc ∧ (failLog s).sup = s.sup ∧ (failLog s).premLock = s.premLock ∧
    (failLog s).draws = s.draws ∧ (failLog s).pending = s.pending := by
  refine ⟨rfl, rfl, rfl, rfl, rfl, rfl, rfl, rfl, rfl, rfl, rfl, rfl⟩

@[simp] theorem snapshotFailed_frame (e : PendingSnap) (s : State) :
    (snapshotFailed e s).frx = s.frx ∧ (snapshotFailed e s).netting = s.netting ∧
    (snapshotFailed e s).reg = s.reg ∧ (snapshotFailed e s).tim = s.tim ∧ (snapshotFailed e s).cal = s.cal ∧
    (snapshotFailed e s).set = s.set ∧ (snapshotFailed e s).xcc = s.xcc ∧ (snapshotFailed e s).ulc = s.ulc ∧
    (snapshotFailed e s).sup = s.sup ∧ (snapshotFailed e s).premLock = s.premLock ∧
    (snapshotFailed e s).draws = s.draws ∧ (snapshotFailed e s).pending = s.pending := by
  simp [snapshotFailed, ite_fields]

@[simp] theorem snapshotProgrammed_frame (v : Bool) (s : State) :
    (snapshotProgrammed v s).netting = s.netting ∧ (snapshotProgrammed v s).xcc = s.xcc ∧
    (snapshotProgrammed v s).ulc = s.ulc ∧ (snapshotProgrammed v s).sup = s.sup ∧
    (snapshotProgrammed v s).premLock = s.premLock ∧ (snapshotProgrammed v s).draws = s.draws ∧
    (snapshotProgrammed v s).pending = s.pending := by
  unfold snapshotProgrammed; split <;> simp [ite_fields]

@[simp] theorem checkpointProgrammed_frame (v w : Bool) (s : State) :
    (checkpointProgrammed v w s).frx = s.frx ∧ (checkpointProgrammed v w s).netting = s.netting ∧
    (checkpointProgrammed v w s).reg = s.reg ∧ (checkpointProgrammed v w s).tim = s.tim ∧
    (checkpointProgrammed v w s).cal = s.cal ∧ (checkpointProgrammed v w s).set = s.set ∧
    (checkpointProgrammed v w s).xcc = s.xcc ∧ (checkpointProgrammed v w s).ulc = s.ulc ∧
    (checkpointProgrammed v w s).sup = s.sup ∧ (checkpointProgrammed v w s).premLock = s.premLock ∧
    (checkpointProgrammed v w s).draws = s.draws ∧ (checkpointProgrammed v w s).pending = s.pending := by
  unfold checkpointProgrammed; split <;> simp [ite_fields]

@[simp] theorem failCalendar_frame (s : State) :
    (failCalendar s).frx = s.frx ∧ (failCalendar s).netting = s.netting ∧ (failCalendar s).reg = s.reg ∧
    (failCalendar s).tim = s.tim ∧ (failCalendar s).cal = s.cal ∧ (failCalendar s).set = s.set ∧
    (failCalendar s).xcc = s.xcc ∧ (failCalendar s).ulc = s.ulc ∧ (failCalendar s).sup = s.sup ∧
    (failCalendar s).premLock = s.premLock ∧ (failCalendar s).draws = s.draws ∧
    (failCalendar s).pending = s.pending := by
  refine ⟨rfl, rfl, rfl, rfl, rfl, rfl, rfl, rfl, rfl, rfl, rfl, rfl⟩

@[simp] theorem writeComplete_frame (j : CalJob) (s : State) :
    (writeComplete j s).frx = s.frx ∧ (writeComplete j s).netting = s.netting ∧ (writeComplete j s).reg = s.reg ∧
    (writeComplete j s).tim = s.tim ∧ (writeComplete j s).set = s.set ∧ (writeComplete j s).xcc = s.xcc ∧
    (writeComplete j s).ulc = s.ulc ∧ (writeComplete j s).sup = s.sup ∧ (writeComplete j s).upt = s.upt ∧
    (writeComplete j s).ppt = s.ppt ∧ (writeComplete j s).premLock = s.premLock ∧
    (writeComplete j s).draws = s.draws ∧ (writeComplete j s).pending = s.pending := by
  simp [writeComplete, ite_fields]

@[simp] theorem partProgrammed_frame (v : Bool) (s : State) :
    (partProgrammed v s).frx = s.frx ∧ (partProgrammed v s).netting = s.netting ∧
    (partProgrammed v s).reg = s.reg ∧ (partProgrammed v s).tim = s.tim ∧ (partProgrammed v s).set = s.set ∧
    (partProgrammed v s).xcc = s.xcc ∧ (partProgrammed v s).ulc = s.ulc ∧ (partProgrammed v s).sup = s.sup ∧
    (partProgrammed v s).premLock = s.premLock ∧ (partProgrammed v s).draws = s.draws ∧
    (partProgrammed v s).pending = s.pending := by
  unfold partProgrammed; split <;> simp [ite_fields]

@[simp] theorem areaLoses_frame (x : Nat) (s : State) :
    (areaLoses x s).frx = s.frx ∧ (areaLoses x s).netting = s.netting ∧ (areaLoses x s).reg = s.reg ∧
    (areaLoses x s).tim = s.tim ∧ (areaLoses x s).cal = s.cal ∧ (areaLoses x s).set = s.set ∧
    (areaLoses x s).xcc = s.xcc ∧ (areaLoses x s).ulc = s.ulc ∧ (areaLoses x s).sup = s.sup ∧
    (areaLoses x s).premLock = s.premLock ∧ (areaLoses x s).draws = s.draws ∧
    (areaLoses x s).pending = s.pending := by
  simp [areaLoses, ite_fields]

@[simp] theorem retireSector_frame (x : Nat) (s : State) :
    (retireSector x s).frx = s.frx ∧ (retireSector x s).netting = s.netting ∧ (retireSector x s).reg = s.reg ∧
    (retireSector x s).tim = s.tim ∧ (retireSector x s).cal = s.cal ∧ (retireSector x s).set = s.set ∧
    (retireSector x s).xcc = s.xcc ∧ (retireSector x s).ulc = s.ulc ∧ (retireSector x s).sup = s.sup ∧
    (retireSector x s).premLock = s.premLock ∧ (retireSector x s).draws = s.draws ∧
    (retireSector x s).pending = s.pending := by
  simp [retireSector]

@[simp] theorem sectorErased_frame (x : Nat) (s : State) :
    (sectorErased x s).netting = s.netting ∧ (sectorErased x s).xcc = s.xcc ∧ (sectorErased x s).ulc = s.ulc ∧
    (sectorErased x s).sup = s.sup ∧ (sectorErased x s).premLock = s.premLock ∧
    (sectorErased x s).draws = s.draws ∧ (sectorErased x s).pending = s.pending := by
  simp [sectorErased, ite_fields]

@[simp] theorem eraseDone_frame (b : BitVec 16) (s : State) :
    (eraseDone b s).netting = s.netting ∧ (eraseDone b s).xcc = s.xcc ∧ (eraseDone b s).ulc = s.ulc ∧
    (eraseDone b s).sup = s.sup ∧ (eraseDone b s).premLock = s.premLock ∧ (eraseDone b s).draws = s.draws ∧
    (eraseDone b s).pending = s.pending := by
  unfold eraseDone; split <;> simp [ite_fields]

@[simp] theorem withdrawLost_frame (s : State) :
    (withdrawLost s).frx = s.frx ∧ (withdrawLost s).netting = s.netting ∧ (withdrawLost s).reg = s.reg ∧
    (withdrawLost s).tim = s.tim ∧ (withdrawLost s).cal = s.cal ∧ (withdrawLost s).set = s.set ∧
    (withdrawLost s).xcc = s.xcc ∧ (withdrawLost s).ulc = s.ulc ∧ (withdrawLost s).upt = s.upt ∧
    (withdrawLost s).ppt = s.ppt ∧ (withdrawLost s).premLock = s.premLock ∧ (withdrawLost s).draws = s.draws ∧
    (withdrawLost s).pending = s.pending := by
  simp [withdrawLost, ite_fields]

@[simp] theorem setSupply_frame (u : Supply) (s : State) :
    (setSupply u s).frx = s.frx ∧ (setSupply u s).netting = s.netting ∧ (setSupply u s).reg = s.reg ∧
    (setSupply u s).tim = s.tim ∧ (setSupply u s).cal = s.cal ∧ (setSupply u s).set = s.set ∧
    (setSupply u s).xcc = s.xcc ∧ (setSupply u s).ulc = s.ulc ∧ (setSupply u s).hst = s.hst ∧
    (setSupply u s).premLock = s.premLock ∧ (setSupply u s).draws = s.draws ∧
    (setSupply u s).pending = s.pending := by
  refine ⟨rfl, rfl, rfl, rfl, rfl, rfl, rfl, rfl, rfl, rfl, rfl, rfl⟩

@[simp] theorem enterWarning_frame (s : State) :
    (enterWarning s).frx = s.frx ∧ (enterWarning s).netting = s.netting ∧ (enterWarning s).reg = s.reg ∧
    (enterWarning s).cal = s.cal ∧ (enterWarning s).set = s.set ∧ (enterWarning s).xcc = s.xcc ∧
    (enterWarning s).premLock = s.premLock ∧ (enterWarning s).draws = s.draws ∧
    (enterWarning s).pending = s.pending := by
  simp [enterWarning]

@[simp] theorem enterDown_frame (s : State) :
    (enterDown s).frx = s.frx ∧ (enterDown s).netting = s.netting ∧ (enterDown s).reg = s.reg ∧
    (enterDown s).tim = s.tim ∧ (enterDown s).cal = s.cal ∧ (enterDown s).set = s.set ∧
    (enterDown s).xcc = s.xcc ∧ (enterDown s).ulc = s.ulc ∧ (enterDown s).hst = s.hst ∧
    (enterDown s).premLock = s.premLock ∧ (enterDown s).draws = s.draws ∧ (enterDown s).pending = s.pending := by
  refine ⟨rfl, rfl, rfl, rfl, rfl, rfl, rfl, rfl, rfl, rfl, rfl, rfl⟩

@[simp] theorem takeUpRun_frame (s : State) :
    (takeUpRun s).netting = s.netting ∧ (takeUpRun s).sup = s.sup ∧ (takeUpRun s).premLock = s.premLock ∧
    (takeUpRun s).pending = s.pending := by
  unfold takeUpRun eitherIf either oneOf; split_ifs <;> simp

@[simp] theorem enterRun_frame (s : State) :
    (enterRun s).netting = s.netting ∧ (enterRun s).premLock = s.premLock ∧ (enterRun s).pending = s.pending := by
  simp [enterRun]

@[simp] theorem rideThrough_frame (s : State) :
    (rideThrough s).netting = s.netting ∧ (rideThrough s).premLock = s.premLock ∧
    (rideThrough s).pending = s.pending := by
  simp [rideThrough]

@[simp] theorem resetWith_frame (u m : Nat) (v : Bool) (s : State) :
    (resetWith u m v s).pending = s.pending := by
  rfl

@[simp] theorem resetEngine_frame (s : State) :
    (resetEngine s).pending = s.pending := by
  rfl

@[simp] theorem powerOn_frame (s : State) :
    (powerOn s).pending = s.pending := by
  simp [powerOn, ite_fields]

@[simp] theorem supplyLost_frame (s : State) :
    (supplyLost s).pending = s.pending := by
  rfl

@[simp] theorem endSequence_frame (s : State) :
    (endSequence s).pending = s.pending := by
  simp [endSequence, ite_fields]

@[simp] theorem finish_frame (s : State) :
    (finish s).pending = s.pending := by
  simp [finish, ite_fields]

@[simp] theorem endReads_frame (g : Stage) (l : List Nat) (s : State) :
    (endReads g l s).frx = s.frx ∧ (endReads g l s).netting = s.netting ∧ (endReads g l s).reg = s.reg ∧
    (endReads g l s).tim = s.tim ∧ (endReads g l s).cal = s.cal ∧ (endReads g l s).set = s.set ∧
    (endReads g l s).xcc = s.xcc ∧ (endReads g l s).ulc = s.ulc ∧ (endReads g l s).upt = s.upt ∧
    (endReads g l s).ppt = s.ppt ∧ (endReads g l s).premLock = s.premLock ∧ (endReads g l s).draws = s.draws ∧
    (endReads g l s).pending = s.pending := by
  refine ⟨rfl, rfl, rfl, rfl, rfl, rfl, rfl, rfl, rfl, rfl, rfl, rfl, rfl⟩

@[simp] theorem loadCheckpoint_frame (c : Checkpoint) (s : State) :
    (loadCheckpoint c s).hst = s.hst ∧ (loadCheckpoint c s).sup = s.sup ∧ (loadCheckpoint c s).draws = s.draws ∧
    (loadCheckpoint c s).pending = s.pending := by
  refine ⟨rfl, rfl, rfl, rfl⟩

@[simp] theorem factory_frame (s : State) :
    (factory s).tim = s.tim ∧ (factory s).cal = s.cal ∧ (factory s).set = s.set ∧ (factory s).xcc = s.xcc ∧
    (factory s).ulc = s.ulc ∧ (factory s).hst = s.hst ∧ (factory s).sup = s.sup ∧ (factory s).upt = s.upt ∧
    (factory s).ppt = s.ppt ∧ (factory s).premLock = s.premLock ∧ (factory s).draws = s.draws ∧
    (factory s).pending = s.pending := by
  refine ⟨rfl, rfl, rfl, rfl, rfl, rfl, rfl, rfl, rfl, rfl, rfl, rfl⟩

@[simp] theorem scanRing_frame (s : State) :
    (scanRing s).draws = s.draws ∧ (scanRing s).pending = s.pending := by
  unfold scanRing; dsimp only; (repeat' split) <;> simp

@[simp] theorem enterErases_frame (s : State) :
    (enterErases s).frx = s.frx ∧ (enterErases s).netting = s.netting ∧ (enterErases s).reg = s.reg ∧
    (enterErases s).tim = s.tim ∧ (enterErases s).cal = s.cal ∧ (enterErases s).set = s.set ∧
    (enterErases s).xcc = s.xcc ∧ (enterErases s).ulc = s.ulc ∧ (enterErases s).sup = s.sup ∧
    (enterErases s).premLock = s.premLock ∧ (enterErases s).draws = s.draws ∧
    (enterErases s).pending = s.pending := by
  simp [enterErases]

@[simp] theorem reconcile_frame (s : State) :
    (reconcile s).netting = s.netting ∧ (reconcile s).cal = s.cal ∧ (reconcile s).xcc = s.xcc ∧
    (reconcile s).ulc = s.ulc ∧ (reconcile s).sup = s.sup ∧ (reconcile s).upt = s.upt ∧
    (reconcile s).ppt = s.ppt ∧ (reconcile s).premLock = s.premLock ∧ (reconcile s).draws = s.draws ∧
    (reconcile s).pending = s.pending := by
  unfold reconcile; dsimp only; (repeat' split) <;> simp

@[simp] theorem markRecovered_frame (n : Nat) (b : Bool) (s : State) :
    (markRecovered n b s).frx = s.frx ∧ (markRecovered n b s).netting = s.netting ∧
    (markRecovered n b s).tim = s.tim ∧ (markRecovered n b s).cal = s.cal ∧ (markRecovered n b s).set = s.set ∧
    (markRecovered n b s).xcc = s.xcc ∧ (markRecovered n b s).ulc = s.ulc ∧ (markRecovered n b s).sup = s.sup ∧
    (markRecovered n b s).upt = s.upt ∧ (markRecovered n b s).ppt = s.ppt ∧
    (markRecovered n b s).premLock = s.premLock ∧ (markRecovered n b s).draws = s.draws ∧
    (markRecovered n b s).pending = s.pending := by
  refine ⟨rfl, rfl, rfl, rfl, rfl, rfl, rfl, rfl, rfl, rfl, rfl, rfl, rfl⟩

@[simp] theorem scanLog_frame (s : State) :
    (scanLog s).netting = s.netting ∧ (scanLog s).cal = s.cal ∧ (scanLog s).xcc = s.xcc ∧
    (scanLog s).ulc = s.ulc ∧ (scanLog s).premLock = s.premLock ∧ (scanLog s).draws = s.draws ∧
    (scanLog s).pending = s.pending := by
  simp [scanLog]

@[simp] theorem loadActive_frame (s : State) :
    (loadActive s).frx = s.frx ∧ (loadActive s).netting = s.netting ∧ (loadActive s).reg = s.reg ∧
    (loadActive s).tim = s.tim ∧ (loadActive s).set = s.set ∧ (loadActive s).xcc = s.xcc ∧
    (loadActive s).ulc = s.ulc ∧ (loadActive s).hst = s.hst ∧ (loadActive s).sup = s.sup ∧
    (loadActive s).premLock = s.premLock ∧ (loadActive s).draws = s.draws ∧ (loadActive s).pending = s.pending := by
  unfold loadActive; (repeat' split) <;> simp

@[simp] theorem loadPassive_frame (s : State) :
    (loadPassive s).frx = s.frx ∧ (loadPassive s).netting = s.netting ∧ (loadPassive s).reg = s.reg ∧
    (loadPassive s).tim = s.tim ∧ (loadPassive s).set = s.set ∧ (loadPassive s).xcc = s.xcc ∧
    (loadPassive s).ulc = s.ulc ∧ (loadPassive s).hst = s.hst ∧ (loadPassive s).sup = s.sup ∧
    (loadPassive s).premLock = s.premLock ∧ (loadPassive s).draws = s.draws ∧
    (loadPassive s).pending = s.pending := by
  unfold loadPassive; (repeat' split) <;> simp

@[simp] theorem foldActive_frame (s : State) :
    (foldActive s).frx = s.frx ∧ (foldActive s).netting = s.netting ∧ (foldActive s).tim = s.tim ∧
    (foldActive s).cal = s.cal ∧ (foldActive s).set = s.set ∧ (foldActive s).xcc = s.xcc ∧
    (foldActive s).ulc = s.ulc ∧ (foldActive s).hst = s.hst ∧ (foldActive s).sup = s.sup ∧
    (foldActive s).upt = s.upt ∧ (foldActive s).ppt = s.ppt ∧ (foldActive s).premLock = s.premLock ∧
    (foldActive s).draws = s.draws ∧ (foldActive s).pending = s.pending := by
  refine ⟨rfl, rfl, rfl, rfl, rfl, rfl, rfl, rfl, rfl, rfl, rfl, rfl, rfl, rfl⟩

@[simp] theorem leaveStarting_frame (s : State) :
    (leaveStarting s).netting = s.netting ∧ (leaveStarting s).premLock = s.premLock ∧
    (leaveStarting s).pending = s.pending := by
  simp [leaveStarting, ite_fields]

@[simp] theorem establish_frame (s : State) :
    (establish s).frx = s.frx ∧ (establish s).netting = s.netting ∧ (establish s).reg = s.reg ∧
    (establish s).tim = s.tim ∧ (establish s).set = s.set ∧ (establish s).hst = s.hst ∧
    (establish s).sup = s.sup ∧ (establish s).premLock = s.premLock ∧ (establish s).draws = s.draws ∧
    (establish s).pending = s.pending := by
  simp [establish]

@[simp] theorem loadCalendars_frame (s : State) :
    (loadCalendars s).netting = s.netting ∧ (loadCalendars s).premLock = s.premLock ∧
    (loadCalendars s).pending = s.pending := by
  simp [loadCalendars]

@[simp] theorem changeHealth_frame (h : Health) (n : Nat) (s : State) :
    (changeHealth h n s).netting = s.netting ∧ (changeHealth h n s).tim = s.tim ∧
    (changeHealth h n s).cal = s.cal ∧ (changeHealth h n s).set = s.set ∧ (changeHealth h n s).hst = s.hst ∧
    (changeHealth h n s).sup = s.sup ∧ (changeHealth h n s).premLock = s.premLock ∧
    (changeHealth h n s).draws = s.draws ∧ (changeHealth h n s).pending = s.pending := by
  simp [changeHealth, ite_fields]

@[simp] theorem arrivalHealth_frame (s : State) :
    (arrivalHealth s).netting = s.netting ∧ (arrivalHealth s).tim = s.tim ∧ (arrivalHealth s).cal = s.cal ∧
    (arrivalHealth s).set = s.set ∧ (arrivalHealth s).hst = s.hst ∧ (arrivalHealth s).sup = s.sup ∧
    (arrivalHealth s).premLock = s.premLock ∧ (arrivalHealth s).draws = s.draws ∧
    (arrivalHealth s).pending = s.pending := by
  simp [arrivalHealth, ite_fields]

@[simp] theorem acceptMarks_frame (f : PhaseFrame) (j : SeqJudge) (s : State) :
    (acceptMarks f j s).netting = s.netting ∧ (acceptMarks f j s).tim = s.tim ∧ (acceptMarks f j s).cal = s.cal ∧
    (acceptMarks f j s).set = s.set ∧ (acceptMarks f j s).xcc = s.xcc ∧ (acceptMarks f j s).ulc = s.ulc ∧
    (acceptMarks f j s).hst = s.hst ∧ (acceptMarks f j s).sup = s.sup ∧ (acceptMarks f j s).upt = s.upt ∧
    (acceptMarks f j s).ppt = s.ppt ∧ (acceptMarks f j s).premLock = s.premLock ∧
    (acceptMarks f j s).draws = s.draws ∧ (acceptMarks f j s).pending = s.pending := by
  refine ⟨rfl, rfl, rfl, rfl, rfl, rfl, rfl, rfl, rfl, rfl, rfl, rfl, rfl⟩

@[simp] theorem bookFrame_frame (f : PhaseFrame) (s : State) :
    (bookFrame f s).frx = s.frx ∧ (bookFrame f s).netting = s.netting ∧ (bookFrame f s).tim = s.tim ∧
    (bookFrame f s).cal = s.cal ∧ (bookFrame f s).set = s.set ∧ (bookFrame f s).xcc = s.xcc ∧
    (bookFrame f s).ulc = s.ulc ∧ (bookFrame f s).hst = s.hst ∧ (bookFrame f s).sup = s.sup ∧
    (bookFrame f s).upt = s.upt ∧ (bookFrame f s).ppt = s.ppt ∧ (bookFrame f s).premLock = s.premLock ∧
    (bookFrame f s).draws = s.draws ∧ (bookFrame f s).pending = s.pending := by
  refine ⟨rfl, rfl, rfl, rfl, rfl, rfl, rfl, rfl, rfl, rfl, rfl, rfl, rfl, rfl⟩

@[simp] theorem acceptFrame_frame (f : PhaseFrame) (j : SeqJudge) (s : State) :
    (acceptFrame f j s).netting = s.netting ∧ (acceptFrame f j s).tim = s.tim ∧ (acceptFrame f j s).cal = s.cal ∧
    (acceptFrame f j s).set = s.set ∧ (acceptFrame f j s).hst = s.hst ∧ (acceptFrame f j s).sup = s.sup ∧
    (acceptFrame f j s).premLock = s.premLock ∧ (acceptFrame f j s).draws = s.draws ∧
    (acceptFrame f j s).pending = s.pending := by
  simp [acceptFrame]

@[simp] theorem takeArrival_frame (f : PhaseFrame) (s : State) :
    (takeArrival f s).netting = s.netting ∧ (takeArrival f s).tim = s.tim ∧ (takeArrival f s).cal = s.cal ∧
    (takeArrival f s).set = s.set ∧ (takeArrival f s).hst = s.hst ∧ (takeArrival f s).sup = s.sup ∧
    (takeArrival f s).premLock = s.premLock ∧ (takeArrival f s).draws = s.draws ∧
    (takeArrival f s).pending = s.pending := by
  unfold takeArrival; (repeat' split) <;> simp

@[simp] theorem arrival_frame (f : PhaseFrame) (s : State) :
    (arrival f s).netting = s.netting ∧ (arrival f s).tim = s.tim ∧ (arrival f s).cal = s.cal ∧
    (arrival f s).set = s.set ∧ (arrival f s).hst = s.hst ∧ (arrival f s).sup = s.sup ∧
    (arrival f s).premLock = s.premLock ∧ (arrival f s).pending = s.pending := by
  unfold arrival eitherIf either oneOf; split_ifs <;> simp

@[simp] theorem runEnded_frame (l : List RxChar) (s : State) :
    (runEnded l s).netting = s.netting ∧ (runEnded l s).tim = s.tim ∧ (runEnded l s).cal = s.cal ∧
    (runEnded l s).set = s.set ∧ (runEnded l s).hst = s.hst ∧ (runEnded l s).sup = s.sup ∧
    (runEnded l s).premLock = s.premLock ∧ (runEnded l s).pending = s.pending := by
  unfold runEnded; split <;> simp

@[simp] theorem collectRun_frame (l : LinkRun) (s : State) :
    (collectRun l s).netting = s.netting ∧ (collectRun l s).tim = s.tim ∧ (collectRun l s).cal = s.cal ∧
    (collectRun l s).set = s.set ∧ (collectRun l s).hst = s.hst ∧ (collectRun l s).sup = s.sup ∧
    (collectRun l s).premLock = s.premLock ∧ (collectRun l s).pending = s.pending := by
  simp [collectRun, ite_fields]

@[simp] theorem silence500_frame (s : State) :
    (silence500 s).netting = s.netting ∧ (silence500 s).cal = s.cal ∧ (silence500 s).set = s.set ∧
    (silence500 s).hst = s.hst ∧ (silence500 s).sup = s.sup ∧ (silence500 s).premLock = s.premLock ∧
    (silence500 s).draws = s.draws ∧ (silence500 s).pending = s.pending := by
  unfold silence500; split <;> simp

@[simp] theorem silence2000_frame (s : State) :
    (silence2000 s).netting = s.netting ∧ (silence2000 s).cal = s.cal ∧ (silence2000 s).set = s.set ∧
    (silence2000 s).hst = s.hst ∧ (silence2000 s).sup = s.sup ∧ (silence2000 s).premLock = s.premLock ∧
    (silence2000 s).draws = s.draws ∧ (silence2000 s).pending = s.pending := by
  unfold silence2000; split <;> simp

@[simp] theorem respond_frame (p : Port) (n : Nat) (st : Status) (a : Answer) (s : State) :
    (respond p n st a s).frx = s.frx ∧ (respond p n st a s).netting = s.netting ∧
    (respond p n st a s).reg = s.reg ∧ (respond p n st a s).tim = s.tim ∧ (respond p n st a s).cal = s.cal ∧
    (respond p n st a s).set = s.set ∧ (respond p n st a s).xcc = s.xcc ∧ (respond p n st a s).ulc = s.ulc ∧
    (respond p n st a s).hst = s.hst ∧ (respond p n st a s).sup = s.sup ∧
    (respond p n st a s).premLock = s.premLock ∧ (respond p n st a s).draws = s.draws ∧
    (respond p n st a s).pending = s.pending := by
  simp [respond]

@[simp] theorem badFrame_frame (p : Port) (n : Nat) (s : State) :
    (badFrame p n s).frx = s.frx ∧ (badFrame p n s).netting = s.netting ∧ (badFrame p n s).reg = s.reg ∧
    (badFrame p n s).tim = s.tim ∧ (badFrame p n s).cal = s.cal ∧ (badFrame p n s).set = s.set ∧
    (badFrame p n s).xcc = s.xcc ∧ (badFrame p n s).ulc = s.ulc ∧ (badFrame p n s).hst = s.hst ∧
    (badFrame p n s).sup = s.sup ∧ (badFrame p n s).premLock = s.premLock ∧ (badFrame p n s).draws = s.draws ∧
    (badFrame p n s).pending = s.pending := by
  simp [badFrame]

@[simp] theorem stall_frame (p : Port) (s : State) :
    (stall p s).frx = s.frx ∧ (stall p s).netting = s.netting ∧ (stall p s).reg = s.reg ∧
    (stall p s).cal = s.cal ∧ (stall p s).set = s.set ∧ (stall p s).xcc = s.xcc ∧ (stall p s).ulc = s.ulc ∧
    (stall p s).hst = s.hst ∧ (stall p s).sup = s.sup ∧ (stall p s).premLock = s.premLock ∧
    (stall p s).draws = s.draws ∧ (stall p s).pending = s.pending := by
  unfold stall; split <;> simp

@[simp] theorem idleEnds_frame (p : Port) (s : State) :
    (idleEnds p s).frx = s.frx ∧ (idleEnds p s).netting = s.netting ∧ (idleEnds p s).reg = s.reg ∧
    (idleEnds p s).cal = s.cal ∧ (idleEnds p s).set = s.set ∧ (idleEnds p s).xcc = s.xcc ∧
    (idleEnds p s).ulc = s.ulc ∧ (idleEnds p s).hst = s.hst ∧ (idleEnds p s).sup = s.sup ∧
    (idleEnds p s).premLock = s.premLock ∧ (idleEnds p s).draws = s.draws ∧ (idleEnds p s).pending = s.pending := by
  unfold idleEnds; split <;> simp

@[simp] theorem transmitted_frame (p : Port) (s : State) :
    (transmitted p s).frx = s.frx ∧ (transmitted p s).netting = s.netting ∧ (transmitted p s).reg = s.reg ∧
    (transmitted p s).tim = s.tim ∧ (transmitted p s).cal = s.cal ∧ (transmitted p s).set = s.set ∧
    (transmitted p s).xcc = s.xcc ∧ (transmitted p s).ulc = s.ulc ∧ (transmitted p s).hst = s.hst ∧
    (transmitted p s).sup = s.sup ∧ (transmitted p s).premLock = s.premLock ∧ (transmitted p s).draws = s.draws ∧
    (transmitted p s).pending = s.pending := by
  simp [transmitted]

@[simp] theorem viewExpires_frame (p : Port) (s : State) :
    (viewExpires p s).frx = s.frx ∧ (viewExpires p s).netting = s.netting ∧ (viewExpires p s).reg = s.reg ∧
    (viewExpires p s).cal = s.cal ∧ (viewExpires p s).set = s.set ∧ (viewExpires p s).xcc = s.xcc ∧
    (viewExpires p s).ulc = s.ulc ∧ (viewExpires p s).hst = s.hst ∧ (viewExpires p s).sup = s.sup ∧
    (viewExpires p s).premLock = s.premLock ∧ (viewExpires p s).draws = s.draws ∧
    (viewExpires p s).pending = s.pending := by
  unfold viewExpires; split <;> simp

@[simp] theorem answerRead_frame (p : Port) (n k : Nat) (s : State) :
    (answerRead p n k s).frx = s.frx ∧ (answerRead p n k s).netting = s.netting ∧
    (answerRead p n k s).reg = s.reg ∧ (answerRead p n k s).tim = s.tim ∧ (answerRead p n k s).cal = s.cal ∧
    (answerRead p n k s).set = s.set ∧ (answerRead p n k s).xcc = s.xcc ∧ (answerRead p n k s).ulc = s.ulc ∧
    (answerRead p n k s).sup = s.sup ∧ (answerRead p n k s).premLock = s.premLock ∧
    (answerRead p n k s).draws = s.draws ∧ (answerRead p n k s).pending = s.pending := by
  unfold answerRead; split <;> simp

@[simp] theorem readDone_frame (d : Bool) (s : State) :
    (readDone d s).frx = s.frx ∧ (readDone d s).netting = s.netting ∧ (readDone d s).reg = s.reg ∧
    (readDone d s).tim = s.tim ∧ (readDone d s).cal = s.cal ∧ (readDone d s).set = s.set ∧
    (readDone d s).xcc = s.xcc ∧ (readDone d s).ulc = s.ulc ∧ (readDone d s).premLock = s.premLock ∧
    (readDone d s).draws = s.draws ∧ (readDone d s).pending = s.pending := by
  unfold readDone; (repeat' split) <;> simp

@[simp] theorem secondInRun_frame (t : Tim) (s : State) :
    (secondInRun t s).netting = s.netting ∧ (secondInRun t s).sup = s.sup ∧
    (secondInRun t s).premLock = s.premLock ∧ (secondInRun t s).pending = s.pending := by
  simp [secondInRun, ite_fields]

@[simp] theorem markCountEnd_frame (t : Tim) (s : State) :
    (markCountEnd t s).frx = s.frx ∧ (markCountEnd t s).netting = s.netting ∧ (markCountEnd t s).tim = s.tim ∧
    (markCountEnd t s).cal = s.cal ∧ (markCountEnd t s).set = s.set ∧ (markCountEnd t s).xcc = s.xcc ∧
    (markCountEnd t s).ulc = s.ulc ∧ (markCountEnd t s).hst = s.hst ∧ (markCountEnd t s).sup = s.sup ∧
    (markCountEnd t s).premLock = s.premLock ∧ (markCountEnd t s).draws = s.draws ∧
    (markCountEnd t s).pending = s.pending := by
  simp [markCountEnd, ite_fields]

@[simp] theorem secondTick_frame (s : State) :
    (secondTick s).netting = s.netting ∧ (secondTick s).sup = s.sup ∧ (secondTick s).premLock = s.premLock ∧
    (secondTick s).pending = s.pending := by
  simp [secondTick, ite_fields]

@[simp] theorem backupSecond_frame (s : State) :
    (backupSecond s).frx = s.frx ∧ (backupSecond s).netting = s.netting ∧ (backupSecond s).reg = s.reg ∧
    (backupSecond s).cal = s.cal ∧ (backupSecond s).set = s.set ∧ (backupSecond s).xcc = s.xcc ∧
    (backupSecond s).ulc = s.ulc ∧ (backupSecond s).hst = s.hst ∧ (backupSecond s).sup = s.sup ∧
    (backupSecond s).upt = s.upt ∧ (backupSecond s).ppt = s.ppt ∧ (backupSecond s).premLock = s.premLock ∧
    (backupSecond s).draws = s.draws ∧ (backupSecond s).pending = s.pending := by
  simp [backupSecond, ite_fields]

@[simp] theorem backupLost_frame (s : State) :
    (backupLost s).frx = s.frx ∧ (backupLost s).netting = s.netting ∧ (backupLost s).reg = s.reg ∧
    (backupLost s).cal = s.cal ∧ (backupLost s).set = s.set ∧ (backupLost s).xcc = s.xcc ∧
    (backupLost s).ulc = s.ulc ∧ (backupLost s).hst = s.hst ∧ (backupLost s).sup = s.sup ∧
    (backupLost s).upt = s.upt ∧ (backupLost s).ppt = s.ppt ∧ (backupLost s).premLock = s.premLock ∧
    (backupLost s).draws = s.draws ∧ (backupLost s).pending = s.pending := by
  simp [backupLost, ite_fields]

@[simp] theorem lineLevel_frame (i : Fin 2) (b : Bool) (s : State) :
    (lineLevel i b s).frx = s.frx ∧ (lineLevel i b s).netting = s.netting ∧ (lineLevel i b s).reg = s.reg ∧
    (lineLevel i b s).tim = s.tim ∧ (lineLevel i b s).set = s.set ∧ (lineLevel i b s).xcc = s.xcc ∧
    (lineLevel i b s).ulc = s.ulc ∧ (lineLevel i b s).hst = s.hst ∧ (lineLevel i b s).sup = s.sup ∧
    (lineLevel i b s).upt = s.upt ∧ (lineLevel i b s).ppt = s.ppt ∧ (lineLevel i b s).premLock = s.premLock ∧
    (lineLevel i b s).draws = s.draws ∧ (lineLevel i b s).pending = s.pending := by
  simp [lineLevel, ite_fields]

@[simp] theorem lineSettles_frame (i : Fin 2) (s : State) :
    (lineSettles i s).frx = s.frx ∧ (lineSettles i s).netting = s.netting ∧ (lineSettles i s).reg = s.reg ∧
    (lineSettles i s).set = s.set ∧ (lineSettles i s).xcc = s.xcc ∧ (lineSettles i s).ulc = s.ulc ∧
    (lineSettles i s).hst = s.hst ∧ (lineSettles i s).sup = s.sup ∧ (lineSettles i s).premLock = s.premLock ∧
    (lineSettles i s).draws = s.draws ∧ (lineSettles i s).pending = s.pending := by
  unfold lineSettles; split <;> simp

@[simp] theorem tick_frame (s : State) :
    (tick s).frx = s.frx ∧ (tick s).netting = s.netting ∧ (tick s).reg = s.reg ∧ (tick s).cal = s.cal ∧
    (tick s).set = s.set ∧ (tick s).xcc = s.xcc ∧ (tick s).ulc = s.ulc ∧ (tick s).hst = s.hst ∧
    (tick s).sup = s.sup ∧ (tick s).upt = s.upt ∧ (tick s).ppt = s.ppt ∧ (tick s).premLock = s.premLock ∧
    (tick s).draws = s.draws ∧ (tick s).pending = s.pending := by
  simp [tick, ite_fields]

@[simp] theorem mainsWarns_frame (s : State) :
    (mainsWarns s).frx = s.frx ∧ (mainsWarns s).netting = s.netting ∧ (mainsWarns s).reg = s.reg ∧
    (mainsWarns s).cal = s.cal ∧ (mainsWarns s).set = s.set ∧ (mainsWarns s).xcc = s.xcc ∧
    (mainsWarns s).premLock = s.premLock ∧ (mainsWarns s).draws = s.draws ∧ (mainsWarns s).pending = s.pending := by
  unfold mainsWarns; split <;> simp

@[simp] theorem mainsClears_frame (s : State) :
    (mainsClears s).frx = s.frx ∧ (mainsClears s).netting = s.netting ∧ (mainsClears s).reg = s.reg ∧
    (mainsClears s).tim = s.tim ∧ (mainsClears s).cal = s.cal ∧ (mainsClears s).set = s.set ∧
    (mainsClears s).xcc = s.xcc ∧ (mainsClears s).ulc = s.ulc ∧ (mainsClears s).hst = s.hst ∧
    (mainsClears s).upt = s.upt ∧ (mainsClears s).ppt = s.ppt ∧ (mainsClears s).premLock = s.premLock ∧
    (mainsClears s).draws = s.draws ∧ (mainsClears s).pending = s.pending := by
  simp [mainsClears, ite_fields]

@[simp] theorem supplySettles_frame (s : State) :
    (supplySettles s).netting = s.netting ∧ (supplySettles s).premLock = s.premLock ∧
    (supplySettles s).pending = s.pending := by
  unfold supplySettles; split <;> simp

@[simp] theorem intervalEnds_frame (s : State) :
    (intervalEnds s).frx = s.frx ∧ (intervalEnds s).netting = s.netting ∧ (intervalEnds s).reg = s.reg ∧
    (intervalEnds s).cal = s.cal ∧ (intervalEnds s).set = s.set ∧ (intervalEnds s).xcc = s.xcc ∧
    (intervalEnds s).ulc = s.ulc ∧ (intervalEnds s).sup = s.sup ∧ (intervalEnds s).upt = s.upt ∧
    (intervalEnds s).ppt = s.ppt ∧ (intervalEnds s).premLock = s.premLock ∧ (intervalEnds s).draws = s.draws ∧
    (intervalEnds s).pending = s.pending := by
  simp [intervalEnds, ite_fields]

@[simp] theorem pollDue_frame (s : State) :
    (pollDue s).frx = s.frx ∧ (pollDue s).netting = s.netting ∧ (pollDue s).reg = s.reg ∧
    (pollDue s).cal = s.cal ∧ (pollDue s).set = s.set ∧ (pollDue s).xcc = s.xcc ∧ (pollDue s).hst = s.hst ∧
    (pollDue s).sup = s.sup ∧ (pollDue s).upt = s.upt ∧ (pollDue s).ppt = s.ppt ∧
    (pollDue s).premLock = s.premLock ∧ (pollDue s).draws = s.draws ∧ (pollDue s).pending = s.pending := by
  simp [pollDue, ite_fields]

@[simp] theorem allowanceOut_frame (s : State) :
    (allowanceOut s).frx = s.frx ∧ (allowanceOut s).netting = s.netting ∧ (allowanceOut s).reg = s.reg ∧
    (allowanceOut s).tim = s.tim ∧ (allowanceOut s).cal = s.cal ∧ (allowanceOut s).set = s.set ∧
    (allowanceOut s).xcc = s.xcc ∧ (allowanceOut s).hst = s.hst ∧ (allowanceOut s).sup = s.sup ∧
    (allowanceOut s).upt = s.upt ∧ (allowanceOut s).ppt = s.ppt ∧ (allowanceOut s).premLock = s.premLock ∧
    (allowanceOut s).draws = s.draws ∧ (allowanceOut s).pending = s.pending := by
  unfold allowanceOut; split <;> simp

@[simp] theorem judgeReply_frame (m : AllowanceMsg) (l : List RxChar) (s : State) :
    (judgeReply m l s).frx = s.frx ∧ (judgeReply m l s).netting = s.netting ∧ (judgeReply m l s).reg = s.reg ∧
    (judgeReply m l s).tim = s.tim ∧ (judgeReply m l s).cal = s.cal ∧ (judgeReply m l s).set = s.set ∧
    (judgeReply m l s).hst = s.hst ∧ (judgeReply m l s).sup = s.sup ∧ (judgeReply m l s).premLock = s.premLock ∧
    (judgeReply m l s).draws = s.draws ∧ (judgeReply m l s).pending = s.pending := by
  unfold judgeReply; split <;> simp

@[simp] theorem replyChars_frame (l : List RxChar) (s : State) :
    (replyChars l s).frx = s.frx ∧ (replyChars l s).netting = s.netting ∧ (replyChars l s).reg = s.reg ∧
    (replyChars l s).tim = s.tim ∧ (replyChars l s).cal = s.cal ∧ (replyChars l s).set = s.set ∧
    (replyChars l s).hst = s.hst ∧ (replyChars l s).sup = s.sup ∧ (replyChars l s).premLock = s.premLock ∧
    (replyChars l s).draws = s.draws ∧ (replyChars l s).pending = s.pending := by
  unfold replyChars; split <;> simp [ite_fields]

@[simp] theorem windowCloses_frame (s : State) :
    (windowCloses s).frx = s.frx ∧ (windowCloses s).netting = s.netting ∧ (windowCloses s).reg = s.reg ∧
    (windowCloses s).cal = s.cal ∧ (windowCloses s).set = s.set ∧ (windowCloses s).hst = s.hst ∧
    (windowCloses s).sup = s.sup ∧ (windowCloses s).premLock = s.premLock ∧ (windowCloses s).draws = s.draws ∧
    (windowCloses s).pending = s.pending := by
  unfold windowCloses; split <;> simp

@[simp] theorem okWith_frame (a : Answer) (s : State) :
    (okWith a s).1.frx = s.frx ∧ (okWith a s).1.netting = s.netting ∧ (okWith a s).1.reg = s.reg ∧
    (okWith a s).1.tim = s.tim ∧ (okWith a s).1.cal = s.cal ∧ (okWith a s).1.set = s.set ∧
    (okWith a s).1.xcc = s.xcc ∧ (okWith a s).1.ulc = s.ulc ∧ (okWith a s).1.hst = s.hst ∧
    (okWith a s).1.sup = s.sup ∧ (okWith a s).1.upt = s.upt ∧ (okWith a s).1.ppt = s.ppt ∧
    (okWith a s).1.premLock = s.premLock ∧ (okWith a s).1.draws = s.draws ∧ (okWith a s).1.pending = s.pending := by
  refine ⟨rfl, rfl, rfl, rfl, rfl, rfl, rfl, rfl, rfl, rfl, rfl, rfl, rfl, rfl, rfl⟩

@[simp] theorem rangeAt_frame (a b : Nat) (s : State) :
    (rangeAt a b s).1.frx = s.frx ∧ (rangeAt a b s).1.netting = s.netting ∧ (rangeAt a b s).1.reg = s.reg ∧
    (rangeAt a b s).1.tim = s.tim ∧ (rangeAt a b s).1.cal = s.cal ∧ (rangeAt a b s).1.set = s.set ∧
    (rangeAt a b s).1.xcc = s.xcc ∧ (rangeAt a b s).1.ulc = s.ulc ∧ (rangeAt a b s).1.hst = s.hst ∧
    (rangeAt a b s).1.sup = s.sup ∧ (rangeAt a b s).1.upt = s.upt ∧ (rangeAt a b s).1.ppt = s.ppt ∧
    (rangeAt a b s).1.premLock = s.premLock ∧ (rangeAt a b s).1.draws = s.draws ∧
    (rangeAt a b s).1.pending = s.pending := by
  refine ⟨rfl, rfl, rfl, rfl, rfl, rfl, rfl, rfl, rfl, rfl, rfl, rfl, rfl, rfl, rfl⟩

@[simp] theorem bare_frame (st : Status) (s : State) :
    (bare st s).1.frx = s.frx ∧ (bare st s).1.netting = s.netting ∧ (bare st s).1.reg = s.reg ∧
    (bare st s).1.tim = s.tim ∧ (bare st s).1.cal = s.cal ∧ (bare st s).1.set = s.set ∧
    (bare st s).1.xcc = s.xcc ∧ (bare st s).1.ulc = s.ulc ∧ (bare st s).1.hst = s.hst ∧
    (bare st s).1.sup = s.sup ∧ (bare st s).1.upt = s.upt ∧ (bare st s).1.ppt = s.ppt ∧
    (bare st s).1.premLock = s.premLock ∧ (bare st s).1.draws = s.draws ∧ (bare st s).1.pending = s.pending := by
  refine ⟨rfl, rfl, rfl, rfl, rfl, rfl, rfl, rfl, rfl, rfl, rfl, rfl, rfl, rfl, rfl⟩

@[simp] theorem ownClearFrameLoss_frame (s : State) :
    (ownClearFrameLoss s).1.netting = s.netting ∧ (ownClearFrameLoss s).1.reg = s.reg ∧
    (ownClearFrameLoss s).1.tim = s.tim ∧ (ownClearFrameLoss s).1.cal = s.cal ∧
    (ownClearFrameLoss s).1.set = s.set ∧ (ownClearFrameLoss s).1.xcc = s.xcc ∧
    (ownClearFrameLoss s).1.ulc = s.ulc ∧ (ownClearFrameLoss s).1.hst = s.hst ∧
    (ownClearFrameLoss s).1.sup = s.sup ∧ (ownClearFrameLoss s).1.upt = s.upt ∧
    (ownClearFrameLoss s).1.ppt = s.ppt ∧ (ownClearFrameLoss s).1.premLock = s.premLock ∧
    (ownClearFrameLoss s).1.draws = s.draws ∧ (ownClearFrameLoss s).1.pending = s.pending := by
  refine ⟨rfl, rfl, rfl, rfl, rfl, rfl, rfl, rfl, rfl, rfl, rfl, rfl, rfl, rfl⟩

@[simp] theorem ownSetNettingMethod_frame (m : Option Nat) (s : State) :
    (ownSetNettingMethod m s).1.frx = s.frx ∧ (ownSetNettingMethod m s).1.reg = s.reg ∧
    (ownSetNettingMethod m s).1.tim = s.tim ∧ (ownSetNettingMethod m s).1.cal = s.cal ∧
    (ownSetNettingMethod m s).1.set = s.set ∧ (ownSetNettingMethod m s).1.xcc = s.xcc ∧
    (ownSetNettingMethod m s).1.ulc = s.ulc ∧ (ownSetNettingMethod m s).1.sup = s.sup ∧
    (ownSetNettingMethod m s).1.upt = s.upt ∧ (ownSetNettingMethod m s).1.ppt = s.ppt ∧
    (ownSetNettingMethod m s).1.premLock = s.premLock ∧ (ownSetNettingMethod m s).1.draws = s.draws ∧
    (ownSetNettingMethod m s).1.pending = s.pending := by
  unfold ownSetNettingMethod; split <;> simp

@[simp] theorem ownReadRegisters_frame (p : Port) (s : State) :
    (ownReadRegisters p s).1.frx = s.frx ∧ (ownReadRegisters p s).1.netting = s.netting ∧
    (ownReadRegisters p s).1.reg = s.reg ∧ (ownReadRegisters p s).1.tim = s.tim ∧
    (ownReadRegisters p s).1.cal = s.cal ∧ (ownReadRegisters p s).1.set = s.set ∧
    (ownReadRegisters p s).1.xcc = s.xcc ∧ (ownReadRegisters p s).1.ulc = s.ulc ∧
    (ownReadRegisters p s).1.hst = s.hst ∧ (ownReadRegisters p s).1.sup = s.sup ∧
    (ownReadRegisters p s).1.upt = s.upt ∧ (ownReadRegisters p s).1.ppt = s.ppt ∧
    (ownReadRegisters p s).1.premLock = s.premLock ∧ (ownReadRegisters p s).1.draws = s.draws ∧
    (ownReadRegisters p s).1.pending = s.pending := by
  unfold ownReadRegisters; split <;> simp

@[simp] theorem ownSetTime_frame (t : Nat) (s : State) :
    (ownSetTime t s).1.netting = s.netting ∧ (ownSetTime t s).1.sup = s.sup ∧
    (ownSetTime t s).1.premLock = s.premLock ∧ (ownSetTime t s).1.pending = s.pending := by
  unfold ownSetTime; split <;> simp

@[simp] theorem ownSetLocalOffset_frame (o : Option Int) (s : State) :
    (ownSetLocalOffset o s).1.netting = s.netting ∧ (ownSetLocalOffset o s).1.sup = s.sup ∧
    (ownSetLocalOffset o s).1.premLock = s.premLock ∧ (ownSetLocalOffset o s).1.pending = s.pending := by
  unfold ownSetLocalOffset; (repeat' split) <;> simp

@[simp] theorem ownReadTime_frame (s : State) :
    (ownReadTime s).1.frx = s.frx ∧ (ownReadTime s).1.netting = s.netting ∧ (ownReadTime s).1.reg = s.reg ∧
    (ownReadTime s).1.tim = s.tim ∧ (ownReadTime s).1.cal = s.cal ∧ (ownReadTime s).1.set = s.set ∧
    (ownReadTime s).1.xcc = s.xcc ∧ (ownReadTime s).1.ulc = s.ulc ∧ (ownReadTime s).1.hst = s.hst ∧
    (ownReadTime s).1.sup = s.sup ∧ (ownReadTime s).1.upt = s.upt ∧ (ownReadTime s).1.ppt = s.ppt ∧
    (ownReadTime s).1.premLock = s.premLock ∧ (ownReadTime s).1.draws = s.draws ∧
    (ownReadTime s).1.pending = s.pending := by
  refine ⟨rfl, rfl, rfl, rfl, rfl, rfl, rfl, rfl, rfl, rfl, rfl, rfl, rfl, rfl, rfl⟩

@[simp] theorem ownSetOverrideSource_frame (line : Nat) (source : Option Nat) (s : State) :
    (ownSetOverrideSource line source s).1.frx = s.frx ∧
    (ownSetOverrideSource line source s).1.netting = s.netting ∧
    (ownSetOverrideSource line source s).1.reg = s.reg ∧ (ownSetOverrideSource line source s).1.tim = s.tim ∧
    (ownSetOverrideSource line source s).1.set = s.set ∧ (ownSetOverrideSource line source s).1.xcc = s.xcc ∧
    (ownSetOverrideSource line source s).1.ulc = s.ulc ∧ (ownSetOverrideSource line source s).1.sup = s.sup ∧
    (ownSetOverrideSource line source s).1.premLock = s.premLock ∧
    (ownSetOverrideSource line source s).1.draws = s.draws ∧
    (ownSetOverrideSource line source s).1.pending = s.pending := by
  unfold ownSetOverrideSource; split <;> simp

@[simp] theorem ownSetOverride_frame (line value : Nat) (s : State) :
    (ownSetOverride line value s).1.frx = s.frx ∧ (ownSetOverride line value s).1.netting = s.netting ∧
    (ownSetOverride line value s).1.reg = s.reg ∧ (ownSetOverride line value s).1.tim = s.tim ∧
    (ownSetOverride line value s).1.set = s.set ∧ (ownSetOverride line value s).1.xcc = s.xcc ∧
    (ownSetOverride line value s).1.ulc = s.ulc ∧ (ownSetOverride line value s).1.sup = s.sup ∧
    (ownSetOverride line value s).1.premLock = s.premLock ∧ (ownSetOverride line value s).1.draws = s.draws ∧
    (ownSetOverride line value s).1.pending = s.pending := by
  unfold ownSetOverride; split <;> simp

@[simp] theorem ownSetOverrideMap_frame (m : Option (Vector RawMapEntry 4)) (s : State) :
    (ownSetOverrideMap m s).1.frx = s.frx ∧ (ownSetOverrideMap m s).1.netting = s.netting ∧
    (ownSetOverrideMap m s).1.reg = s.reg ∧ (ownSetOverrideMap m s).1.tim = s.tim ∧
    (ownSetOverrideMap m s).1.set = s.set ∧ (ownSetOverrideMap m s).1.xcc = s.xcc ∧
    (ownSetOverrideMap m s).1.ulc = s.ulc ∧ (ownSetOverrideMap m s).1.sup = s.sup ∧
    (ownSetOverrideMap m s).1.premLock = s.premLock ∧ (ownSetOverrideMap m s).1.draws = s.draws ∧
    (ownSetOverrideMap m s).1.pending = s.pending := by
  unfold ownSetOverrideMap; (repeat' split) <;> simp

@[simp] theorem ownSetSettlement_frame (mode cap day : Option Nat) (s : State) :
    (ownSetSettlement mode cap day s).1.frx = s.frx ∧ (ownSetSettlement mode cap day s).1.netting = s.netting ∧
    (ownSetSettlement mode cap day s).1.reg = s.reg ∧ (ownSetSettlement mode cap day s).1.tim = s.tim ∧
    (ownSetSettlement mode cap day s).1.cal = s.cal ∧ (ownSetSettlement mode cap day s).1.xcc = s.xcc ∧
    (ownSetSettlement mode cap day s).1.ulc = s.ulc ∧ (ownSetSettlement mode cap day s).1.sup = s.sup ∧
    (ownSetSettlement mode cap day s).1.upt = s.upt ∧ (ownSetSettlement mode cap day s).1.ppt = s.ppt ∧
    (ownSetSettlement mode cap day s).1.premLock = s.premLock ∧
    (ownSetSettlement mode cap day s).1.draws = s.draws ∧
    (ownSetSettlement mode cap day s).1.pending = s.pending := by
  unfold ownSetSettlement; (repeat' split) <;> simp

@[simp] theorem ownClosePeriod_frame (s : State) :
    (ownClosePeriod s).1.netting = s.netting ∧ (ownClosePeriod s).1.xcc = s.xcc ∧
    (ownClosePeriod s).1.ulc = s.ulc ∧ (ownClosePeriod s).1.sup = s.sup ∧
    (ownClosePeriod s).1.premLock = s.premLock ∧ (ownClosePeriod s).1.draws = s.draws ∧
    (ownClosePeriod s).1.pending = s.pending := by
  unfold ownClosePeriod; dsimp only; (repeat' split) <;> simp

@[simp] theorem setCap_frame (src : CapSource) (limit hyst : Nat) (expiry : Option Nat) (s : State) :
    (setCap src limit hyst expiry s).1.frx = s.frx ∧ (setCap src limit hyst expiry s).1.netting = s.netting ∧
    (setCap src limit hyst expiry s).1.reg = s.reg ∧ (setCap src limit hyst expiry s).1.tim = s.tim ∧
    (setCap src limit hyst expiry s).1.cal = s.cal ∧ (setCap src limit hyst expiry s).1.set = s.set ∧
    (setCap src limit hyst expiry s).1.sup = s.sup ∧ (setCap src limit hyst expiry s).1.premLock = s.premLock ∧
    (setCap src limit hyst expiry s).1.draws = s.draws ∧ (setCap src limit hyst expiry s).1.pending = s.pending := by
  unfold setCap; split <;> simp

@[simp] theorem clearCap_frame (src : CapSource) (s : State) :
    (clearCap src s).1.frx = s.frx ∧ (clearCap src s).1.netting = s.netting ∧ (clearCap src s).1.reg = s.reg ∧
    (clearCap src s).1.tim = s.tim ∧ (clearCap src s).1.cal = s.cal ∧ (clearCap src s).1.set = s.set ∧
    (clearCap src s).1.sup = s.sup ∧ (clearCap src s).1.premLock = s.premLock ∧
    (clearCap src s).1.draws = s.draws ∧ (clearCap src s).1.pending = s.pending := by
  unfold clearCap; split <;> simp

@[simp] theorem ownSetCapControl_frame (fsc enable trip hold : Option Nat) (s : State) :
    (ownSetCapControl fsc enable trip hold s).1.frx = s.frx ∧
    (ownSetCapControl fsc enable trip hold s).1.netting = s.netting ∧
    (ownSetCapControl fsc enable trip hold s).1.reg = s.reg ∧
    (ownSetCapControl fsc enable trip hold s).1.tim = s.tim ∧
    (ownSetCapControl fsc enable trip hold s).1.cal = s.cal ∧
    (ownSetCapControl fsc enable trip hold s).1.set = s.set ∧
    (ownSetCapControl fsc enable trip hold s).1.sup = s.sup ∧
    (ownSetCapControl fsc enable trip hold s).1.premLock = s.premLock ∧
    (ownSetCapControl fsc enable trip hold s).1.draws = s.draws ∧
    (ownSetCapControl fsc enable trip hold s).1.pending = s.pending := by
  unfold ownSetCapControl; split <;> simp [ite_fields]

@[simp] theorem ownReadCaps_frame (s : State) :
    (ownReadCaps s).1.frx = s.frx ∧ (ownReadCaps s).1.netting = s.netting ∧ (ownReadCaps s).1.reg = s.reg ∧
    (ownReadCaps s).1.tim = s.tim ∧ (ownReadCaps s).1.cal = s.cal ∧ (ownReadCaps s).1.set = s.set ∧
    (ownReadCaps s).1.xcc = s.xcc ∧ (ownReadCaps s).1.ulc = s.ulc ∧ (ownReadCaps s).1.hst = s.hst ∧
    (ownReadCaps s).1.sup = s.sup ∧ (ownReadCaps s).1.upt = s.upt ∧ (ownReadCaps s).1.ppt = s.ppt ∧
    (ownReadCaps s).1.premLock = s.premLock ∧ (ownReadCaps s).1.draws = s.draws ∧
    (ownReadCaps s).1.pending = s.pending := by
  refine ⟨rfl, rfl, rfl, rfl, rfl, rfl, rfl, rfl, rfl, rfl, rfl, rfl, rfl, rfl, rfl⟩

@[simp] theorem applyUnitConfig_frame (i : Fin 4) (enable : Option Bool) (slot : Option Nat) (maskOff : Option Bool) (s : State) :
    (applyUnitConfig i enable slot maskOff s).frx = s.frx ∧
    (applyUnitConfig i enable slot maskOff s).netting = s.netting ∧
    (applyUnitConfig i enable slot maskOff s).reg = s.reg ∧
    (applyUnitConfig i enable slot maskOff s).tim = s.tim ∧
    (applyUnitConfig i enable slot maskOff s).cal = s.cal ∧
    (applyUnitConfig i enable slot maskOff s).set = s.set ∧
    (applyUnitConfig i enable slot maskOff s).hst = s.hst ∧
    (applyUnitConfig i enable slot maskOff s).sup = s.sup ∧
    (applyUnitConfig i enable slot maskOff s).premLock = s.premLock ∧
    (applyUnitConfig i enable slot maskOff s).pending = s.pending := by
  simp [applyUnitConfig, eitherIf, either, oneOf, ite_fields]

@[simp] theorem ownSetUnitConfig_frame (unit : Nat) (enable slot maskOff : Option Nat) (s : State) :
    (ownSetUnitConfig unit enable slot maskOff s).1.frx = s.frx ∧
    (ownSetUnitConfig unit enable slot maskOff s).1.netting = s.netting ∧
    (ownSetUnitConfig unit enable slot maskOff s).1.reg = s.reg ∧
    (ownSetUnitConfig unit enable slot maskOff s).1.tim = s.tim ∧
    (ownSetUnitConfig unit enable slot maskOff s).1.cal = s.cal ∧
    (ownSetUnitConfig unit enable slot maskOff s).1.set = s.set ∧
    (ownSetUnitConfig unit enable slot maskOff s).1.sup = s.sup ∧
    (ownSetUnitConfig unit enable slot maskOff s).1.premLock = s.premLock ∧
    (ownSetUnitConfig unit enable slot maskOff s).1.pending = s.pending := by
  unfold ownSetUnitConfig; (repeat' split) <;> simp [ite_fields]

@[simp] theorem applyStandby_frame (i : Fin 4) (b : Bool) (s : State) :
    (applyStandby i b s).frx = s.frx ∧ (applyStandby i b s).netting = s.netting ∧
    (applyStandby i b s).reg = s.reg ∧ (applyStandby i b s).tim = s.tim ∧ (applyStandby i b s).cal = s.cal ∧
    (applyStandby i b s).set = s.set ∧ (applyStandby i b s).hst = s.hst ∧ (applyStandby i b s).sup = s.sup ∧
    (applyStandby i b s).upt = s.upt ∧ (applyStandby i b s).ppt = s.ppt ∧
    (applyStandby i b s).premLock = s.premLock ∧ (applyStandby i b s).draws = s.draws ∧
    (applyStandby i b s).pending = s.pending := by
  simp [applyStandby, ite_fields]

@[simp] theorem standbyAnswer_frame (i : Fin 4) (s : State) :
    (standbyAnswer i s).1.frx = s.frx ∧ (standbyAnswer i s).1.netting = s.netting ∧
    (standbyAnswer i s).1.reg = s.reg ∧ (standbyAnswer i s).1.tim = s.tim ∧ (standbyAnswer i s).1.cal = s.cal ∧
    (standbyAnswer i s).1.set = s.set ∧ (standbyAnswer i s).1.xcc = s.xcc ∧ (standbyAnswer i s).1.ulc = s.ulc ∧
    (standbyAnswer i s).1.hst = s.hst ∧ (standbyAnswer i s).1.sup = s.sup ∧ (standbyAnswer i s).1.upt = s.upt ∧
    (standbyAnswer i s).1.ppt = s.ppt ∧ (standbyAnswer i s).1.premLock = s.premLock ∧
    (standbyAnswer i s).1.draws = s.draws ∧ (standbyAnswer i s).1.pending = s.pending := by
  refine ⟨rfl, rfl, rfl, rfl, rfl, rfl, rfl, rfl, rfl, rfl, rfl, rfl, rfl, rfl, rfl⟩

@[simp] theorem ownSetUnitStandby_frame (unit : Nat) (standby : Option Nat) (s : State) :
    (ownSetUnitStandby unit standby s).1.frx = s.frx ∧ (ownSetUnitStandby unit standby s).1.netting = s.netting ∧
    (ownSetUnitStandby unit standby s).1.reg = s.reg ∧ (ownSetUnitStandby unit standby s).1.tim = s.tim ∧
    (ownSetUnitStandby unit standby s).1.cal = s.cal ∧ (ownSetUnitStandby unit standby s).1.set = s.set ∧
    (ownSetUnitStandby unit standby s).1.sup = s.sup ∧ (ownSetUnitStandby unit standby s).1.upt = s.upt ∧
    (ownSetUnitStandby unit standby s).1.ppt = s.ppt ∧
    (ownSetUnitStandby unit standby s).1.premLock = s.premLock ∧
    (ownSetUnitStandby unit standby s).1.draws = s.draws ∧
    (ownSetUnitStandby unit standby s).1.pending = s.pending := by
  unfold ownSetUnitStandby; (repeat' split) <;> simp

@[simp] theorem applyWeights_frame (w : Vector (Option Nat) 4) (s : State) :
    (applyWeights w s).frx = s.frx ∧ (applyWeights w s).netting = s.netting ∧ (applyWeights w s).reg = s.reg ∧
    (applyWeights w s).tim = s.tim ∧ (applyWeights w s).cal = s.cal ∧ (applyWeights w s).set = s.set ∧
    (applyWeights w s).xcc = s.xcc ∧ (applyWeights w s).hst = s.hst ∧ (applyWeights w s).sup = s.sup ∧
    (applyWeights w s).upt = s.upt ∧ (applyWeights w s).ppt = s.ppt ∧ (applyWeights w s).premLock = s.premLock ∧
    (applyWeights w s).draws = s.draws ∧ (applyWeights w s).pending = s.pending := by
  simp [applyWeights, ite_fields]

@[simp] theorem ownSetProfileWeights_frame (w : Vector (Option Nat) 4) (s : State) :
    (ownSetProfileWeights w s).1.frx = s.frx ∧ (ownSetProfileWeights w s).1.netting = s.netting ∧
    (ownSetProfileWeights w s).1.reg = s.reg ∧ (ownSetProfileWeights w s).1.tim = s.tim ∧
    (ownSetProfileWeights w s).1.cal = s.cal ∧ (ownSetProfileWeights w s).1.set = s.set ∧
    (ownSetProfileWeights w s).1.xcc = s.xcc ∧ (ownSetProfileWeights w s).1.sup = s.sup ∧
    (ownSetProfileWeights w s).1.upt = s.upt ∧ (ownSetProfileWeights w s).1.ppt = s.ppt ∧
    (ownSetProfileWeights w s).1.premLock = s.premLock ∧ (ownSetProfileWeights w s).1.draws = s.draws ∧
    (ownSetProfileWeights w s).1.pending = s.pending := by
  simp [ownSetProfileWeights, ite_fields]

@[simp] theorem ownReadUnits_frame (s : State) :
    (ownReadUnits s).1.frx = s.frx ∧ (ownReadUnits s).1.netting = s.netting ∧ (ownReadUnits s).1.reg = s.reg ∧
    (ownReadUnits s).1.tim = s.tim ∧ (ownReadUnits s).1.cal = s.cal ∧ (ownReadUnits s).1.set = s.set ∧
    (ownReadUnits s).1.xcc = s.xcc ∧ (ownReadUnits s).1.ulc = s.ulc ∧ (ownReadUnits s).1.hst = s.hst ∧
    (ownReadUnits s).1.sup = s.sup ∧ (ownReadUnits s).1.upt = s.upt ∧ (ownReadUnits s).1.ppt = s.ppt ∧
    (ownReadUnits s).1.premLock = s.premLock ∧ (ownReadUnits s).1.draws = s.draws ∧
    (ownReadUnits s).1.pending = s.pending := by
  refine ⟨rfl, rfl, rfl, rfl, rfl, rfl, rfl, rfl, rfl, rfl, rfl, rfl, rfl, rfl, rfl⟩

@[simp] theorem ownGetStatus_frame (p : Port) (s : State) :
    (ownGetStatus p s).1.frx = s.frx ∧ (ownGetStatus p s).1.netting = s.netting ∧
    (ownGetStatus p s).1.reg = s.reg ∧ (ownGetStatus p s).1.tim = s.tim ∧ (ownGetStatus p s).1.cal = s.cal ∧
    (ownGetStatus p s).1.set = s.set ∧ (ownGetStatus p s).1.xcc = s.xcc ∧ (ownGetStatus p s).1.ulc = s.ulc ∧
    (ownGetStatus p s).1.hst = s.hst ∧ (ownGetStatus p s).1.sup = s.sup ∧ (ownGetStatus p s).1.upt = s.upt ∧
    (ownGetStatus p s).1.ppt = s.ppt ∧ (ownGetStatus p s).1.premLock = s.premLock ∧
    (ownGetStatus p s).1.draws = s.draws ∧ (ownGetStatus p s).1.pending = s.pending := by
  refine ⟨rfl, rfl, rfl, rfl, rfl, rfl, rfl, rfl, rfl, rfl, rfl, rfl, rfl, rfl, rfl⟩

@[simp] theorem ownReadNotices_frame (p : Port) (s : State) :
    (ownReadNotices p s).1.frx = s.frx ∧ (ownReadNotices p s).1.netting = s.netting ∧
    (ownReadNotices p s).1.reg = s.reg ∧ (ownReadNotices p s).1.tim = s.tim ∧ (ownReadNotices p s).1.cal = s.cal ∧
    (ownReadNotices p s).1.set = s.set ∧ (ownReadNotices p s).1.xcc = s.xcc ∧ (ownReadNotices p s).1.ulc = s.ulc ∧
    (ownReadNotices p s).1.hst = s.hst ∧ (ownReadNotices p s).1.sup = s.sup ∧
    (ownReadNotices p s).1.premLock = s.premLock ∧ (ownReadNotices p s).1.draws = s.draws ∧
    (ownReadNotices p s).1.pending = s.pending := by
  simp [ownReadNotices]

@[simp] theorem ownSetNoticeMask_frame (p : Port) (m : Option (BitVec 16)) (s : State) :
    (ownSetNoticeMask p m s).1.frx = s.frx ∧ (ownSetNoticeMask p m s).1.netting = s.netting ∧
    (ownSetNoticeMask p m s).1.reg = s.reg ∧ (ownSetNoticeMask p m s).1.tim = s.tim ∧
    (ownSetNoticeMask p m s).1.cal = s.cal ∧ (ownSetNoticeMask p m s).1.set = s.set ∧
    (ownSetNoticeMask p m s).1.xcc = s.xcc ∧ (ownSetNoticeMask p m s).1.ulc = s.ulc ∧
    (ownSetNoticeMask p m s).1.sup = s.sup ∧ (ownSetNoticeMask p m s).1.premLock = s.premLock ∧
    (ownSetNoticeMask p m s).1.draws = s.draws ∧ (ownSetNoticeMask p m s).1.pending = s.pending := by
  unfold ownSetNoticeMask; (repeat' split) <;> simp

@[simp] theorem ownFreezeView_frame (p : Port) (s : State) :
    (ownFreezeView p s).1.frx = s.frx ∧ (ownFreezeView p s).1.netting = s.netting ∧
    (ownFreezeView p s).1.reg = s.reg ∧ (ownFreezeView p s).1.tim = s.tim ∧ (ownFreezeView p s).1.cal = s.cal ∧
    (ownFreezeView p s).1.set = s.set ∧ (ownFreezeView p s).1.xcc = s.xcc ∧ (ownFreezeView p s).1.ulc = s.ulc ∧
    (ownFreezeView p s).1.hst = s.hst ∧ (ownFreezeView p s).1.sup = s.sup ∧
    (ownFreezeView p s).1.premLock = s.premLock ∧ (ownFreezeView p s).1.draws = s.draws ∧
    (ownFreezeView p s).1.pending = s.pending := by
  simp [ownFreezeView]

@[simp] theorem ownReleaseView_frame (p : Port) (s : State) :
    (ownReleaseView p s).1.frx = s.frx ∧ (ownReleaseView p s).1.netting = s.netting ∧
    (ownReleaseView p s).1.reg = s.reg ∧ (ownReleaseView p s).1.tim = s.tim ∧ (ownReleaseView p s).1.cal = s.cal ∧
    (ownReleaseView p s).1.set = s.set ∧ (ownReleaseView p s).1.xcc = s.xcc ∧ (ownReleaseView p s).1.ulc = s.ulc ∧
    (ownReleaseView p s).1.hst = s.hst ∧ (ownReleaseView p s).1.sup = s.sup ∧
    (ownReleaseView p s).1.premLock = s.premLock ∧ (ownReleaseView p s).1.draws = s.draws ∧
    (ownReleaseView p s).1.pending = s.pending := by
  simp [ownReleaseView]

@[simp] theorem ownLock_frame (b : Bool) (s : State) :
    (ownLock b s).1.frx = s.frx ∧ (ownLock b s).1.netting = s.netting ∧ (ownLock b s).1.reg = s.reg ∧
    (ownLock b s).1.tim = s.tim ∧ (ownLock b s).1.cal = s.cal ∧ (ownLock b s).1.set = s.set ∧
    (ownLock b s).1.xcc = s.xcc ∧ (ownLock b s).1.ulc = s.ulc ∧ (ownLock b s).1.sup = s.sup ∧
    (ownLock b s).1.upt = s.upt ∧ (ownLock b s).1.ppt = s.ppt ∧ (ownLock b s).1.draws = s.draws ∧
    (ownLock b s).1.pending = s.pending := by
  simp [ownLock]

@[simp] theorem ownRestart_frame (s : State) :
    (ownRestart s).1.frx = s.frx ∧ (ownRestart s).1.netting = s.netting ∧ (ownRestart s).1.reg = s.reg ∧
    (ownRestart s).1.tim = s.tim ∧ (ownRestart s).1.cal = s.cal ∧ (ownRestart s).1.set = s.set ∧
    (ownRestart s).1.xcc = s.xcc ∧ (ownRestart s).1.ulc = s.ulc ∧ (ownRestart s).1.upt = s.upt ∧
    (ownRestart s).1.ppt = s.ppt ∧ (ownRestart s).1.premLock = s.premLock ∧ (ownRestart s).1.draws = s.draws ∧
    (ownRestart s).1.pending = s.pending := by
  simp [ownRestart, ite_fields]

@[simp] theorem ownPassiveClear_frame (name : Name8) (s : State) :
    (ownPassiveClear name s).1.frx = s.frx ∧ (ownPassiveClear name s).1.netting = s.netting ∧
    (ownPassiveClear name s).1.reg = s.reg ∧ (ownPassiveClear name s).1.tim = s.tim ∧
    (ownPassiveClear name s).1.xcc = s.xcc ∧ (ownPassiveClear name s).1.ulc = s.ulc ∧
    (ownPassiveClear name s).1.sup = s.sup ∧ (ownPassiveClear name s).1.upt = s.upt ∧
    (ownPassiveClear name s).1.ppt = s.ppt ∧ (ownPassiveClear name s).1.premLock = s.premLock ∧
    (ownPassiveClear name s).1.draws = s.draws ∧ (ownPassiveClear name s).1.pending = s.pending := by
  simp [ownPassiveClear]

@[simp] theorem edit_frame (fault : Option CalFault) (f : Calendar → Calendar) (s : State) :
    (edit fault f s).1.frx = s.frx ∧ (edit fault f s).1.netting = s.netting ∧ (edit fault f s).1.reg = s.reg ∧
    (edit fault f s).1.tim = s.tim ∧ (edit fault f s).1.xcc = s.xcc ∧ (edit fault f s).1.ulc = s.ulc ∧
    (edit fault f s).1.sup = s.sup ∧ (edit fault f s).1.upt = s.upt ∧ (edit fault f s).1.ppt = s.ppt ∧
    (edit fault f s).1.premLock = s.premLock ∧ (edit fault f s).1.draws = s.draws ∧
    (edit fault f s).1.pending = s.pending := by
  unfold edit; (repeat' split) <;> simp

@[simp] theorem ownPassiveBands_frame (nb fb : Nat) (l : List RawBand) (s : State) :
    (ownPassiveBands nb fb l s).1.frx = s.frx ∧ (ownPassiveBands nb fb l s).1.netting = s.netting ∧
    (ownPassiveBands nb fb l s).1.reg = s.reg ∧ (ownPassiveBands nb fb l s).1.tim = s.tim ∧
    (ownPassiveBands nb fb l s).1.xcc = s.xcc ∧ (ownPassiveBands nb fb l s).1.ulc = s.ulc ∧
    (ownPassiveBands nb fb l s).1.sup = s.sup ∧ (ownPassiveBands nb fb l s).1.upt = s.upt ∧
    (ownPassiveBands nb fb l s).1.ppt = s.ppt ∧ (ownPassiveBands nb fb l s).1.premLock = s.premLock ∧
    (ownPassiveBands nb fb l s).1.draws = s.draws ∧ (ownPassiveBands nb fb l s).1.pending = s.pending := by
  simp [ownPassiveBands]

@[simp] theorem ownPassiveSeason_frame (i : Nat) (x : Option RawSeason) (s : State) :
    (ownPassiveSeason i x s).1.frx = s.frx ∧ (ownPassiveSeason i x s).1.netting = s.netting ∧
    (ownPassiveSeason i x s).1.reg = s.reg ∧ (ownPassiveSeason i x s).1.tim = s.tim ∧
    (ownPassiveSeason i x s).1.xcc = s.xcc ∧ (ownPassiveSeason i x s).1.ulc = s.ulc ∧
    (ownPassiveSeason i x s).1.sup = s.sup ∧ (ownPassiveSeason i x s).1.upt = s.upt ∧
    (ownPassiveSeason i x s).1.ppt = s.ppt ∧ (ownPassiveSeason i x s).1.premLock = s.premLock ∧
    (ownPassiveSeason i x s).1.draws = s.draws ∧ (ownPassiveSeason i x s).1.pending = s.pending := by
  simp [ownPassiveSeason]

@[simp] theorem ownPassiveWeek_frame (i : Nat) (w : Option (Vector Nat 7)) (s : State) :
    (ownPassiveWeek i w s).1.frx = s.frx ∧ (ownPassiveWeek i w s).1.netting = s.netting ∧
    (ownPassiveWeek i w s).1.reg = s.reg ∧ (ownPassiveWeek i w s).1.tim = s.tim ∧
    (ownPassiveWeek i w s).1.xcc = s.xcc ∧ (ownPassiveWeek i w s).1.ulc = s.ulc ∧
    (ownPassiveWeek i w s).1.sup = s.sup ∧ (ownPassiveWeek i w s).1.upt = s.upt ∧
    (ownPassiveWeek i w s).1.ppt = s.ppt ∧ (ownPassiveWeek i w s).1.premLock = s.premLock ∧
    (ownPassiveWeek i w s).1.draws = s.draws ∧ (ownPassiveWeek i w s).1.pending = s.pending := by
  simp [ownPassiveWeek]

@[simp] theorem ownPassiveDay_frame (i : Nat) (d : Option (List RawPoint)) (s : State) :
    (ownPassiveDay i d s).1.frx = s.frx ∧ (ownPassiveDay i d s).1.netting = s.netting ∧
    (ownPassiveDay i d s).1.reg = s.reg ∧ (ownPassiveDay i d s).1.tim = s.tim ∧
    (ownPassiveDay i d s).1.xcc = s.xcc ∧ (ownPassiveDay i d s).1.ulc = s.ulc ∧
    (ownPassiveDay i d s).1.sup = s.sup ∧ (ownPassiveDay i d s).1.upt = s.upt ∧
    (ownPassiveDay i d s).1.ppt = s.ppt ∧ (ownPassiveDay i d s).1.premLock = s.premLock ∧
    (ownPassiveDay i d s).1.draws = s.draws ∧ (ownPassiveDay i d s).1.pending = s.pending := by
  simp [ownPassiveDay]

@[simp] theorem ownPassiveSpecial_frame (i : Nat) (x : Option RawSpecial) (s : State) :
    (ownPassiveSpecial i x s).1.frx = s.frx ∧ (ownPassiveSpecial i x s).1.netting = s.netting ∧
    (ownPassiveSpecial i x s).1.reg = s.reg ∧ (ownPassiveSpecial i x s).1.tim = s.tim ∧
    (ownPassiveSpecial i x s).1.xcc = s.xcc ∧ (ownPassiveSpecial i x s).1.ulc = s.ulc ∧
    (ownPassiveSpecial i x s).1.sup = s.sup ∧ (ownPassiveSpecial i x s).1.upt = s.upt ∧
    (ownPassiveSpecial i x s).1.ppt = s.ppt ∧ (ownPassiveSpecial i x s).1.premLock = s.premLock ∧
    (ownPassiveSpecial i x s).1.draws = s.draws ∧ (ownPassiveSpecial i x s).1.pending = s.pending := by
  simp [ownPassiveSpecial]

@[simp] theorem scheduleImage_frame (s : State) :
    (scheduleImage s).frx = s.frx ∧ (scheduleImage s).netting = s.netting ∧ (scheduleImage s).reg = s.reg ∧
    (scheduleImage s).tim = s.tim ∧ (scheduleImage s).set = s.set ∧ (scheduleImage s).xcc = s.xcc ∧
    (scheduleImage s).ulc = s.ulc ∧ (scheduleImage s).sup = s.sup ∧ (scheduleImage s).upt = s.upt ∧
    (scheduleImage s).ppt = s.ppt ∧ (scheduleImage s).premLock = s.premLock ∧ (scheduleImage s).draws = s.draws ∧
    (scheduleImage s).pending = s.pending := by
  simp [scheduleImage, ite_fields]

@[simp] theorem ownPassiveActivateAt_frame (t : RawDateTime) (s : State) :
    (ownPassiveActivateAt t s).1.netting = s.netting ∧ (ownPassiveActivateAt t s).1.xcc = s.xcc ∧
    (ownPassiveActivateAt t s).1.ulc = s.ulc ∧ (ownPassiveActivateAt t s).1.sup = s.sup ∧
    (ownPassiveActivateAt t s).1.premLock = s.premLock ∧ (ownPassiveActivateAt t s).1.draws = s.draws ∧
    (ownPassiveActivateAt t s).1.pending = s.pending := by
  unfold ownPassiveActivateAt; (repeat' split) <;> simp [ite_fields]

@[simp] theorem ownPassiveActivateNow_frame (s : State) :
    (ownPassiveActivateNow s).1.netting = s.netting ∧ (ownPassiveActivateNow s).1.xcc = s.xcc ∧
    (ownPassiveActivateNow s).1.ulc = s.ulc ∧ (ownPassiveActivateNow s).1.sup = s.sup ∧
    (ownPassiveActivateNow s).1.premLock = s.premLock ∧ (ownPassiveActivateNow s).1.draws = s.draws ∧
    (ownPassiveActivateNow s).1.pending = s.pending := by
  unfold ownPassiveActivateNow; dsimp only; (repeat' split) <;> simp

@[simp] theorem ownReadCalendar_frame (code part index : Nat) (s : State) :
    (ownReadCalendar code part index s).1.frx = s.frx ∧
    (ownReadCalendar code part index s).1.netting = s.netting ∧
    (ownReadCalendar code part index s).1.reg = s.reg ∧ (ownReadCalendar code part index s).1.tim = s.tim ∧
    (ownReadCalendar code part index s).1.cal = s.cal ∧ (ownReadCalendar code part index s).1.set = s.set ∧
    (ownReadCalendar code part index s).1.xcc = s.xcc ∧ (ownReadCalendar code part index s).1.ulc = s.ulc ∧
    (ownReadCalendar code part index s).1.hst = s.hst ∧ (ownReadCalendar code part index s).1.sup = s.sup ∧
    (ownReadCalendar code part index s).1.upt = s.upt ∧ (ownReadCalendar code part index s).1.ppt = s.ppt ∧
    (ownReadCalendar code part index s).1.premLock = s.premLock ∧
    (ownReadCalendar code part index s).1.draws = s.draws ∧
    (ownReadCalendar code part index s).1.pending = s.pending := by
  unfold ownReadCalendar; (repeat' split) <;> simp

@[simp] theorem ownReadSnapshot_frame (p : Port) (key : SnapshotKey) (s : State) :
    (ownReadSnapshot p key s).1.frx = s.frx ∧ (ownReadSnapshot p key s).1.netting = s.netting ∧
    (ownReadSnapshot p key s).1.reg = s.reg ∧ (ownReadSnapshot p key s).1.tim = s.tim ∧
    (ownReadSnapshot p key s).1.cal = s.cal ∧ (ownReadSnapshot p key s).1.set = s.set ∧
    (ownReadSnapshot p key s).1.xcc = s.xcc ∧ (ownReadSnapshot p key s).1.ulc = s.ulc ∧
    (ownReadSnapshot p key s).1.sup = s.sup ∧ (ownReadSnapshot p key s).1.upt = s.upt ∧
    (ownReadSnapshot p key s).1.ppt = s.ppt ∧ (ownReadSnapshot p key s).1.premLock = s.premLock ∧
    (ownReadSnapshot p key s).1.draws = s.draws ∧ (ownReadSnapshot p key s).1.pending = s.pending := by
  unfold ownReadSnapshot; (repeat' split) <;> simp

@[simp] theorem ownArchive_frame (on : Bool) (l : SectorList) (s : State) :
    (ownArchive on l s).1.frx = s.frx ∧ (ownArchive on l s).1.netting = s.netting ∧
    (ownArchive on l s).1.reg = s.reg ∧ (ownArchive on l s).1.tim = s.tim ∧ (ownArchive on l s).1.cal = s.cal ∧
    (ownArchive on l s).1.set = s.set ∧ (ownArchive on l s).1.xcc = s.xcc ∧ (ownArchive on l s).1.ulc = s.ulc ∧
    (ownArchive on l s).1.sup = s.sup ∧ (ownArchive on l s).1.upt = s.upt ∧ (ownArchive on l s).1.ppt = s.ppt ∧
    (ownArchive on l s).1.premLock = s.premLock ∧ (ownArchive on l s).1.draws = s.draws ∧
    (ownArchive on l s).1.pending = s.pending := by
  unfold ownArchive; split <;> simp

@[simp] theorem serve_frame (p : Port) (q : Request) (s : State) :
    (serve p q s).1.pending = s.pending := by
  unfold serve; split <;> simp

@[simp] theorem judge_frame (p : Port) (n : Nat) (b : Bool) (q : Option Request) (s : State) :
    (judge p n b q s).pending = s.pending := by
  unfold judge respond; (repeat' split) <;> simp [settleReply] <;> split <;> simp

@[simp] theorem goodFrame_frame (p : Port) (n : Nat) (b : Bool) (q : Option Request) (s : State) :
    (goodFrame p n b q s).pending = s.pending := by
  simp [goodFrame, ite_fields]

@[simp] theorem takeRequest_frame (p : Port) (q : Request) (s : State) :
    (takeRequest p q s).pending = s.pending := by
  simp [takeRequest]

@[simp] theorem takePayload_frame (p : Port) (n : Nat) (l : List Byte) (s : State) :
    (takePayload p n l s).pending = s.pending := by
  simp [takePayload]

@[simp] theorem endFrame_frame (p : Port) (l : List RxChar) (s : State) :
    (endFrame p l s).pending = s.pending := by
  simp [endFrame, ite_fields]

@[simp] theorem collectChar_frame (p : Port) (l : List RxChar) (s : State) :
    (collectChar p l s).pending = s.pending := by
  simp [collectChar, ite_fields]

@[simp] theorem receive_frame (p : Port) (c : RxChar) (s : State) :
    (receive p c s).pending = s.pending := by
  unfold receive; split <;> simp [ite_fields]

end Sys2Proof.Machine
end

