-- ==== Sys2Proof/Laws/Wire.lean ====
section
/-! SUPPORT. The laws of fields and checks: the lengths of what is written, and that each reader reads back what the
writer of its field wrote. -/
namespace Sys2Proof.Machine

/-! ### Integers -/

@[simp] theorem leBytes_length (k n : Nat) : (leBytes k n).length = k := by
  induction k generalizing n with
  | zero => rfl
  | succ k ih => simp [leBytes, ih]

/-- An unsigned field holds its value. -/
theorem leNat_leBytes {k n : Nat} (h : n < 256 ^ k) : leNat (leBytes k n) = n := by
  induction k generalizing n with
  | zero => simp [leBytes, leNat] at *; omega
  | succ k ih =>
    rw [leBytes, leNat, ih (by rw [pow_succ] at h; omega), BitVec.toNat_ofNat]
    omega

/-- An unsigned field is read back with what follows it left. -/
theorem readNat_leBytes {k n : Nat} (h : n < 256 ^ k) (l : List Byte) : readNat k (leBytes k n ++ l) = some (n, l) := by
  induction k generalizing n with
  | zero => simp [leBytes, readNat] at *; omega
  | succ k ih =>
    rw [leBytes, List.cons_append, readNat, ih (by rw [pow_succ] at h; omega)]
    simp only [BitVec.toNat_ofNat, Option.some.injEq, Prod.mk.injEq, and_true]
    omega

/-- A signed field holds its value. -/
theorem signedOf_emod {k : Nat} {i : Int} (hl : -(256 ^ k : Nat) ≤ 2 * i) (hu : 2 * i < (256 ^ k : Nat)) :
    signedOf k (i % (256 ^ k : Nat)).toNat = i := by
  unfold signedOf
  generalize 256 ^ k = m at *
  have hm : (0 : Int) < m := by omega
  by_cases hi : 0 ≤ i
  · have h : i % (m : Int) = i := Int.emod_eq_of_lt hi (by omega)
    rw [h, if_pos (by omega)]
    omega
  · have h : i % (m : Int) = i + m := by
      rw [← Int.add_emod_right]
      exact Int.emod_eq_of_lt (by omega) (by omega)
    rw [h, if_neg (by omega)]
    omega

/-! ### Checks -/

@[simp] theorem crcBytes_length (l : List Byte) : (crcBytes l).length = 2 := leBytes_length _ _

@[simp] theorem withCrc_length (l : List Byte) : (withCrc l).length = l.length + 2 := by simp [withCrc]

/-- Bytes with their check behind them pass the check. -/
theorem crcOk_withCrc (l : List Byte) : crcOk (withCrc l) = true := by
  simp [crcOk, withCrc]

/-! ### Readers: what each reads off the front of a payload -/

/-- `f` reads `a` off the bytes `b`, whatever follows them. -/
def Reads {α : Type} (f : Read α) (a : α) (b : List Byte) : Prop := ∀ l, f (b ++ l) = some (a, l)

theorem reads_nat {k n : Nat} (h : n < 256 ^ k) : Reads (readNat k) n (leBytes k n) := readNat_leBytes h

theorem reads_byte (x : Byte) : Reads readByte x [x] := fun _ => rfl

theorem reads_map {α β : Type} {f : Read α} {a : α} {b : List Byte} (g : α → β) (h : Reads f a b) :
    Reads (readMap g f) (g a) b := fun l => by simp [readMap, h l]

theorem reads_pair {α β : Type} {f : Read α} {g : Read β} {a : α} {c : β} {x y : List Byte} (hf : Reads f a x)
    (hg : Reads g c y) : Reads (readPair f g) (a, c) (x ++ y) := fun l => by
  simp [readPair, hf (y ++ l), hg l]

/-- A present optional field. -/
theorem reads_some {α : Type} {f : Read α} {a : α} {x : List Byte} (h : Reads f a x) :
    Reads (readOpt f) (some a) (leBytes 1 1 ++ x) := fun l => by
  rw [List.append_assoc, readOpt, readNat_leBytes (by norm_num)]
  simp [h l]

/-- An absent optional field, filled with zeros that its reader takes. -/
theorem reads_none {α : Type} {f : Read α} {a : α} {x : List Byte} (h : Reads f a x) :
    Reads (readOpt f) none (leBytes 1 0 ++ x) := fun l => by
  rw [List.append_assoc, readOpt, readNat_leBytes (by norm_num)]
  simp [h l]

theorem reads_many {α : Type} {f : Read α} {w : α → List Byte} (as : List α) (h : ∀ a ∈ as, Reads f a (w a)) :
    Reads (readMany f as.length) as (as.flatMap w) := by
  induction as with
  | nil => exact fun l => rfl
  | cons a as ih =>
    intro l
    have h1 := ih (fun a ha => h a (by simp [ha])) l
    rw [List.flatMap_cons, List.append_assoc, List.length_cons, readMany, h a (by simp)]
    simp [h1]

theorem reads_list {α : Type} {f : Read α} {w : α → List Byte} (as : List α) (hn : as.length < 256)
    (h : ∀ a ∈ as, Reads f a (w a)) : Reads (readList f) as (listBytes w as) := fun l => by
  rw [listBytes, List.append_assoc, readList, readNat_leBytes (by simpa using hn)]
  exact reads_many as h l

theorem reads_vec {α : Type} {n : Nat} {f : Read α} {w : α → List Byte} (v : Vector α n)
    (h : ∀ a ∈ v.toList, Reads f a (w a)) : Reads (readVec f n) v (v.toList.flatMap w) := fun l => by
  have hl : v.toList.length = n := by simp
  have h1 := reads_many v.toList h l
  rw [hl] at h1
  simp only [readVec, h1, hl, dite_true, Option.some.injEq, Prod.mk.injEq, and_true]
  exact Vector.toArray_inj.mp rfl

/-- A whole payload is what its one field's bytes are. -/
theorem readAll_of_reads {α : Type} {f : Read α} {a : α} {x : List Byte} (h : Reads f a x) : readAll f x = some a := by
  have h1 := h []
  rw [List.append_nil] at h1
  simp [readAll, h1]

/-! ### The checkpoint content (R163, R204) -/

/-- A field put in its place adds its bytes and no others. -/
theorem placeField_length (f : Nat × List Byte) (l : List (Nat × List Byte)) :
    ((placeField f l).flatMap (·.2)).length = f.2.length + (l.flatMap (·.2)).length := by
  induction l with
  | nil => simp [placeField]
  | cons g l ih => unfold placeField; split <;> (simp_all; try omega)

/-- Whatever order the free ranks give, the content holds the bytes of every field. -/
theorem Checkpoint.content_fields (c : Checkpoint) : c.content.length = (c.fields.map List.length).sum := by
  have h (l : List (Nat × List Byte)) :
      ((l.foldr placeField []).flatMap (·.2)).length = (l.map (·.2.length)).sum := by
    induction l with
    | nil => rfl
    | cons f l ih => rw [List.foldr_cons, placeField_length, ih]; simp
  rw [Checkpoint.content, h]
  congr 1
  simp only [List.map_map, Function.comp_def]
  rw [← List.zipIdx_map_fst 0 c.fields, List.map_map]
  simp [List.zipIdx_map_fst, Function.comp_def]

@[simp] theorem flagBytes_length (b : Bool) : (flagBytes b).length = 1 := leBytes_length _ _

@[simp] theorem optBytes_length (k : Nat) (n : Option Nat) : (optBytes k n).length = k + 1 := by
  cases n <;> simp [optBytes] <;> omega

@[simp] theorem optField_length {α : Type} (k : Nat) (f : α → List Byte) (a : Option α) (h : ∀ a, (f a).length = k) :
    (optField k f a).length = k + 1 := by
  cases a <;> simp [optField, h] <;> omega

/-- Fields of one width, one after another. -/
theorem map_length_const {α : Type} {n k : Nat} (v : Vector α n) (f : α → List Byte) (h : ∀ a, (f a).length = k) :
    ((v.toList.map f).map List.length).sum = n * k := by
  have : (v.toList.map f).map List.length = List.replicate n k := by
    simp [List.map_map, Function.comp_def, h, List.map_const']
  simp [this]

@[simp] theorem optDay_length (d : Option Nat) : (optDay d).length = 4 := optField_length 3 _ d (by simp)

@[simp] theorem optOwed_length (o : Option Owed) : (optOwed o).length = 9 :=
  optField_length 8 _ o (by simp [Owed.bytes])

@[simp] theorem actTime_length (a : ActTime) : a.bytes.length = 5 := by simp [ActTime.bytes, dayBytes]

@[simp] theorem capRecord_length (r : CapRecord) : r.bytes.length = 14 := by simp [CapRecord.bytes]

@[simp] theorem mapEntry_length (e : MapEntry) : e.bytes.length = 2 := by cases e <;> simp [MapEntry.bytes]

@[simp] theorem unitConfig_length (c : UnitConfig) : c.bytes.length = 4 := by simp [UnitConfig.bytes]

theorem RegBank.fields_length (r : RegBank) : (r.fields.map List.length).sum = 102 := by
  simp only [RegBank.fields, List.map_append, List.sum_append, map_length_const _ _ (leBytes_length 4), List.map_cons,
    List.map_nil, List.sum_cons, List.sum_nil, leBytes_length, optBytes_length]
  rfl

theorem CalSaved.fields_length (c : CalSaved) : (c.fields.map List.length).sum = 22 := by
  simp only [CalSaved.fields, List.map_append, List.sum_append, List.map_cons, List.map_nil, List.sum_cons, List.sum_nil,
    map_length_const _ _ mapEntry_length, map_length_const _ _ flagBytes_length,
    map_length_const c.sources (fun x => leBytes 1 x.code) (fun _ => leBytes_length 1 _), leBytes_length,
    optBytes_length, flagBytes_length, optField_length 5 ActTime.bytes c.activation actTime_length]
  rfl

/-- The content has one length whatever it holds. -/
theorem Checkpoint.content_length (c : Checkpoint) : c.content.length = 223 := by
  rw [Checkpoint.content_fields]
  simp only [Checkpoint.fields, List.map_append, List.sum_append, RegBank.fields_length, CalSaved.fields_length,
    List.map_cons, List.map_nil, List.sum_cons, List.sum_nil, map_length_const _ _ unitConfig_length,
    map_length_const c.weights _ (leBytes_length 1), leBytes_length, flagBytes_length, optDay_length, optOwed_length,
    leIntBytes, optField_length 14 CapRecord.bytes _ capRecord_length]
  rfl

/-- The two halves carry the content between them, cut once (R204). -/
theorem Checkpoint.shares (c : Checkpoint) : c.share 0 ++ c.share 1 = c.content := by
  simp [Checkpoint.share, List.take_append_drop]

/-- A half's body fits the slot: 5 bytes and its share, 251 at most (R204). -/
theorem Checkpoint.share_length (c : Checkpoint) (n : Fin 2) : (c.share n).length + 5 ≤ 251 := by
  have h : (c.share n).length ≤ c.content.length := by unfold Checkpoint.share; dsimp only; split <;> simp
  rw [Checkpoint.content_length] at h
  omega

/-- A record of at most 251 bytes fills its slot to 256 (R204). -/
theorem slotOf_length (kind : Nat) {body : List Byte} (h : body.length ≤ 251) : (slotOf kind body).length = 256 := by
  simp [slotOf]; omega

/-- A checkpoint half fills its slot. -/
theorem half_length (n : Fin 2) (c : Checkpoint) {l : List Byte} (h : (SlotContent.half n c).bytes = some l) :
    l.length = 256 := by
  simp only [SlotContent.bytes, Option.some.injEq] at h
  subst h
  refine slotOf_length 2 ?_
  have := c.share_length n
  simp; omega

end Sys2Proof.Machine
end

