-- ==== Sys2Proof/Laws/PerInstr.lean ====
section
/-! SUPPORT. A statement for every command, one lemma per constructor: a well-formed request has a code of the catalogue
and a payload that fits a request frame (R181, R197). -/
namespace Sys2Proof.Machine

/-- A list of entries of one width. -/
theorem flatMap_length {α : Type} (f : α → List Byte) (n : Nat) (l : List α) (h : ∀ a ∈ l, (f a).length = n) :
    (l.flatMap f).length = l.length * n := by
  induction l with
  | nil => simp
  | cons a l ih =>
    rw [List.flatMap_cons, List.length_append, h a (by simp), ih fun a ha => h a (by simp [ha]), List.length_cons]
    ring

/-- A list field of entries of one width, behind its count. -/
theorem listBytes_length {α : Type} (f : α → List Byte) (n : Nat) (l : List α) (h : ∀ a, (f a).length = n) :
    (listBytes f l).length = l.length * n + 1 := by
  rw [listBytes, List.length_append, leBytes_length, flatMap_length f n l fun a _ => h a]
  omega

@[simp] theorem optField_nat_length (k : Nat) (a : Option Nat) : (optField k (leBytes k) a).length = k + 1 :=
  optField_length k _ a (leBytes_length k)

end Sys2Proof.Machine

namespace Sys2Proof.Laws.PortOperand
open Sys2Proof.Machine

/-- The request a well-formed command carries has a code of the catalogue, and its payload fits a frame. -/
def Statement (i : Instr) : Prop :=
  i.wf = true → ∀ p q, i.request = some (p, q) →
    inCatalogue (Request.code q) = true ∧ (Request.payload q).length ≤ 480

/-- A command that carries no request. -/
theorem of_event {i : Instr} (h : i.request = none) : Statement i := fun _ p q hq => by
  rw [h] at hq
  cases hq

/-- A command whose request has a code of the catalogue and a payload that fits. -/
theorem of_request {i : Instr} {p : Port} {q : Request} (h : i.request = some (p, q))
    (hc : inCatalogue (Request.code q) = true) (hl : q.wf = true → (Request.payload q).length ≤ 480) :
    Statement i := fun hw p' q' hq => by
  rw [h, Option.some.injEq, Prod.mk.injEq] at hq
  obtain ⟨-, rfl⟩ := hq
  exact ⟨hc, hl (by simpa [Instr.wf, h] using hw)⟩

theorem phaseFrame (run : LinkRun) : Statement (.phaseFrame run) := of_event rfl

theorem silence500 : Statement .silence500 := of_event rfl

theorem silence2000 : Statement .silence2000 := of_event rfl

theorem secondTick : Statement .secondTick := of_event rfl

theorem backupDomainLoss : Statement .backupDomainLoss := of_event rfl

theorem overrideLineLevelChange (line : Fin 2) (level : Bool) :
    Statement (.overrideLineLevelChange line level) := of_event rfl

theorem overrideDebounceExpiry (line : Fin 2) : Statement (.overrideDebounceExpiry line) := of_event rfl

theorem mainsWarnAssert : Statement .mainsWarnAssert := of_event rfl

theorem mainsWarnDeassert : Statement .mainsWarnDeassert := of_event rfl

theorem supplyDebounceExpiry : Statement .supplyDebounceExpiry := of_event rfl

theorem writeSequenceEnd : Statement .writeSequenceEnd := of_event rfl

theorem powerOnReset : Statement .powerOnReset := of_event rfl

theorem resetLine : Statement .resetLine := of_event rfl

theorem recoveryCheckpointScan : Statement .recoveryCheckpointScan := of_event rfl

theorem recoveryLogScan : Statement .recoveryLogScan := of_event rfl

theorem recoveryCalendarLoad : Statement .recoveryCalendarLoad := of_event rfl

theorem periodicCheckpointTimer : Statement .periodicCheckpointTimer := of_event rfl

theorem snapshotProgramComplete (valid : Bool) : Statement (.snapshotProgramComplete valid) := of_event rfl

theorem checkpointProgramComplete (valid0 : Bool) (valid1 : Bool) :
    Statement (.checkpointProgramComplete valid0 valid1) := of_event rfl

theorem calendarPartProgramComplete (valid : Bool) : Statement (.calendarPartProgramComplete valid) := of_event rfl

theorem sectorEraseComplete (notBlank : BitVec 16) : Statement (.sectorEraseComplete notBlank) := of_event rfl

theorem eraseSuspend : Statement .eraseSuspend := of_event rfl

theorem slotReadComplete (decayed : Bool) : Statement (.slotReadComplete decayed) := of_event rfl

theorem requestFrame (port : Port) (chars : List RxChar) : Statement (.requestFrame port chars) := of_event rfl

theorem frameLengthOverflow (port : Port) (length : BitVec 16) :
    Statement (.frameLengthOverflow port length) := of_event rfl

theorem frameStall (port : Port) : Statement (.frameStall port) := of_event rfl

theorem ignoreIdleExpiry (port : Port) : Statement (.ignoreIdleExpiry port) := of_event rfl

theorem responseTransmitComplete (port : Port) : Statement (.responseTransmitComplete port) := of_event rfl

theorem viewExpiry (port : Port) : Statement (.viewExpiry port) := of_event rfl

theorem pollCycleStart : Statement .pollCycleStart := of_event rfl

theorem allowanceSent : Statement .allowanceSent := of_event rfl

theorem unitReport (chars : List RxChar) : Statement (.unitReport chars) := of_event rfl

theorem replyWindowExpiry : Statement .replyWindowExpiry := of_event rfl

theorem clearFrameLoss (port : Port) : Statement (.clearFrameLoss port) :=
  of_request rfl rfl fun _ => by simp [Request.payload]

theorem setNettingMethod (port : Port) (method : Option Nat) : Statement (.setNettingMethod port method) :=
  of_request rfl rfl fun _ => by simp [Request.payload]

theorem readRegisters (port : Port) : Statement (.readRegisters port) :=
  of_request rfl rfl fun _ => by simp [Request.payload]

theorem setTime (port : Port) (utc : Nat) : Statement (.setTime port utc) :=
  of_request rfl rfl fun _ => by simp [Request.payload]

theorem setLocalOffset (port : Port) (offset : Option Int) : Statement (.setLocalOffset port offset) :=
  of_request rfl rfl fun _ => by
    rw [Request.payload, optField_length 2 (leIntBytes 2) offset fun _ => leBytes_length 2 _]
    omega

theorem readTime (port : Port) : Statement (.readTime port) :=
  of_request rfl rfl fun _ => by simp [Request.payload]

theorem setOverrideSource (port : Port) (line : Nat) (source : Option Nat) :
    Statement (.setOverrideSource port line source) :=
  of_request rfl rfl fun _ => by simp [Request.payload]

theorem setOverride (port : Port) (line : Nat) (value : Nat) : Statement (.setOverride port line value) :=
  of_request rfl rfl fun _ => by simp [Request.payload]

theorem setOverrideMap (port : Port) (entries : Option (Vector RawMapEntry 4)) :
    Statement (.setOverrideMap port entries) :=
  of_request rfl rfl fun _ => by
    rw [Request.payload, optField_length 8 _ entries fun v => by
      rw [flatMap_length _ 2 _ fun e _ => by simp [RawMapEntry.bytes]]; simp]
    omega

theorem passiveClear (port : Port) (name : Name8) : Statement (.passiveClear port name) :=
  of_request rfl rfl fun _ => by simp [Request.payload]

theorem passiveBands (port : Port) (nb : Nat) (fallback : Nat) (bands : List RawBand) :
    Statement (.passiveBands port nb fallback bands) :=
  of_request rfl rfl fun hw => by
    have hl : bands.length ≤ 68 := by simp [Request.wf] at hw; exact hw.1.2
    simp only [Request.payload, List.length_append, leBytes_length,
      listBytes_length RawBand.bytes 7 bands fun b => by simp [RawBand.bytes]]
    omega

theorem passiveSeason (port : Port) (index : Nat) (entry : Option RawSeason) :
    Statement (.passiveSeason port index entry) :=
  of_request rfl rfl fun _ => by
    simp only [Request.payload, List.length_append, leBytes_length,
      optField_length 3 RawSeason.bytes entry fun x => by simp [RawSeason.bytes]]
    omega

theorem passiveWeek (port : Port) (index : Nat) (days : Option (Vector Nat 7)) :
    Statement (.passiveWeek port index days) :=
  of_request rfl rfl fun _ => by
    simp only [Request.payload, List.length_append, leBytes_length]
    rw [optField_length 7 _ days fun v => by rw [flatMap_length _ 1 _ fun e _ => leBytes_length 1 e]; simp]
    omega

theorem passiveDay (port : Port) (index : Nat) (points : Option (List RawPoint)) :
    Statement (.passiveDay port index points) :=
  of_request rfl rfl fun hw => by
    cases points with
    | none => simp [Request.payload, optField]
    | some d =>
      have hl : d.length ≤ 159 := by simp [Request.wf] at hw; exact hw.2.1
      simp only [Request.payload, optField, List.length_append, leBytes_length,
        listBytes_length RawPoint.bytes 3 d fun x => by simp [RawPoint.bytes]]
      omega

theorem passiveSpecial (port : Port) (index : Nat) (entry : Option RawSpecial) :
    Statement (.passiveSpecial port index entry) :=
  of_request rfl rfl fun _ => by
    simp only [Request.payload, List.length_append, leBytes_length,
      optField_length 5 RawSpecial.bytes entry fun x => by simp [RawSpecial.bytes]]
    omega

theorem passiveActivateAt (port : Port) (time : RawDateTime) : Statement (.passiveActivateAt port time) :=
  of_request rfl rfl fun _ => by simp [Request.payload, RawDateTime.bytes]

theorem passiveActivateNow (port : Port) : Statement (.passiveActivateNow port) :=
  of_request rfl rfl fun _ => by simp [Request.payload]

theorem readCalendar (port : Port) (calendar : Nat) (part : Nat) (index : Nat) :
    Statement (.readCalendar port calendar part index) :=
  of_request rfl rfl fun _ => by simp [Request.payload]

theorem setSettlement (port : Port) (mode : Option Nat) (cap : Option Nat) (day : Option Nat) :
    Statement (.setSettlement port mode cap day) :=
  of_request rfl rfl fun _ => by simp [Request.payload]

theorem closePeriod (port : Port) : Statement (.closePeriod port) :=
  of_request rfl rfl fun _ => by simp [Request.payload]

theorem setUtilityCap (port : Port) (limit : Nat) (hysteresis : Nat) (expiry : Option Nat) :
    Statement (.setUtilityCap port limit hysteresis expiry) :=
  of_request rfl rfl fun _ => by simp [Request.payload, capBytes]

theorem clearUtilityCap (port : Port) : Statement (.clearUtilityCap port) :=
  of_request rfl rfl fun _ => by simp [Request.payload]

theorem setPremisesCap (port : Port) (limit : Nat) (hysteresis : Nat) (expiry : Option Nat) :
    Statement (.setPremisesCap port limit hysteresis expiry) :=
  of_request rfl rfl fun _ => by simp [Request.payload, capBytes]

theorem clearPremisesCap (port : Port) : Statement (.clearPremisesCap port) :=
  of_request rfl rfl fun _ => by simp [Request.payload]

theorem setCapControl (port : Port) (fsc : Option Nat) (enable : Option Nat) (trip : Option Nat) (hold : Option Nat) :
    Statement (.setCapControl port fsc enable trip hold) :=
  of_request rfl rfl fun _ => by simp [Request.payload]

theorem readCaps (port : Port) : Statement (.readCaps port) :=
  of_request rfl rfl fun _ => by simp [Request.payload]

theorem setUnitConfig (port : Port) (unit : Nat) (enable : Option Nat) (slot : Option Nat) (maskOff : Option Nat) :
    Statement (.setUnitConfig port unit enable slot maskOff) :=
  of_request rfl rfl fun _ => by simp [Request.payload]

theorem setUnitStandby (port : Port) (unit : Nat) (standby : Option Nat) :
    Statement (.setUnitStandby port unit standby) :=
  of_request rfl rfl fun _ => by simp [Request.payload]

theorem setProfileWeights (port : Port) (weights : Vector (Option Nat) 4) :
    Statement (.setProfileWeights port weights) :=
  of_request rfl rfl fun _ => by
    rw [Request.payload, flatMap_length _ 2 _ fun e _ => optField_nat_length 1 e]
    simp

theorem readUnits (port : Port) : Statement (.readUnits port) :=
  of_request rfl rfl fun _ => by simp [Request.payload]

theorem readSnapshot (port : Port) (key : SnapshotKey) : Statement (.readSnapshot port key) :=
  of_request rfl rfl fun _ => by cases key <;> simp [Request.payload, SnapshotKey.bytes]

theorem lockArchive (port : Port) (sectors : SectorList) : Statement (.lockArchive port sectors) :=
  of_request rfl rfl fun hw => by
    cases sectors with
    | all => simp [Request.payload, SectorList.bytes]
    | list l =>
      have hl : l.length < 255 := by simp [Request.wf, SectorList.wf] at hw; exact hw.1
      simp only [Request.payload, SectorList.bytes, listBytes_length _ 1 l (leBytes_length 1)]
      omega

theorem unlockArchive (port : Port) (sectors : SectorList) : Statement (.unlockArchive port sectors) :=
  of_request rfl rfl fun hw => by
    cases sectors with
    | all => simp [Request.payload, SectorList.bytes]
    | list l =>
      have hl : l.length < 255 := by simp [Request.wf, SectorList.wf] at hw; exact hw.1
      simp only [Request.payload, SectorList.bytes, listBytes_length _ 1 l (leBytes_length 1)]
      omega

theorem restart (port : Port) : Statement (.restart port) :=
  of_request rfl rfl fun _ => by simp [Request.payload]

theorem getStatus (port : Port) : Statement (.getStatus port) :=
  of_request rfl rfl fun _ => by simp [Request.payload]

theorem readNotices (port : Port) : Statement (.readNotices port) :=
  of_request rfl rfl fun _ => by simp [Request.payload]

theorem setNoticeMask (port : Port) (mask : Option (BitVec 16)) : Statement (.setNoticeMask port mask) :=
  of_request rfl rfl fun _ => by rw [Request.payload, optField_length 2 _ mask fun v => leBytes_length 2 v.toNat]; omega

theorem freezeView (port : Port) : Statement (.freezeView port) :=
  of_request rfl rfl fun _ => by simp [Request.payload]

theorem releaseView (port : Port) : Statement (.releaseView port) :=
  of_request rfl rfl fun _ => by simp [Request.payload]

theorem lockPremises (port : Port) : Statement (.lockPremises port) :=
  of_request rfl rfl fun _ => by simp [Request.payload]

theorem unlockPremises (port : Port) : Statement (.unlockPremises port) :=
  of_request rfl rfl fun _ => by simp [Request.payload]

theorem mainSupplyLoss : Statement .mainSupplyLoss := of_event rfl

end Sys2Proof.Laws.PortOperand
end

