-- ==== Sys2Proof/Laws/Recovery.lean ====
section
/-! SUPPORT. What the scans of recovery find: the checkpoint selected (R163, R173), the index built and the write pointer
found (R175), and the first failure of a list of checks (R69). -/
namespace Sys2Proof.Machine

/-! ### The newest checkpoint -/

/-- The valid checkpoints of the ring, with their positions. -/
theorem mem_ringCheckpoints (m : Store) (p : Nat) (c : Checkpoint) :
    (p, c) ∈ ringCheckpoints m ↔ p < 32 ∧ checkpointAt m p = some c := by
  simp only [ringCheckpoints, List.mem_filterMap, List.mem_range, Option.map_eq_some_iff, Prod.mk.injEq]
  constructor
  · rintro ⟨q, hq, d, hd, rfl, rfl⟩; exact ⟨hq, hd⟩
  · rintro ⟨hp, hc⟩; exact ⟨p, hp, c, hc, rfl, rfl⟩

/-- Each position stands once among the ring's checkpoints. -/
theorem ringCheckpoints_positions (m : Store) : (ringCheckpoints m).Pairwise fun a b => a.1 ≠ b.1 := by
  unfold ringCheckpoints
  refine List.Pairwise.filterMap _ (R := fun a b => a ≠ b) ?_ List.nodup_range
  rintro a b hab x hx y hy
  simp only [Option.map_eq_some_iff] at hx hy
  obtain ⟨_, _, rfl⟩ := hx
  obtain ⟨_, _, rfl⟩ := hy
  exact hab

theorem selectNewest_append (l : List (Nat × Checkpoint)) (x : Nat × Checkpoint) :
    selectNewest (l ++ [x]) = match selectNewest l with
      | none => some x
      | some b => if seqNewer x.2.seq b.2.seq then some x else some b := by
  simp only [selectNewest, List.foldl_append, List.foldl_cons, List.foldl_nil]
  all_goals (cases List.foldl _ none l <;> rfl)

/-- What is selected is one of the list, and nothing only from the empty list. -/
theorem selectNewest_mem (l : List (Nat × Checkpoint)) :
    (selectNewest l = none ↔ l = []) ∧ ∀ b, selectNewest l = some b → b ∈ l := by
  induction l using List.reverseRecOn with
  | nil => simp [selectNewest]
  | append_singleton l x ih =>
    rw [selectNewest_append]
    cases h : selectNewest l with
    | none => simp
    | some b =>
      have hb := ih.2 b h
      by_cases hn : seqNewer x.2.seq b.2.seq = true <;> simp_all

/-- The entry newer than every other, and than which no other is newer, is selected. -/
theorem selectNewest_eq (l : List (Nat × Checkpoint)) (b : Nat × Checkpoint) (hb : b ∈ l)
    (hnew : ∀ x ∈ l, x ≠ b → seqNewer b.2.seq x.2.seq = true)
    (hold : ∀ x ∈ l, x ≠ b → seqNewer x.2.seq b.2.seq = false) : selectNewest l = some b := by
  induction l using List.reverseRecOn with
  | nil => simp at hb
  | append_singleton l x ih =>
    rw [selectNewest_append]
    by_cases hx : x = b
    · subst hx
      cases h : selectNewest l with
      | none => rfl
      | some d =>
        have hd := (selectNewest_mem l).2 d h
        by_cases hdb : d = x
        · subst hdb; simp
        · simp [hnew d (by simp [hd]) hdb]
    · have hb' : b ∈ l := by simpa [Ne.symm hx] using hb
      rw [ih hb' (fun y hy => hnew y (by simp [hy])) fun y hy => hold y (by simp [hy])]
      simp [hold x (by simp) hx]

/-! ### The index and the write pointer -/

theorem joinIndex_append (l : List (Nat × Snapshot)) (x : Nat × Snapshot) :
    joinIndex (l ++ [x]) =
      if (joinIndex l).all fun y => decide (y.1 < x.2.number) then joinIndex l ++ [(x.2.number, x.1)]
      else joinIndex l := by
  unfold joinIndex; rw [List.foldl_append]; rfl

/-- A number is above all that joined exactly when it is above all that were read. -/
theorem joinIndex_below (l : List (Nat × Snapshot)) (n : Nat) :
    (∀ y ∈ joinIndex l, y.1 < n) ↔ ∀ x ∈ l, x.2.number < n := by
  induction l using List.reverseRecOn generalizing n with
  | nil => simp [joinIndex]
  | append_singleton l x ih =>
    rw [joinIndex_append]
    split
    · next h =>
      simp only [List.mem_append, List.mem_singleton, or_imp, forall_and, forall_eq]
      rw [ih]
    · next h =>
      rw [ih]
      simp only [List.mem_append, List.mem_singleton, or_imp, forall_and, forall_eq, iff_self_and]
      intro hl
      by_contra hn
      apply h
      rw [List.all_eq_true]
      intro y hy
      have := (ih n).2 hl y hy
      simp only [decide_eq_true_eq]; omega

/-- A slot read joins exactly when its number is above every number read before it. -/
theorem mem_joinIndex (l : List (Nat × Snapshot)) (n k : Nat) :
    (n, k) ∈ joinIndex l ↔ ∃ pre r post, l = pre ++ (k, r) :: post ∧ r.number = n ∧ ∀ x ∈ pre, x.2.number < n := by
  induction l using List.reverseRecOn with
  | nil => simp [joinIndex]
  | append_singleton l x ih =>
    rw [joinIndex_append]
    have hall : ((joinIndex l).all fun y => decide (y.1 < x.2.number)) = true ↔ ∀ y ∈ l, y.2.number < x.2.number := by
      rw [← joinIndex_below]; simp
    have old : (∃ pre r post, l = pre ++ (k, r) :: post ∧ r.number = n ∧ ∀ y ∈ pre, y.2.number < n) ∨
        (l ++ [x] = l ++ [(k, x.2)] ∧ x.2.number = n ∧ ∀ y ∈ l, y.2.number < n) ↔
        ∃ pre r post, l ++ [x] = pre ++ (k, r) :: post ∧ r.number = n ∧ ∀ y ∈ pre, y.2.number < n := by
      constructor
      · rintro (⟨pre, r, post, rfl, hr, hp⟩ | ⟨he, hr, hp⟩)
        · exact ⟨pre, r, post ++ [x], by simp, hr, hp⟩
        · exact ⟨l, x.2, [], he, hr, hp⟩
      · rintro ⟨pre, r, post, he, hr, hp⟩
        rcases List.eq_nil_or_concat post with rfl | ⟨post', z, rfl⟩
        · have := List.append_inj' he rfl
          obtain ⟨rfl, hx⟩ := this
          simp only [List.cons.injEq, and_true] at hx
          subst hx
          exact .inr ⟨rfl, hr, hp⟩
        · have he' : l ++ [x] = (pre ++ (k, r) :: post') ++ [z] := by simpa using he
          obtain ⟨h1, h2⟩ := List.append_inj' he' rfl
          exact .inl ⟨pre, r, post', h1, hr, hp⟩
    rw [← old, ← ih]
    split
    · next h =>
      simp only [List.mem_append, List.mem_singleton, Prod.mk.injEq]
      refine or_congr_right ⟨?_, ?_⟩
      · rintro ⟨rfl, rfl⟩; exact ⟨rfl, rfl, hall.1 h⟩
      · rintro ⟨he, hr, -⟩
        have := List.append_cancel_left he
        simp only [List.cons.injEq, and_true] at this
        rw [this]; exact ⟨by rw [← hr, this], rfl⟩
    · next h =>
      refine ⟨.inl, ?_⟩
      rintro (h' | ⟨-, hr, hp⟩)
      · exact h'
      · exact absurd (hall.2 (by rw [hr]; exact hp)) h

/-- The index holds the numbers in strictly ascending order. -/
theorem joinIndex_ascending (l : List (Nat × Snapshot)) : (joinIndex l).Pairwise fun a b => a.1 < b.1 := by
  induction l using List.reverseRecOn with
  | nil => simp [joinIndex]
  | append_singleton l x ih =>
    rw [joinIndex_append]
    split
    · next h => simpa [List.pairwise_append, ih] using h
    · exact ih

theorem newestSnapshot_append (l : List (Nat × Snapshot)) (x : Nat × Snapshot) :
    newestSnapshot (l ++ [x]) = match newestSnapshot l with
      | none => some x
      | some b => if b.2.number < x.2.number then some x else some b := by
  simp only [newestSnapshot, List.foldl_append, List.foldl_cons, List.foldl_nil]
  all_goals (cases List.foldl _ none l <;> rfl)

/-- The newest snapshot is one of those read, none is numbered above it, and there is none only where none was read. -/
theorem newestSnapshot_spec (l : List (Nat × Snapshot)) :
    (newestSnapshot l = none ↔ l = []) ∧
      ∀ b, newestSnapshot l = some b → b ∈ l ∧ ∀ x ∈ l, x.2.number ≤ b.2.number := by
  induction l using List.reverseRecOn with
  | nil => simp [newestSnapshot]
  | append_singleton l x ih =>
    rw [newestSnapshot_append]
    cases h : newestSnapshot l with
    | none =>
      have := ih.1.1 h
      subst this
      simp
    | some d =>
      obtain ⟨hd, hmax⟩ := ih.2 d h
      by_cases hn : d.2.number < x.2.number
      · simp only [hn, if_true, reduceCtorEq, false_iff, Option.some.injEq]
        refine ⟨by simp, ?_⟩
        rintro b rfl
        refine ⟨by simp, fun y hy => ?_⟩
        simp only [List.mem_append, List.mem_singleton] at hy
        rcases hy with hy | rfl
        · have := hmax y hy; omega
        · exact le_rfl
      · simp only [hn, if_false, reduceCtorEq, false_iff, Option.some.injEq]
        refine ⟨by simp, ?_⟩
        rintro b rfl
        refine ⟨by simp [hd], fun y hy => ?_⟩
        simp only [List.mem_append, List.mem_singleton] at hy
        rcases hy with hy | rfl
        · exact hmax y hy
        · omega

/-- The VALID slots of the log among some slots. -/
theorem mem_logSlots (m : Store) (l : List Nat) (k : Nat) (r : Snapshot) :
    (k, r) ∈ logSlots m l ↔ k ∈ l ∧ Store.at m k = some (.snapshot r) := by
  have hs : ∀ j x, snapshotAt m j = some x ↔ Store.at m j = some (.snapshot x) := by
    intro j x
    unfold snapshotAt
    cases h : Store.at m j with
    | none => simp
    | some c => cases c <;> simp
  simp only [logSlots, List.mem_filterMap, Option.map_eq_some_iff, Prod.mk.injEq, hs]
  constructor
  · rintro ⟨j, hj, x, hx, rfl, rfl⟩; exact ⟨hj, hx⟩
  · rintro ⟨hk, hr⟩; exact ⟨k, hk, r, hr, rfl, rfl⟩

/-- The place of a log slot in the reading that starts behind the sector of slot `k`. -/
abbrev scanPlace (k j : Nat) : Nat := (j + 80 - 16 * (k / 16)) % 96

/-- The reading takes the log's slots in the order of their places, each once, up to the write pointer. -/
theorem scanOrder_spec (k : Nat) (hk : 64 ≤ k) (hk' : k < 160) :
    (scanOrder k).Pairwise (fun a b => scanPlace k a < scanPlace k b) ∧
      ∀ j, j ∈ scanOrder k ↔ 64 ≤ j ∧ j < 160 ∧ scanPlace k j ≤ scanPlace k k := by
  obtain ⟨c, i, hc, hc', hi, rfl⟩ : ∃ c i, 4 ≤ c ∧ c < 10 ∧ i < 16 ∧ k = 16 * c + i :=
    ⟨k / 16, k % 16, by omega, by omega, by omega, by omega⟩
  have hdiv : (16 * c + i) / 16 = c := by omega
  have hd (j : Nat) (h1 : 64 ≤ j) (h2 : j < 160) : scanPlace (16 * c + i) j ≤ scanPlace (16 * c + i) (16 * c + i) ↔
      ¬(j / 16 = c ∧ 16 * c + i < j) := by
    unfold scanPlace; rw [hdiv]; omega
  have hfull : (ringAfter 4 6 c).flatMap (fun x => (List.range 16).map fun i => 16 * x + i) =
      (List.range 96).map fun n => 64 + (16 * (c - 4 + 1) + n) % 96 := by
    interval_cases c <;> decide
  constructor
  · unfold scanOrder
    rw [hdiv, hfull]
    refine List.Pairwise.filter _ (List.Pairwise.map _ (R := fun a b => a < b ∧ b < 96) ?_ ?_)
    · rintro a b ⟨hab, hb⟩
      unfold scanPlace; rw [hdiv]; omega
    · exact (List.pairwise_lt_range (n := 96)).imp_of_mem fun _ hb h => ⟨h, List.mem_range.1 hb⟩
  · intro j
    unfold scanOrder
    rw [hdiv, hfull]
    simp only [List.mem_filter, List.mem_map, List.mem_range, Bool.not_eq_true', Bool.and_eq_false_iff,
      beq_eq_false_iff_ne, decide_eq_false_iff_not]
    constructor
    · rintro ⟨⟨n, hn, rfl⟩, h⟩
      refine ⟨by omega, by omega, (hd _ (by omega) (by omega)).2 (by omega)⟩
    · rintro ⟨h1, h2, h3⟩
      refine ⟨⟨(j + 80 - 16 * c) % 96, by omega, by omega⟩, ?_⟩
      have := (hd j h1 h2).1 h3
      omega

/-- The log scan leaves the memory. -/
@[simp] theorem Hst.scanLog_store (h : Hst) : h.scanLog.store = h.store := by
  unfold Hst.scanLog; split <;> rfl

/-! ### The first failure of some checks -/

theorem firstFault_none (l : List (Bool × CalFault)) : firstFault l = none ↔ ∀ x ∈ l, x.1 = true := by
  simp [firstFault]

/-- The failure answered is that of a check that fails, and every check before it passes. -/
theorem firstFault_some (l : List (Bool × CalFault)) (f : CalFault) :
    firstFault l = some f ↔ ∃ pre post, l = pre ++ (false, f) :: post ∧ ∀ x ∈ pre, x.1 = true := by
  simp only [firstFault, Option.map_eq_some_iff, List.find?_eq_some_iff_append, Bool.not_eq_true']
  constructor
  · rintro ⟨⟨b, g⟩, ⟨hb, pre, post, he, hp⟩, rfl⟩
    simp only at hb
    subst hb
    exact ⟨pre, post, he, fun x hx => by simpa using hp x hx⟩
  · rintro ⟨pre, post, he, hp⟩
    exact ⟨(false, f), ⟨rfl, pre, post, he, fun x hx => by simpa using hp x hx⟩, rfl⟩

/-- Of two failures the one whose table, then whose index, is not behind the other's. -/
abbrev CalFault.le (f g : CalFault) : Prop := f.1 < g.1 ∨ f.1 = g.1 ∧ f.2 ≤ g.2

/-- Of checks in order, the failure answered is the least. -/
theorem firstFault_least (l : List (Bool × CalFault)) (h : l.Pairwise fun a b => CalFault.le a.2 b.2) (f : CalFault) :
    firstFault l = some f ↔ (false, f) ∈ l ∧ ∀ g, (false, g) ∈ l → CalFault.le f g := by
  induction l with
  | nil => simp [firstFault]
  | cons a l ih =>
    obtain ⟨h1, h2⟩ := List.pairwise_cons.1 h
    obtain ⟨b, e⟩ := a
    cases b with
    | true =>
      rw [show firstFault ((true, e) :: l) = firstFault l by simp [firstFault], ih h2]
      simp
    | false =>
      rw [show firstFault ((false, e) :: l) = some e by simp [firstFault]]
      constructor
      · intro he
        obtain rfl : e = f := by simpa using he
        refine ⟨by simp, fun g hg => ?_⟩
        simp only [List.mem_cons, Prod.mk.injEq, true_and] at hg
        rcases hg with rfl | hg
        · exact .inr ⟨rfl, le_rfl⟩
        · exact h1 _ hg
      · rintro ⟨hf, hmin⟩
        simp only [List.mem_cons, Prod.mk.injEq, true_and] at hf
        rcases hf with rfl | hf
        · rfl
        · have h3 := hmin e (by simp)
          have h4 := h1 _ hf
          simp only [CalFault.le] at h3 h4
          rw [Option.some.injEq]
          exact Prod.ext (by omega) (by omega)

/-- The present entries of a table, with their indices. -/
theorem mem_presentOf {α : Type} {n : Nat} (v : Vector (Option α) n) (k : Nat) (x : α) :
    (k, x) ∈ presentOf v ↔ ∃ i : Fin n, i.val = k ∧ v[i] = some x := by
  simp only [presentOf, List.mem_filterMap, List.mem_range]
  constructor
  · rintro ⟨j, hj, h⟩
    rw [dif_pos hj, Option.map_eq_some_iff] at h
    obtain ⟨y, hy, he⟩ := h
    obtain ⟨rfl, rfl⟩ := Prod.mk.inj he
    exact ⟨⟨j, hj⟩, rfl, hy⟩
  · rintro ⟨i, rfl, h⟩
    refine ⟨i.val, i.isLt, ?_⟩
    rw [dif_pos i.isLt, Option.map_eq_some_iff]
    exact ⟨x, h, rfl⟩

/-- They stand in ascending order of index. -/
theorem presentOf_ascending {α : Type} {n : Nat} (v : Vector (Option α) n) :
    (presentOf v).Pairwise fun a b => a.1 < b.1 := by
  unfold presentOf
  refine List.Pairwise.filterMap _ (R := fun a b => a < b) ?_ (List.pairwise_lt_range (n := n))
  have first : ∀ (a : Nat) (x : Nat × α),
      (if h : a < n then v[a].map fun y => (a, y) else none) = some x → x.1 = a := by
    intro a x hx
    split at hx
    · obtain ⟨y, -, rfl⟩ := Option.map_eq_some_iff.1 hx; rfl
    · cases hx
  intro a b hab x hx y hy
  rw [first a x hx, first b y hy]; exact hab

/-- R69's conditions stand in the order of their tables and, within a table, of their indices. -/
theorem Calendar.checks_ascending (c : Calendar) : c.checks.Pairwise fun a b => CalFault.le a.2 b.2 := by
  have pm {α : Type} {n : Nat} (v : Vector (Option α) n) (t : Nat) (f : Nat × α → Bool) :
      ((presentOf v).map fun x => (f x, ((t, x.1) : CalFault))).Pairwise fun a b => CalFault.le a.2 b.2 :=
    List.Pairwise.map _ (fun a b h => .inr ⟨rfl, Nat.le_of_lt h⟩) (presentOf_ascending v)
  unfold Calendar.checks
  simp only [List.pairwise_append, List.mem_append]
  refine ⟨⟨⟨⟨⟨⟨?_, ?_, ?_⟩, ?_, ?_⟩, pm c.seasons 2 _, ?_⟩, pm c.weeks 3 _, ?_⟩, pm c.days 4 _, ?_⟩,
    pm c.specials 5 _, ?_⟩
  · simp [CalFault.le]
  · rw [List.pairwise_map, List.pairwise_iff_getElem]
    intro i j hi hj hij
    simp [CalFault.le]; omega
  · intro a ha b hb
    obtain ⟨_, _, rfl⟩ := List.mem_map.1 hb
    simp only [List.mem_cons, List.not_mem_nil, or_false] at ha
    rcases ha with rfl | rfl <;> simp [CalFault.le]
  · simp
  all_goals
    intro a ha b hb
    simp only [List.mem_map, List.mem_cons, List.not_mem_nil, or_false] at ha hb
    (try obtain ⟨_, _, rfl⟩ := hb)
    simp only [CalFault.le]
    aesop

end Sys2Proof.Machine
end

