-- ==== Sys2Proof/Laws/Requests.lean ====
section
/-! SUPPORT. What a request and a command can do, said once: the path of a request to its owner, a command without main
supply, the two outcomes of a free order, and the courses of a unit's disable. -/
namespace Sys2Proof.Machine

/-- Without main supply a command changes nothing. -/
theorem command_unpowered (f : State → State) {s : State} (h : s.sup.powered = false) : command f s = s := by
  simp [command, h]

/-- With main supply a command is its effect and the end of the command. -/
theorem command_powered (f : State → State) {s : State} (h : s.sup.powered = true) : command f s = finish (f s) := by
  simp [command, h]

/-- Every request code of the catalogue lies in its list. -/
theorem inCatalogue_code (q : Request) : inCatalogue (Request.code q) = true := by cases q <;> rfl

/-- A request past every check of R184 in RUN goes to its owner, and the owner's answer is sent. -/
theorem command_takeRequest (p : Port) (q : Request) (s : State) (powered : s.sup.powered = true)
    (supply : s.sup.supply = .run) (free : (s.port p).buffer = none) (auth : authority p (Request.code q) = true)
    (held : p = .ppt ∧ s.premLock = true → Request.held q = false) (fields : Request.fieldsOk q = true) :
    command (takeRequest p q) s =
      finish (settleReply p (Request.code q)
        (serve p q (s.updPort p fun x => { x with buffer := some (Request.code q) }))) := by
  have hn : ¬(p = Port.ppt ∧ s.premLock = true ∧ Request.held q = true) := by
    rintro ⟨hp, hk, hh⟩
    simp [held ⟨hp, hk⟩] at hh
  simp only [command, powered, if_true, takeRequest, goodFrame, free, Option.isSome_none, fields]
  simp [judge, inCatalogue_code, auth, supply, hn]

/-- Two occurrences whose order is free come out in one order or the other, one free value taken. -/
theorem either_cases (f g : State → State) (s : State) :
    either f g s = g (f { s with draws := s.draws + 1 }) ∨ either f g s = f (g { s with draws := s.draws + 1 }) :=
  oneOf_cases _ _ s

/-- A message to one unit leaves what every unit is, its last report and its allowance in force. -/
theorem sendAllowance_keeps (i j : Fin 4) (l : Ulc) :
    (l.sendAllowance i).units[j].cfg = l.units[j].cfg ∧ (l.sendAllowance i).units[j].link = l.units[j].link ∧
    (l.sendAllowance i).units[j].last = l.units[j].last ∧
    (l.sendAllowance i).units[j].allowance = l.units[j].allowance := by
  by_cases h : i = j
  · subst h; simp [Ulc.sendAllowance, Ulc.updUnit]
  · have hv : i.val ≠ j.val := fun e => h (Fin.ext e)
    simp [Ulc.sendAllowance, Ulc.updUnit, hv]

/-- All that leaving the cycle can do to the polling: the next message, the end of the cycle, or nothing but the unit's
turn. -/
theorem dropFromCycle_cases (i : Fin 4) (l : Ulc) :
    (∃ k rest, l.dropPolls i = true ∧ l.rest.filter (· ≠ i) = k :: rest ∧
      l.dropFromCycle i = Ulc.sendAllowance k { l with rest := rest }) ∨
    (l.exchangesWith i = true ∧ l.dropPolls i = false ∧ l.dropFromCycle i = { l with rest := [], exchange := .none }) ∨
    (l.exchangesWith i = false ∧ l.dropPolls i = false ∧
      l.dropFromCycle i = { l with rest := l.rest.filter (· ≠ i) }) := by
  have hany : l.rest.any (· ≠ i) = !(l.rest.filter (· ≠ i)).isEmpty := by
    induction l.rest with
    | nil => rfl
    | cons a r ih => by_cases h : a = i <;> simp_all
  cases he : l.exchangesWith i
  · exact .inr (.inr ⟨rfl, by simp [Ulc.dropPolls, he], by simp [Ulc.dropFromCycle, he]⟩)
  · cases hr : l.rest.filter (· ≠ i) with
    | nil => exact .inr (.inl ⟨rfl, by rw [Ulc.dropPolls, hany, hr]; simp,
        by simp only [Ulc.dropFromCycle, he, hr, if_true, Ulc.nextExchange]⟩)
    | cons k rest => exact .inl ⟨k, rest, by rw [Ulc.dropPolls, hany, hr, he]; rfl, rfl,
        by simp only [Ulc.dropFromCycle, he, hr, if_true, Ulc.nextExchange]⟩

/-- A disable that brings the next unit's poll: the sharing and the poll in free order (R137; assumption 52). -/
theorem applyUnitConfig_disable_polls (i : Fin 4) (slot : Option Nat) (maskOff : Option Bool) (s : State)
    (enabled : s.ulc.units[i].cfg.enable = true) (polls : s.ulc.dropPolls i = true) :
    applyUnitConfig i (some false) slot maskOff s =
      either (shareAnyway s.ulc) (dropUnit i)
        (raise .unit { s with ulc := s.ulc.updUnit i fun u => (u.setEnable false).setConfig slot maskOff }) := by
  have e : s.ulc.units[i.val].cfg.enable = true := enabled
  simp [applyUnitConfig, eitherIf, e, polls]

/-- A disable that brings no poll: the sharing, and the unit's leaving the cycle. -/
theorem applyUnitConfig_disable_quiet (i : Fin 4) (slot : Option Nat) (maskOff : Option Bool) (s : State)
    (enabled : s.ulc.units[i].cfg.enable = true) (quiet : s.ulc.dropPolls i = false) :
    applyUnitConfig i (some false) slot maskOff s =
      dropUnit i (shareAnyway s.ulc
        (raise .unit { s with ulc := s.ulc.updUnit i fun u => (u.setEnable false).setConfig slot maskOff })) := by
  have e : s.ulc.units[i.val].cfg.enable = true := enabled
  simp [applyUnitConfig, eitherIf, e, quiet]

end Sys2Proof.Machine
end

