-- ==== Sys2Proof/Laws/State.lean ====
section
/-! SUPPORT. What each named update of the state writes: one lemma per field per update, true by unfolding. The parts it
leaves alone are in Laws/Frames.lean. -/
namespace Sys2Proof.Machine

@[simp] theorem updHst_hst (f : Hst → Hst) (s : State) : (updHst f s).hst = f s.hst := rfl

@[simp] theorem updCounters_counters (f : Counters → Counters) (s : State) :
    (updCounters f s).frx.counters = f s.frx.counters := rfl

@[simp] theorem updCounters_frx (f : Counters → Counters) (s : State) :
    (updCounters f s).frx.lastSeq = s.frx.lastSeq ∧ (updCounters f s).frx.health = s.frx.health ∧
    (updCounters f s).frx.lastArrival = s.frx.lastArrival ∧ (updCounters f s).frx.relock = s.frx.relock ∧
    (updCounters f s).frx.lostSeen = s.frx.lostSeen ∧ (updCounters f s).frx.run = s.frx.run :=
  ⟨rfl, rfl, rfl, rfl, rfl, rfl⟩

@[simp] theorem factory_reg (s : State) : (factory s).reg = .factory := rfl

@[simp] theorem factory_netting (s : State) : (factory s).netting = .vector := rfl

@[simp] theorem factory_frx (s : State) : (factory s).frx = { s.frx with counters := .zero } := rfl

@[simp] theorem setFlags_flags (f : PeriodFlags → PeriodFlags) (s : State) :
    (setFlags f s).reg.flags = f s.reg.flags := rfl

@[simp] theorem setFlags_reg (f : PeriodFlags → PeriodFlags) (s : State) :
    (setFlags f s).reg.ti = s.reg.ti ∧ (setFlags f s).reg.te = s.reg.te ∧ (setFlags f s).reg.ri = s.reg.ri ∧
    (setFlags f s).reg.re = s.reg.re ∧ (setFlags f s).reg.imp = s.reg.imp ∧ (setFlags f s).reg.exp = s.reg.exp ∧
    (setFlags f s).reg.tiOpen = s.reg.tiOpen ∧ (setFlags f s).reg.teOpen = s.reg.teOpen ∧
    (setFlags f s).reg.period = s.reg.period ∧ (setFlags f s).reg.openTime = s.reg.openTime ∧
    (setFlags f s).reg.credit = s.reg.credit ∧ (setFlags f s).reg.forfeit = s.reg.forfeit :=
  ⟨rfl, rfl, rfl, rfl, rfl, rfl, rfl, rfl, rfl, rfl, rfl, rfl⟩

@[simp] theorem passTo_runMs (t : Nat) (s : State) : (passTo t s).tim.runMs = max s.tim.runMs t := rfl

@[simp] theorem passTo_tim (t : Nat) (s : State) :
    (passTo t s).tim.utc = s.tim.utc ∧ (passTo t s).tim.valid = s.tim.valid ∧
    (passTo t s).tim.retained = s.tim.retained ∧ (passTo t s).tim.offset = s.tim.offset ∧
    (passTo t s).tim.lastClose = s.tim.lastClose ∧ (passTo t s).tim.resumeFrom = s.tim.resumeFrom :=
  ⟨rfl, rfl, rfl, rfl, rfl, rfl⟩

@[simp] theorem raise_upt (n : Notice) (s : State) : (raise n s).upt = s.upt.raise n := rfl

@[simp] theorem raise_ppt (n : Notice) (s : State) : (raise n s).ppt = s.ppt.raise n := rfl

@[simp] theorem raise_notices (n : Notice) (x : PortState) : (x.raise n).notices = x.notices ||| n.bit := rfl

@[simp] theorem raise_port_rest (n : Notice) (x : PortState) :
    (x.raise n).rx = x.rx ∧ (x.raise n).buffer = x.buffer ∧ (x.raise n).tx = x.tx ∧ (x.raise n).mask = x.mask ∧
    (x.raise n).view = x.view ∧ (x.raise n).stalled = x.stalled ∧ (x.raise n).bad = x.bad ∧
    (x.raise n).dropped = x.dropped := ⟨rfl, rfl, rfl, rfl, rfl, rfl, rfl, rfl⟩

@[simp] theorem port_updPort (p : Port) (f : PortState → PortState) (s : State) :
    (s.updPort p f).port p = f (s.port p) := by cases p <;> rfl

/-- The other port stays as it was. -/
theorem port_updPort_of_ne {p q : Port} (h : q ≠ p) (f : PortState → PortState) (s : State) :
    (s.updPort p f).port q = s.port q := by cases p <;> cases q <;> first | rfl | exact absurd rfl h

@[simp] theorem setSupply_supply (u : Supply) (s : State) : (setSupply u s).sup.supply = u := rfl

@[simp] theorem share_ulc (s : State) : (share s).ulc = s.ulc.reshare := rfl

@[simp] theorem handOn_hand (s : State) :
    (handOn s).ulc.handState = s.xcc.state ∧ (handOn s).ulc.handA = s.xcc.allowance := ⟨rfl, rfl⟩

@[simp] theorem dropUnit_ulc (i : Fin 4) (s : State) : (dropUnit i s).ulc = s.ulc.dropFromCycle i := rfl

@[simp] theorem sendAllowance_rest (i : Fin 4) (l : Ulc) :
    (l.sendAllowance i).weights = l.weights ∧ (l.sendAllowance i).handState = l.handState ∧
    (l.sendAllowance i).handA = l.handA ∧ (l.sendAllowance i).pool = l.pool ∧
    (l.sendAllowance i).noActive = l.noActive ∧ (l.sendAllowance i).nextCycle = l.nextCycle ∧
    (l.sendAllowance i).rest = l.rest := ⟨rfl, rfl, rfl, rfl, rfl, rfl, rfl⟩

@[simp] theorem openPeriod_counters (s : State) : (openPeriod s).frx.counters = .zero := rfl

@[simp] theorem openPeriod_reg (s : State) :
    (openPeriod s).reg.ri = s.reg.ri ∧ (openPeriod s).reg.re = s.reg.re ∧ (openPeriod s).reg.ti = s.reg.ti ∧
    (openPeriod s).reg.te = s.reg.te ∧ (openPeriod s).reg.tiOpen = s.reg.ti ∧ (openPeriod s).reg.teOpen = s.reg.te ∧
    (openPeriod s).reg.imp = .replicate 8 0 ∧ (openPeriod s).reg.exp = .replicate 8 0 ∧
    (openPeriod s).reg.period = s.reg.period + 1 ∧ (openPeriod s).reg.openTime = s.tim.stamp ∧
    (openPeriod s).reg.credit = (settlementNow s).creditOut :=
  ⟨rfl, rfl, rfl, rfl, rfl, rfl, rfl, rfl, rfl, rfl, rfl⟩

end Sys2Proof.Machine
end

