-- ==== Sys2Proof/Laws/Store.lean ====
section
/-! SUPPORT. The laws of the History Store's memory: a read after a write, and the canonical form, which every operation
keeps. -/
namespace Sys2Proof.Machine

/-- What a write leaves in the list: the new entry and entries that were there. -/
theorem Store.mem_put {m : Store} {k : Nat} {c : SlotContent} {e : Nat × SlotContent} (h : e ∈ Store.put m k c) :
    e = (k, c) ∨ e ∈ m := by
  induction m with
  | nil => simpa [Store.put] using h
  | cons a m ih =>
    obtain ⟨j, d⟩ := a
    simp only [Store.put] at h
    split_ifs at h
    · simpa using h
    · simp only [List.mem_cons] at h ⊢
      tauto
    · simp only [List.mem_cons] at h ⊢
      rcases h with h | h
      · exact .inr (.inl h)
      · rcases ih h with h | h
        · exact .inl h
        · exact .inr (.inr h)

/-- A write keeps the canonical form. -/
theorem Store.wf_put {m : Store} (k : Nat) (c : SlotContent) (h : Store.wf m) : Store.wf (Store.put m k c) := by
  induction m with
  | nil => simp [Store.put, Store.wf]
  | cons a m ih =>
    obtain ⟨j, d⟩ := a
    simp only [Store.wf, List.map_cons, List.pairwise_cons, List.mem_map, forall_exists_index, and_imp] at h
    simp only [Store.put]
    split_ifs with h1 h2
    · simp only [Store.wf, List.map_cons, List.pairwise_cons, List.mem_cons, List.mem_map]
      refine ⟨?_, ?_, h.2⟩
      · rintro x (rfl | ⟨e, he, rfl⟩)
        · exact h1
        · exact lt_trans h1 (h.1 _ e he rfl)
      · rintro x ⟨e, he, rfl⟩
        exact h.1 _ e he rfl
    · subst h2
      simp only [Store.wf, List.map_cons, List.pairwise_cons, List.mem_map]
      exact ⟨by rintro x ⟨e, he, rfl⟩; exact h.1 _ e he rfl, h.2⟩
    · simp only [Store.wf, List.map_cons, List.pairwise_cons, List.mem_map]
      refine ⟨?_, ih h.2⟩
      rintro x ⟨e, he, rfl⟩
      rcases Store.mem_put he with rfl | he
      · simp only; omega
      · exact h.1 _ e he rfl

/-- A read after a write of the same slot gives what was written. -/
theorem Store.at_put_self (m : Store) (k : Nat) (c : SlotContent) : Store.at (Store.put m k c) k = some c := by
  induction m with
  | nil => simp [Store.put, Store.at]
  | cons a m ih =>
    obtain ⟨j, d⟩ := a
    simp only [Store.put]
    split_ifs with h1 h2
    · simp [Store.at]
    · simp [Store.at]
    · rw [Store.at, if_neg (by omega), ih]

/-- A write leaves every other slot alone. -/
theorem Store.at_put_of_ne (m : Store) {k l : Nat} (c : SlotContent) (h : l ≠ k) :
    Store.at (Store.put m k c) l = Store.at m l := by
  induction m with
  | nil => simp [Store.put, Store.at, Ne.symm h]
  | cons a m ih =>
    obtain ⟨j, d⟩ := a
    simp only [Store.put]
    split_ifs with h1 h2
    · rw [Store.at, if_neg (Ne.symm h)]
    · subst h2
      simp [Store.at, Ne.symm h]
    · simp only [Store.at]
      split_ifs with h3
      · rfl
      · exact ih

/-- Taking entries out keeps the canonical form. -/
theorem Store.wf_filter {m : Store} (p : Nat × SlotContent → Bool) (h : Store.wf m) : Store.wf (m.filter p) :=
  h.sublist (List.filter_sublist.map _)

theorem Store.wf_foldl_junk {m : Store} (f : Nat → Nat) (l : List Nat) (h : Store.wf m) :
    Store.wf (l.foldl (fun m i => Store.put m (f i) .junk) m) := by
  induction l generalizing m with
  | nil => exact h
  | cons a l ih => exact ih (Store.wf_put _ _ h)

/-- An erase keeps the canonical form. -/
theorem Store.wf_erased {m : Store} (sector : Nat) (b : BitVec 16) (h : Store.wf m) :
    Store.wf (Store.erased m sector b) :=
  Store.wf_foldl_junk _ _ (Store.wf_filter _ h)

/-- What an erase leaves in the list: INVALID content, and entries that were there. -/
theorem Store.mem_erased {m : Store} {sector : Nat} {b : BitVec 16} {e : Nat × SlotContent}
    (h : e ∈ Store.erased m sector b) : e.2 = .junk ∨ e ∈ m := by
  unfold Store.erased at h
  generalize ((List.range 16).filter fun i => b.getLsbD i) = l at h
  have key : ∀ (l : List Nat) (m' : Store), (∀ e ∈ m', e.2 = .junk ∨ e ∈ m) →
      ∀ e ∈ l.foldl (fun m i => Store.put m (16 * sector + i) .junk) m', e.2 = .junk ∨ e ∈ m := by
    intro l
    induction l with
    | nil => exact fun m' h => h
    | cons a l ih =>
      intro m' h
      refine ih _ fun e he => ?_
      rcases Store.mem_put he with rfl | he
      · exact .inl rfl
      · exact h e he
  exact key l _ (fun e he => .inr (List.mem_of_mem_filter he)) e h

/-- Reading a list in which no entry has the slot gives BLANK. -/
theorem Store.at_none {m : Store} {k : Nat} (h : ∀ e ∈ m, e.1 ≠ k) : Store.at m k = none := by
  induction m with
  | nil => rfl
  | cons a m ih =>
    obtain ⟨j, d⟩ := a
    rw [Store.at, if_neg (h (j, d) (by simp))]
    exact ih fun e he => h e (by simp [he])

/-- A sector that is erased whole reads BLANK throughout. -/
theorem Store.at_erased_blank (m : Store) (sector i : Nat) (h : i < 16) :
    Store.at (Store.erased m sector 0) (16 * sector + i) = none := by
  apply Store.at_none
  intro e he
  have h0 : ((List.range 16).filter fun i => (0 : BitVec 16).getLsbD i) = [] := by simp
  have h1 : Store.erased m sector 0 = m.filter fun e => e.1 / 16 != sector := by
    simp only [Store.erased, h0, List.foldl_nil]
  rw [h1, List.mem_filter] at he
  have h2 : e.1 / 16 ≠ sector := by simpa using he.2
  omega

end Sys2Proof.Machine
end

