-- ==== Sys2Proof/Tests/Slice0.lean ====
section
/-! SUPPORT. The model's own tests: ill-formed commands refused, the spec's worked examples, and for every statement
with hypotheses a state and operands that meet them, clause by clause, at the ends of their ranges. -/
open Sys2Proof Sys2Proof.Machine Sys2Proof.Claim

set_option Elab.async false

namespace Sys2Proof.Tests

/-! ### States -/

/-- RUN, recovery done, the engine idle, everything else as after a reset. -/
def run : State :=
  { State.reset with
    sup := { Sup.reset false with supply := .run, stage := .done, unread := [] }
    hst := { Hst.reset [] with engine := .idle } }

def inSupply (u : Supply) : State := { run with sup := { run.sup with supply := u } }

def unpowered (retained : Bool) : State :=
  { run with sup := { run.sup with powered := false }, tim := { run.tim with retained := retained } }

/-- RUN with time VALID at a count. -/
def at' (utc : Nat) : State := { run with tim := { run.tim with utc := utc, valid := true } }

def withHealth (h : Health) (relock : Nat) : State := { run with frx := { run.frx with health := h, relock := relock } }

def withHst (f : Hst → Hst) : State := { run with hst := f run.hst }

def withUlc (l : Ulc) : State := { run with ulc := l }

/-- A state serves each of some requests. -/
abbrev serves (s : State) (l : List (Port × Request)) : Prop := ∀ x ∈ l, Serves x.1 x.2 s

def record (limit hyst : Nat) (expiry : Option Nat) : CapRecord :=
  { limit := limit, hyst := hyst, expiry := expiry, setTime := none }

/-- RUN with a utility record of 5,000 W and 500 W (section 6.10), T 4, hold 2 s, in a curtailment state. -/
def capped (c : CurtState) (q : Nat) (holdEnd : Option Nat) : State :=
  { run with xcc := { run.xcc with
      cfg := { run.xcc.cfg with util := some (record 5000 500 none), trip := 4, hold := 2, fsc := 1500 }
      q := q, state := c, holdEnd := holdEnd } }

/-- The calendar of section 4.4, its special days as given. -/
def tou (specials : Vector (Option Special) 24) : Calendar :=
  { name := #v[0x54, 0x4F, 0x55, 0x32, 0x30, 0x32, 0x35, 0x41]
    bands := some { fallback := 1, entries :=
      [⟨#v[0x4F, 0x46, 0x46, 0x50], 1000, 2⟩, ⟨#v[0x53, 0x48, 0x4C, 0x44], 800, 1⟩,
       ⟨#v[0x50, 0x45, 0x41, 0x4B], 1000, 0⟩] }
    seasons := #v[some ⟨4, 1, 0⟩, some ⟨10, 1, 1⟩, none, none]
    weeks := #v[some #v[0, 0, 0, 0, 0, 1, 1], some #v[2, 2, 2, 2, 2, 1, 1], none, none]
    days := #v[some [⟨0, 0⟩, ⟨420, 1⟩, ⟨960, 2⟩, ⟨1260, 1⟩, ⟨1380, 0⟩], some [⟨420, 1⟩, ⟨1380, 0⟩],
      some [⟨360, 1⟩, ⟨1020, 2⟩, ⟨1200, 0⟩], some [⟨0, 0⟩], none, none, none, none, none, none, none, none]
    specials := specials }

def touSpecials : Vector (Option Special) 24 :=
  (((Vector.replicate 24 none).set 0 (some ⟨.recurring 12 25, 3⟩)).set 1 (some ⟨.recurring 5 8, 3⟩)).set 2
    (some ⟨.full 2025 5 8, 1⟩)

/-! ### Ill-formed commands (WellFormed) -/

/-- One ill-formed command for each check of a parameter's width. -/
theorem test_wf_requests :
    ([.setNettingMethod .upt (some 256), .setTime .upt 4294967296, .setLocalOffset .upt (some 32768),
      .setLocalOffset .upt (some (-32769)), .setOverrideSource .upt 256 none, .setOverrideSource .upt 0 (some 256),
      .setOverride .upt 256 0, .setOverride .upt 0 256, .setOverrideMap .upt (some (.replicate 4 ⟨256, 0⟩)),
      .setOverrideMap .upt (some (.replicate 4 ⟨0, 256⟩)), .passiveBands .upt 256 0 [], .passiveBands .upt 0 256 [],
      .passiveBands .upt 0 0 [⟨.replicate 4 0, 65536, 0⟩], .passiveBands .upt 0 0 [⟨.replicate 4 0, 0, 256⟩],
      .passiveBands .upt 0 0 (.replicate 69 ⟨.replicate 4 0, 0, 0⟩), .passiveSeason .upt 256 none,
      .passiveSeason .upt 0 (some ⟨256, 1, 0⟩), .passiveSeason .upt 0 (some ⟨1, 256, 0⟩),
      .passiveSeason .upt 0 (some ⟨1, 1, 256⟩), .passiveWeek .upt 256 none,
      .passiveWeek .upt 0 (some (.replicate 7 256)), .passiveDay .upt 256 none,
      .passiveDay .upt 0 (some [⟨65536, 0⟩]), .passiveDay .upt 0 (some [⟨0, 256⟩]),
      .passiveDay .upt 0 (some (.replicate 160 ⟨0, 0⟩)), .passiveSpecial .upt 256 none,
      .passiveSpecial .upt 0 (some ⟨256, 0, 0, 0, 0⟩), .passiveSpecial .upt 0 (some ⟨0, 256, 0, 0, 0⟩),
      .passiveSpecial .upt 0 (some ⟨0, 0, 256, 0, 0⟩), .passiveSpecial .upt 0 (some ⟨0, 0, 0, 256, 0⟩),
      .passiveSpecial .upt 0 (some ⟨0, 0, 0, 0, 256⟩), .passiveActivateAt .upt ⟨256, 1, 1, 0⟩,
      .passiveActivateAt .upt ⟨20, 256, 1, 0⟩, .passiveActivateAt .upt ⟨20, 1, 256, 0⟩,
      .passiveActivateAt .upt ⟨20, 1, 1, 65536⟩, .readCalendar .upt 256 0 0, .readCalendar .upt 0 256 0,
      .readCalendar .upt 0 0 256, .setSettlement .upt (some 256) none none,
      .setSettlement .upt none (some 4294967296) none, .setSettlement .upt none none (some 256),
      .setUtilityCap .upt 65536 0 none, .setUtilityCap .upt 0 65536 none, .setUtilityCap .upt 0 0 (some 4294967296),
      .setPremisesCap .ppt 65536 0 none, .setCapControl .upt (some 65536) none none none,
      .setCapControl .upt none (some 256) none none, .setCapControl .upt none none (some 256) none,
      .setCapControl .upt none none none (some 65536), .setUnitConfig .upt 256 none none none,
      .setUnitConfig .upt 0 (some 256) none none, .setUnitConfig .upt 0 none (some 256) none,
      .setUnitConfig .upt 0 none none (some 256), .setUnitStandby .upt 256 none, .setUnitStandby .upt 0 (some 256),
      .setProfileWeights .upt (.replicate 4 (some 256)), .readSnapshot .upt (.number 4294967296),
      .readSnapshot .upt (.offset 4294967296), .lockArchive .upt (.list [256]),
      .lockArchive .upt (.list (.replicate 255 4)), .unlockArchive .upt (.list [256])] : List Instr).all
        (fun i => !i.wf) = true := by decide +kernel

/-- One ill-formed event for each check of what an occasion gives it, and a well-formed one beside it. -/
theorem test_wf_events :
    ([.phaseFrame ⟨[], false⟩, .requestFrame .upt [], .unitReport [], .unitReport (.replicate 8 (goodChar 0)),
      .frameLengthOverflow .upt 480#16] : List Instr).all (fun i => !i.wf) = true ∧
    ([.phaseFrame ⟨[goodChar 0], false⟩, .phaseFrame ⟨[], true⟩, .unitReport (.replicate 7 (goodChar 0)), .frameLengthOverflow .upt 481#16,
      .setTime .upt 4294967295, .silence500] : List Instr).all Instr.wf = true := by decide +kernel

/-! ### Worked examples of the spec -/

/-- The CRC of "123456789" is 0x29B1, sent as B1 29 (R198). -/
theorem test_crc : crcBytes [0x31, 0x32, 0x33, 0x34, 0x35, 0x36, 0x37, 0x38, 0x39] = [0xB1, 0x29] := by decide +kernel

/-- The nine sequence judgements of section 1.9, and the wrap across 255. -/
theorem test_sequence_trace :
    [judgeSeq none 200, judgeSeq (some 200) 201, judgeSeq (some 201) 201, judgeSeq (some 201) 204,
      judgeSeq (some 204) 205, judgeSeq (some 205) 250, judgeSeq (some 250) 249, judgeSeq (some 249) 250,
      judgeSeq (some 255) 2] =
    [.normal, .normal, .duplicate, .missed 2, .normal, .resync, .resync, .normal, .missed 2] := by decide

/-- The frame of section 2.2 in both methods (section 2.10), booked to band 1 from Ri 450 and Re 700. -/
theorem test_booking :
    let r := { RegBank.factory with ri := 450, re := 700 }
    let book (m : Netting) := r.book (importOf m 812 (-1530) 95) (exportOf m 812 (-1530) 95) 1
    ((book .vector).ri, (book .vector).re, (book .vector).te, (book .vector).ti, (book .vector).exp[1]) =
      (450, 323, 1, 0, 1) ∧
    ((book .phase).ri, (book .phase).re, (book .phase).ti, (book .phase).te, (book .phase).imp[1]) =
      (357, 230, 1, 2, 1) := by decide +kernel

/-- The wrap of the lifetime export total (section 2.10). -/
theorem test_total_wraps :
    let r := { RegBank.factory with te := 999999995, teOpen := 999987595, exp := (Vector.replicate 8 0).set 2 12400 }
    let t := r.book 0 7000 2
    (t.te, t.exp[2], (t.teOpen + t.exp.toList.sum) % 1000000000) = (2, 12407, 2) := by decide +kernel

/-- The conversion of section 3.9 at the three offsets: date, weekday (Monday 0) and second of day. -/
theorem test_conversion :
    let loc (o : Int) := localSeconds 800000000 o
    let show' (n : Nat) := (dateOf (n / 86400), weekdayOf (n / 86400), n % 86400)
    show' (loc 0) = (⟨2025, 5, 8⟩, 3, 22400) ∧ show' (loc 600) = (⟨2025, 5, 8⟩, 3, 58400) ∧
      show' (loc (-420)) = (⟨2025, 5, 7⟩, 2, 83600) := by decide +kernel

/-- The band evaluations of section 4.4 without an override, by local day and minute. -/
theorem test_band_evaluation :
    let c := tou touSpecials
    let plain := tou (.replicate 24 none)
    let day := dayNumber
    c.bandFor (day 2025 5 8) 973 = (1, .specialDay) ∧ plain.bandFor (day 2025 5 8) 973 = (2, .schedule) ∧
      c.bandFor (day 2026 5 8) 600 = (0, .specialDay) ∧ c.bandFor (day 2025 1 15) 390 = (1, .schedule) ∧
      c.bandFor (day 2025 1 15) 300 = (0, .schedule) ∧ c.bandFor (day 2025 5 10) 180 = (0, .schedule) ∧
      c.validate = none := by decide +kernel

/-- The override and fallback rows of section 4.4. -/
theorem test_override_evaluation :
    let line (v : Bool) : OvLine := { OvLine.reset v with level := v }
    let cal (v1 v0 : Bool) := { run.cal with
      active := tou touSpecials, map := #v[.calendar, .calendar, .force 2, .force 5], lines := #v[line v0, line v1] }
    let t := (at' (dayNumber 2025 5 10 * 86400 + 10800)).tim
    evaluate t (cal true false) = (2, .override) ∧ evaluate t (cal true true) = (1, .overrideFallback) ∧
      evaluate { t with valid := false } (cal true false) = (1, .timeFallback) := by decide +kernel

/-- The first settlement of section 5.7, BANDED and TOTAL. -/
theorem test_settlement :
    let c := tou (.replicate 24 none)
    let imp : Vector Nat 8 := #v[182400, 96750, 41300, 0, 0, 0, 0, 0]
    let exp : Vector Nat 8 := #v[12000, 148200, 65900, 0, 0, 0, 0, 0]
    let b := settle .banded c imp exp 20000 100000
    let t := settle .total c imp exp 20000 100000
    (b.earned, b.applied, b.billable, b.creditOut, b.forfeit) = (65760, 85760, 84640, 0, 0) ∧
      (t.earned, t.applied, t.billable, t.creditOut) = (0, 20000, 74350, 0) := by decide +kernel

/-- Credit reaching the bands in rank order (section 5.7), and three of its limit cases. -/
theorem test_settlement_limits :
    let c := tou (.replicate 24 none)
    let v (l : List Nat) : Vector Nat 8 := Vector.ofFn fun i => l.getD i 0
    let x := settle .banded c (v [20000, 15000, 25000]) (v []) 30000 100000
    (x.bands.map SnapBand.billable, x.applied, x.billable) = ([some 20000, some 10000, some 0], 30000, 30000) ∧
    (let y := settle .total c (v []) (v [30000]) 90000 100000; (y.creditOut, y.forfeit) = (100000, 20000)) ∧
    (let y := settle .total c (v [10000]) (v []) 60000 25000; (y.applied, y.creditOut, y.forfeit) = (10000, 25000, 25000)) ∧
    earnOf 0 7 800 = 5 := by decide +kernel

/-- The worked effective cap of section 6.2. -/
theorem test_effective_cap :
    let ceff (u p : Option CapRecord) := { CapSettings.factory with util := u, prem := p }.ceff
    ceff (some (record 5000 300 none)) (some (record 60000 5000 none)) = some (5000, 300) ∧
      ceff (some (record 5000 300 none)) (some (record 3500 200 none)) = some (3500, 200) ∧
      ceff (some (record 5000 300 none)) (some (record 5000 800 none)) = some (5000, 800) ∧
      ceff none (some (record 5000 800 none)) = some (5000, 800) ∧ ceff none none = none := by decide +kernel

/-- Export powers and Q of section 6.10, its first six frames. -/
theorem test_curtailment_frames :
    let q (s : Int) (n : Nat) := qualify (exportPower s) 5000 500 4 n
    [exportPower (-292), exportPower (-368), exportPower (-333), exportPower (-389), exportPower (-424),
      exportPower (-623)] = [4204, 5299, 4795, 5601, 6105, 8971] ∧
    (q (-292) 0, q (-368) 0, q (-333) 1, q (-389) 1, q (-424) 2, q (-623) 3) = (0, 1, 1, 2, 3, 4) := by decide +kernel

/-- The units of section 7.5, in curtailment with A 5,829 W: a link state for unit 1 and a standby for unit 2. -/
def site (link1 : LinkState) (standby2 : Bool) (status0 : UnitStatus) (a : Nat) : Ulc :=
  let unit (slot : Fin 4) (link : LinkState) (sb : Bool) (st : UnitStatus) (out : Nat) : UnitEntry :=
    { UnitEntry.reset with
      cfg := { enable := true, slot := slot, standby := sb, maskOff := false }, link := link,
      last := some ⟨out, st, 0, false⟩ }
  { Ulc.reset with
    units := #v[unit 0 .online false status0 4200, unit 1 link1 false .generating 2500,
      unit 0 .online standby2 .generating 3100, .reset]
    weights := #v[3, 1, 1, 1], handState := .curtailing, handA := some a }

/-- The worked allocations of section 7.5: all online, unit 1 offline, unit 2 in standby, unit 0 in fault, fail-safe. -/
theorem test_allocations :
    let shares (l : Ulc) := l.reshare.units.toList.map UnitEntry.allowance
    (site .online false .generating 5829).generation = 9800 ∧
    shares (site .online false .generating 5829) = [some 2499, some 832, some 2498, none] ∧
      shares (site .offline false .generating 5829) = [some 1665, some 0, some 1664, none] ∧
      shares (site .online true .generating 5829) = [some 4372, some 1457, some 0, none] ∧
      shares (site .online false .fault 5829) = [some 0, some 1458, some 4371, none] ∧
      shares (site .online false .generating 1500) = [some 644, some 214, some 642, none] := by decide +kernel

/-! ### Witnesses: the machine -/

theorem witness_StepRunsFrontCommand : { run with pending := [.silence500, .restart .upt] }.pending =
    .silence500 :: [.restart .upt] := rfl

theorem witness_IdleStepIsOneMillisecond :
    (run.pending = [] ∧ run.sup.powered = true) ∧
    ((unpowered true).pending = [] ∧ (unpowered true).sup.powered = false ∧ (unpowered true).tim.retained = true) ∧
    ((unpowered false).sup.powered = false ∧ (unpowered false).tim.retained = false) := by decide +kernel

theorem witness_UnpoweredCommands : (unpowered true).sup.powered = false ∧ run.sup.powered = true := by decide +kernel

theorem witness_CommandEnd :
    let restarting : State := { run with sup := { run.sup with restarting := true } }
    let req (set : CauseSet) : State := { restarting with hst := { restarting.hst with ckptReq := some set } }
    let ring : Store := (List.range 64).map fun k => (k, .junk)
    let lost : State := { inSupply .warning with hst := { run.hst with store := ring, ckptReq := some 16 } }
    (restartDue restarting = true ∧ restartDue (req 32) = false ∧ Cause.restart.isIn 32 = true) ∧
    (restartDue run = false ∧ (arbitrate run).sup.supply ≠ .warning) ∧
    (restartDue lost = false ∧ (arbitrate lost).sup.supply = .warning ∧ (arbitrate lost).hst.queue = [] ∧
      (arbitrate lost).hst.engine = .idle ∧ (arbitrate lost).hst.reads = [] ∧
      (arbitrate lost).hst.nextPosition = none ∧ (arbitrate lost).hst.ckptReq = some 16 ∧
      Cause.powerFail.isIn 16 = true) := by decide +kernel

def snap : Snapshot := snapshotNow { reason := .commanded, merged := 1, date := none, activates := false } run

def entry (slot fails : Nat) : PendingSnap := { snap := snap, slot := slot, fails := fails }

def ckpt (causes : CauseSet) : Checkpoint := captureNow causes run

theorem witness_EngineOrder :
    (run.hst.engine = .idle ∧ run.sup.supply ≠ .down ∧ (inSupply .down).sup.supply = .down) ∧
    (State.reset.sup.unread = 0 :: (List.range 63).map (· + 1) ∧ run.sup.unread = [] ∧ run.hst.reads = [] ∧
      { run.hst with reads := [(.upt, 1, 64)] }.reads = [(.upt, 1, 64)]) ∧
    (run.hst.queue = [] ∧ run.hst.logFailed = false ∧ { run.hst with queue := [entry 64 0] }.queue ≠ []) ∧
    (run.hst.ckptFailed = false ∧ run.hst.nextPosition = some 0 ∧ run.hst.ckptRetry = none ∧
      run.hst.ckptReq = none ∧ { run.hst with ckptRetry := some (ckpt 1) }.ckptRetry = some (ckpt 1) ∧
      { run.hst with ckptReq := some 4 }.ckptReq = some 4) := by decide +kernel

/-- The image write of an active calendar, and of a passive one. -/
def job (ofActive edited failed : Bool) (next : Nat) : CalJob :=
  { sector := 10, ofActive := ofActive, grantedActive := ofActive, edited := edited, content := tou touSpecials,
    parts := 2, next := next, slot := next - 1, failed := failed, erasing := false }

theorem witness_EngineOrder_run :
    (run.sup.supply = .run ∧ (inSupply .warning).sup.supply ≠ .run) ∧
    ({ run.hst with suspended := some 5 }.suspended = some 5 ∧ run.hst.suspended = none) ∧
    ({ run.hst with calJob := some (job false false false 1) }.calJob = some (job false false false 1) ∧
      (job false false false 1).erasing = false ∧ { job false false false 1 with erasing := true }.erasing = true) ∧
    (run.hst.calJob = none ∧ run.hst.calWaiting = [] ∧ ({ sector := 11, ofActive := false } : CalWrite).sector = 11) ∧
    (let h : Hst := { run.hst with eraseList := [4, 9, 10], locks := (Vector.replicate 6 true).set 5 false }
     h.eraseList = [4] ++ 9 :: [10] ∧ (∀ y ∈ [4], h.locked y = true) ∧ h.locked 9 = false ∧ h.locked 10 = false) ∧
    (∀ y ∈ [4, 9], run.hst.locked y = true) := by decide +kernel

theorem witness_ResetsAndSupplyLoss :
    run.sup.powered = true ∧ run.tim.retained = true ∧ (unpowered false).tim.retained = false ∧
    underProgram { run.hst with queue := [entry 64 0], engine := .snapshot } = [(64, .snapshot snap)] ∧
    { run.hst with engine := .checkpoint (ckpt 1) 3 false }.engine = .checkpoint (ckpt 1) 3 false ∧
    underProgram { run.hst with engine := .checkpoint (ckpt 1) 3 false } =
      [(6, .half 0 (ckpt 1)), (7, .half 1 (ckpt 1))] ∧ underProgram run.hst = [] := by decide +kernel

/-! ### Witnesses: frames and registers -/

theorem witness_FrameReceiverTables :
    let d (last seq : Byte) := (seq.toNat + 256 - last.toNat) % 256
    (d 7 7 = 0 ∧ d 255 0 = 1 ∧ d 254 0 = 2 ∧ d 248 0 = 8 ∧ d 247 0 = 9 ∧ d 1 0 = 255) ∧
    ((-2047 : Int) ≤ -2047 ∧ (2047 : Int) ≤ 2047 ∧ (-2048 : Int) < -2047 ∧ (2047 : Int) < 2048) ∧
    ((withHealth .relocking 14).frx.relock ≠ 15 ∧ (withHealth .relocking 15).frx.relock = 15 ∧
      (withHealth .gap 0).frx.health = .gap ∧ (withHealth .lost 0).frx.health = .lost ∧
      run.frx.health = .noSignal ∧ (withHealth .locked 0).frx.health = .locked) := by decide +kernel

/-- A phase frame at both ends of the signed range, with phase 3 absent. -/
def frameChars' (seq : Byte) : List RxChar := (phaseBytes seq (-32768) 32767 1200 3 0).map goodChar

def frame (seq : Byte) : PhaseFrame :=
  { seq := seq, p1 := -32768, p2 := 32767, p3 := 1200, present1 := true, present2 := true, present3 := false,
    status := .ok }

theorem witness_PhaseFrameTaken :
    let part : State := { run with frx := { run.frx with run := (frameChars' 9).take 4 } }
    let rest : LinkRun := ⟨(frameChars' 9).drop 4, true⟩
    ((⟨[goodChar 0], false⟩ : LinkRun).ended = false ∧ run.frx.run ++ (⟨[], true⟩ : LinkRun).chars = []) ∧
    (([goodChar 0] : List RxChar).length ≠ 11 ∧ (∃ c ∈ [RxChar.mk 0 false], c.stopOk = false) ∧
      crcOk [0, 0, 0, 0, 0, 0, 0, 0, 0, 0, 0] = false ∧
      2 < (((phaseBytes 0 0 0 0 0 3).map goodChar).map RxChar.byte |>.getD 8 0).toNat) ∧
    (run.sup.powered = true ∧ rest.ended = true ∧ parsePhaseFrame (part.frx.run ++ rest.chars) = some (frame 9) ∧
      run.xcc.state ≠ .failsafe) ∧
    ((inSupply .warning).sup.supply ≠ .run ∧ judgeSeq (some 9) (frame 9).seq = .duplicate ∧
      judgeSeq run.frx.lastSeq (frame 9).seq = .normal) ∧
    ((capped .failsafe 0 none).xcc.state = .failsafe ∧ (healthOnArrival .relocking 15).1 = .locked ∧
      (healthOnArrival .lost 0).1 ≠ .locked) := by
  refine ⟨by decide, ⟨by decide, ⟨⟨0, false⟩, by simp, rfl⟩, by decide +kernel, by decide +kernel⟩, by decide +kernel,
    by decide +kernel, by decide +kernel⟩

theorem witness_Silences :
    run.sup.powered = true ∧ (withHealth .locked 0).frx.health = .locked ∧
    (withHealth .relocking 3).frx.health = .relocking ∧ run.frx.health = .noSignal ∧
    (withHealth .gap 0).frx.health = .gap ∧ (withHealth .lost 0).frx.health ≠ .gap := by decide +kernel

theorem witness_Netting : ∀ p ∈ [(-2047 : Int), 2047, 0], -2047 ≤ p ∧ p ≤ 2047 := by decide

theorem witness_RegisterBankUpdates :
    RegBank.factory.ok = true ∧ (0 : Fin 8) ≠ 7 ∧ ((0 : Fin 8).val < 1) ∧ (7 : Fin 8).val < 8 := by decide +kernel

/-! ### Witnesses: time -/

/-- A state on 2 June 2025 with an owed close or none, its billing day 1. -/
def june (owed : Option Owed) : State :=
  let s := at' (dayNumber 2025 6 2 * 86400)
  { s with set := { s.set with owed := owed } }

def owed : Owed := { first := .commanded, count := 1, calFlag := true, date := none }

/-- A count whose next second is a whole minute, and one whose next second is a midnight. -/
def minuteNext : State := at' 800000039

def midnightNext : State := at' 800063999

theorem witness_SecondTick :
    (run.sup.powered = true ∧ run.tim.utc ≠ utcMax ∧ run.tim.valid = false) ∧
    ((at' 800000000).tim.valid = true ∧ (capExpiry (secondOn (at' 800000000))).tim.localSec % 60 ≠ 0) ∧
    ((capExpiry (secondOn minuteNext)).tim.localSec % 60 = 0 ∧
      (capExpiry (secondOn minuteNext)).tim.localSec % 86400 ≠ 0) ∧
    ((capExpiry (secondOn midnightNext)).tim.localSec % 60 = 0 ∧
      (capExpiry (secondOn midnightNext)).tim.localSec % 86400 = 0) ∧
    ((at' utcMax).tim.utc = utcMax ∧ (inSupply .down).sup.supply ≠ .run) := by decide +kernel

/-- A record whose expiry the count has just reached beside one with a second to go, both still to come, and none. -/
theorem witness_SecondTick_expiries :
    let upTo (e : Option Nat) : CapRecord := ⟨30000, 500, e, none⟩
    let held (u p : Option CapRecord) : State :=
      { at' 800000000 with xcc := { run.xcc with cfg := { run.xcc.cfg with util := u, prem := p } } }
    let due := held (some (upTo (some 800000000))) (some (upTo (some 800000001)))
    let last := held none (some (upTo (some 799999999)))
    (due.tim.valid = true ∧ capExpiryDue due = true ∧
      capExpiry due = recordsSet { due.xcc.cfg with util := none } due) ∧
    (capExpiryDue last = true ∧ last.xcc.cfg.ceff ≠ none ∧ capExpiry last = recordsSet { last.xcc.cfg with prem := none } last) ∧
    (let none' := held (some (upTo none)) (some (upTo (some 800000001)))
     capExpiryDue none' = false ∧ capExpiry none' = none') ∧
    (let blind := { due with tim := { due.tim with valid := false } }
     capExpiryDue blind = false ∧ capExpiry blind = blind) := by decide +kernel

/-- An activation that is due, also at a local midnight, one that is owed, and neither. -/
theorem witness_CalendarTakes :
    let due : State := { midnightNext with cal := { run.cal with activation := some ⟨0, 0⟩ } }
    activationDue due = true ∧ activationDue run = false ∧ (¬closeMayActivate run) ∧
      activationDue (june (some owed)) = false ∧ (june (some owed)).set.owed = some owed ∧ owed.calFlag = true ∧
      (activationDue (capExpiry (secondOn due)) = true ∧ (capExpiry (secondOn due)).tim.localSec % 86400 = 0) := by
  refine ⟨by decide +kernel, by decide +kernel, ?_, by decide +kernel, rfl, rfl, by decide +kernel⟩
  rintro (h | ⟨o, h, -⟩)
  · exact absurd h (by decide +kernel)
  · exact absurd ((show run.set.owed = none from rfl).symm.trans h) nofun

theorem witness_TimeRequests :
    Serves .upt (.setTime 631152000) run ∧ Serves .upt (.setTime 3155759999) run ∧ Serves .upt (.setTime 0) run ∧
    ((631151999 : Nat) < 631152000 ∧ (3155759999 : Nat) < 3155760000) ∧
    Serves .upt (.setLocalOffset none) run ∧ Serves .upt (.setLocalOffset (some (-720))) run ∧
    ((-720 : Int) % 15 = 0 ∧ (840 : Int) % 15 = 0 ∧ run.tim.offset = 0 ∧ (840 : Int) ≠ run.tim.offset ∧
      ¬((-720 : Int) ≤ 841 ∧ (841 : Int) ≤ 840 ∧ (841 : Int) % 15 = 0)) := by decide +kernel

theorem witness_StepEvents :
    let u := june none
    let w := june (some owed)
    let may31 := dayNumber 2025 5 31 * 86400
    (stepDue none u = none ∧ stepRetries false none u = false ∧ stepRetries true none u = true) ∧
    (stepDue (some may31) u = some (dayNumber 2025 6 1) ∧ stepRetries true (some may31) u = true ∧
      u.set.owed = none) ∧
    (stepDue (some may31) w = some (dayNumber 2025 6 1) ∧ stepRetries true (some may31) w = true ∧
      w.set.owed = some owed ∧ activationDue { w with cal := { w.cal with activation := some ⟨0, 0⟩ } } = true) ∧
    passedBilling 1 may31 (dayNumber 2025 6 1 * 86400) = some (dayNumber 2025 6 1) ∧
    passedBilling 1 (may31 + 86400) (dayNumber 2025 6 1 * 86400) = none := by decide +kernel

theorem witness_DatesAndDayNumbers :
    validDate 2000 2 29 = true ∧ validDate 2100 2 28 = true ∧ validDate 2099 12 31 = true := by decide +kernel

/-- Local times at the lower bound, and an hour west of a midnight. -/
theorem witness_DatesAndDayNumbers_local :
    let t (utc : Nat) (o : Int) : Tim := { run.tim with utc := utc, offset := o }
    ((0 : Int) + 60 * (-720) < 0 ∧ (t 0 (-720)).localSec = 0) ∧
    ((43200 : Int) + 60 * (-720) = 0 ∧ (t 43200 (-720)).localSec = 0 ∧ (t 43260 (-720)).localMinute = 1) ∧
    ((t 86400 (-60)).localDay = 0 ∧ (t 86400 (-60)).localMinute = 1380) := by decide +kernel

/-! ### Witnesses: the calendar -/

theorem witness_SwitchPointInForce :
    let l : List SwitchPoint := [⟨420, 1⟩, ⟨1380, 0⟩]
    l.Pairwise (fun a b => a.minute < b.minute) ∧ ((⟨420, 1⟩ : SwitchPoint) ∈ l ∧ 420 ≤ 420 ∧
      ∀ y ∈ l, y.minute ≤ 420 → y.minute ≤ 420) ∧ ∀ x ∈ l, 419 < x.minute := by decide +kernel

theorem witness_BandEvaluation :
    let c := tou touSpecials
    (run.tim.valid = false ∧ (at' 0).tim.valid = true ∧ run.cal.map[run.cal.mapIndex] = .calendar) ∧
    ((2 : Fin 8).val < c.nb ∧ c.nb ≤ (3 : Fin 8).val) ∧
    (c.specialFor ⟨2025, 5, 8⟩ = some 1 ∧ c.days[(1 : Fin 12)] = some [⟨420, 1⟩, ⟨1380, 0⟩]) ∧
    (c.specialFor ⟨2025, 1, 15⟩ = none ∧ c.seasonFor 1 15 = some ⟨10, 1, 1⟩ ∧
      c.weeks[(1 : Fin 4)] = some #v[2, 2, 2, 2, 2, 1, 1] ∧
      c.days[(2 : Fin 12)] = some [⟨360, 1⟩, ⟨1020, 2⟩, ⟨1200, 0⟩]) ∧
    ((evaluate run.tim run.cal).1 = run.cal.band ∧
      (evaluate run.tim { run.cal with active := c }).1 ≠ run.cal.band) := by decide +kernel

/-- Special days and seasons: a full date over a recurring one, a recurring one alone, no special day, a season reached
on its first day, and the wrap of the season before every start. -/
theorem witness_SpecialsAndSeasons :
    let c := tou touSpecials
    (c.specials[(2 : Fin 24)] = some ⟨.full 2025 5 8, 1⟩ ∧ c.specials[(1 : Fin 24)] = some ⟨.recurring 5 8, 3⟩ ∧
      (∀ j : Fin 24, j ≠ 1 → (c.specials[j]).map Special.date ≠ some (.recurring 5 8)) ∧
      (∀ j : Fin 24, j ≠ 2 → (c.specials[j]).map Special.date ≠ some (.full 2025 5 8)) ∧
      (∀ j : Fin 24, (c.specials[j]).map Special.date ≠ some (.full 2026 5 8)) ∧
      (∀ j : Fin 24, (c.specials[j]).map Special.date ≠ some (.full 2025 1 15) ∧
        (c.specials[j]).map Special.date ≠ some (.recurring 1 15))) ∧
    (c.seasons[(0 : Fin 4)] = some ⟨4, 1, 0⟩ ∧ c.seasons[(1 : Fin 4)] = some ⟨10, 1, 1⟩ ∧
      c.seasons[(2 : Fin 4)] = none ∧ c.seasons[(3 : Fin 4)] = none ∧
      c.seasonFor 4 1 = some ⟨4, 1, 0⟩ ∧ c.seasonFor 3 31 = some ⟨10, 1, 1⟩) ∧
    ∀ j : Fin 4, (Calendar.empty (.replicate 8 0x41)).seasons[j] = none := by decide +kernel

theorem witness_ValidationIsExact : (tou touSpecials).validate = none ∧
    (Calendar.empty (.replicate 8 0x41)).validate = some (1, 0) := by decide +kernel

theorem witness_OverrideLines :
    run.sup.powered = true ∧ run.cal.lines[(0 : Fin 2)].level = false ∧
    run.cal.lines[(0 : Fin 2)].debounced = false ∧ run.cal.lines[(0 : Fin 2)].timer = none ∧
    ({ OvLine.reset false with level := true, timer := some 200 } : OvLine).timer = some 200 ∧
    ((OvLine.reset true).effective ≠ (OvLine.reset false).effective ∧ run.sup.supply ≠ .starting ∧
      State.reset.sup.supply = .starting) ∧
    ((OvLine.reset false).source = .pin ∧ { OvLine.reset false with source := .virtual }.source = .virtual) := by
  decide +kernel

theorem witness_OverrideRequests :
    Serves .upt (.setOverrideSource 1 none) run ∧ Serves .upt (.setOverrideSource 0 (some 1)) run ∧
    Serves .upt (.setOverride 0 1) run ∧ (Serves .upt (.setOverride 0 2) run ∧ 1 < 2) ∧
    Serves .upt (.setOverrideMap none) run ∧ Serves .upt (.setOverrideMap (some (.replicate 4 ⟨1, 7⟩))) run ∧
    (∀ i : Fin 4, (Vector.replicate 4 (RawMapEntry.mk 1 7))[i].band ≤ 7) ∧
    (let m : Vector RawMapEntry 4 := (Vector.replicate 4 ⟨1, 7⟩).set 3 ⟨1, 8⟩
     Serves .upt (.setOverrideMap (some m)) run ∧ m[(3 : Fin 4)].kind = 1 ∧ 7 < m[(3 : Fin 4)].band) := by
  decide +kernel

/-- RUN with the calendar of section 4.4 passive. -/
def passive (c : Calendar) : State := { run with cal := { run.cal with passive := some c } }

/-- The edits at the ends of their ranges, and one just outside for each. -/
theorem witness_PassiveEdits :
    let l : List Request := [.passiveClear (.replicate 8 0x20), .passiveBands 1 7 [⟨.replicate 4 0x41, 1000, 7⟩],
      .passiveSeason 3 (some ⟨2, 29, 3⟩), .passiveWeek 3 (some (.replicate 7 11)), .passiveDay 11 (some [⟨1439, 7⟩]),
      .passiveSpecial 23 (some ⟨1, 99, 12, 31, 11⟩)]
    (∀ q ∈ l, isEdit q = true ∧ Serves .upt q (passive (tou touSpecials)) ∧ Serves .upt q run) ∧
    run.cal.passive = none ∧ (passive (tou touSpecials)).cal.passive = some (tou touSpecials) ∧
    (let bad : List RawBand := [⟨.replicate 4 0x41, 1000, 7⟩, ⟨.replicate 4 0x41, 1001, 0⟩]
     (∀ q ∈ [.passiveBands 0 0 [], .passiveBands 2 7 bad, .passiveSeason 4 none, .passiveSpecial 24 none],
       isEdit q = true ∧ Serves .upt q (passive (tou touSpecials))) ∧ bad.length = 2 ∧
       editIndex (.passiveSeason 4 none) = some 4 ∧ editIndex (.passiveSpecial 24 none) = some 24) := by decide +kernel

theorem witness_PassiveEdits_ok :
    editOk (.passiveBands 1 7 [⟨.replicate 4 0x41, 1000, 7⟩]) ∧ ¬editOk (.passiveBands 1 8 []) ∧
    ¬editOk (.passiveSeason 4 none) ∧ ¬editOk (.passiveWeek 4 none) ∧ ¬editOk (.passiveDay 12 none) ∧
    ¬editOk (.passiveSpecial 24 none) := by
  refine ⟨⟨by decide, by decide, rfl, by decide, by decide⟩, ?_, ?_, ?_, ?_, ?_⟩ <;> intro h <;>
    simp [editOk] at h

theorem witness_PassiveEditEffects :
    (run.cal.activation = none ∧ run.cal.persisted = false ∧
      run.set.owed = run.set.owed.map fun o => { o with calFlag := false }) ∧
    (june (some owed)).set.owed ≠ (june (some owed)).set.owed.map fun o => { o with calFlag := false } := by
  decide +kernel

theorem witness_CalendarActivation :
    let t : RawDateTime := ⟨20, 1, 1, 0⟩
    let last : RawDateTime := ⟨99, 12, 31, 1439⟩
    let p := passive (tou touSpecials)
    let bad := passive (Calendar.empty (.replicate 8 0x41))
    let o : State := { p with set := { p.set with owed := some owed } }
    (Serves .upt (.passiveActivateAt t) run ∧ RawDateTime.ok ⟨19, 12, 31, 1439⟩ = false ∧
      RawDateTime.ok ⟨21, 2, 29, 0⟩ = false ∧ RawDateTime.ok t = true ∧ RawDateTime.ok last = true) ∧
    (run.cal.passive = none ∧ Serves .upt .passiveActivateNow run) ∧
    (Serves .upt (.passiveActivateAt t) bad ∧ (Calendar.empty (.replicate 8 0x41)).validate = some (1, 0)) ∧
    (Serves .upt (.passiveActivateAt t) p ∧ (tou touSpecials).validate = none ∧ p.activationOwed = false) ∧
    (Serves .upt (.passiveActivateAt t) o ∧ o.set.owed = some owed ∧ owed.calFlag = true) ∧
    (trigger .calendar none (requestImage p)).set.owed = none ∧
    (trigger .calendar none (requestImage o)).set.owed ≠ none := by decide +kernel

theorem witness_CalendarActivation_image :
    let waits (k : Nat) : CalWrite := { sector := k, ofActive := true }
    (run.hst.calFailed = false ∧ { run.hst with calFailed := true }.calFailed = true ∧ run.hst.calWaiting = []) ∧
    ([waits 11, waits 10] = [waits 11] ++ waits 10 :: [] ∧ (waits 10).sector = 10 ∧
      ∀ y ∈ [waits 11] ++ [], y.sector ≠ 10) ∧
    (run.cal.passive = none ∧ (passive (tou touSpecials)).cal.passive = some (tou touSpecials)) := by decide +kernel

/-! ### Witnesses: settlement -/

theorem witness_ModeFigures :
    (0 : Int) ≤ 0 ∧ (-1 : Int) < 0 ∧ (tou touSpecials).bands.isSome = true ∧
    ((tou touSpecials).entries.map BandEntry.rank).Nodup ∧ (tou touSpecials).entries.length ≤ 8 := by decide +kernel

theorem witness_ReservationRule :
    let narrow (ptr : Nat) : Hst := { run.hst with writePtr := ptr, retired := [5, 6, 7, 8, 9] }
    let wide (ptr : Nat) : Hst := { run.hst with writePtr := ptr }
    (63 < 64 ∧ 64 / 16 = run.hst.curLog ∧ run.hst.free 64 = true ∧ run.hst.grant = some 64 ∧ run.hst.margin 64 = 31) ∧
    ((wide 79).freeAfter 79 4 = [] ∧ (wide 79).nextLog 4 ≠ 4 ∧ Store.sectorBlank (wide 79).store 5 = true ∧
      (wide 79).candidate = some 80) ∧
    ((narrow 79).freeAfter 79 4 = [] ∧ (narrow 79).nextLog 4 = 4 ∧ (narrow 79).candidate = none) ∧
    ((narrow 77).candidate = some 78 ∧ (narrow 77).margin 78 = 1 ∧ (narrow 75).margin 76 = 3) ∧
    (2 ≤ { run.hst with queue := [entry 64 0, entry 65 0] }.queue.length ∧
      { run.hst with logFailed := true }.logFailed = true) := by decide +kernel

/-- The next sector behind one retired, a ring with no other sector left, and a log pre-erase that is due. -/
theorem witness_ReservationRule_ring :
    let h : Hst := { run.hst with retired := [5, 4, 6, 7, 8, 9] }
    let due : Hst := { run.hst with writePtr := 75, store := [(80, .junk)] }
    ((∀ m, 1 ≤ m → m < 2 → 4 + (4 - 4 + m) % 6 ∈ [5]) ∧ 4 + (4 - 4 + 2) % 6 ∉ [5]) ∧
    ((List.range 6).all (fun m => h.retired.contains (4 + (4 - 4 + (m + 1)) % 6)) = true) ∧
    ((due.freeAfter due.writePtr due.curLog).length = 4 ∧ due.nextLog due.curLog = 5 ∧
      Store.sectorBlank due.store 5 = false ∧ 5 ∉ due.eraseList ∧ due.suspended ≠ some 5 ∧
      due.engine ≠ .erase 5) := by decide +kernel

theorem witness_TriggersAndRetries :
    closable 64 run ∧ run.set.owed = none ∧ (june (some owed)).set.owed = some owed ∧
    (∀ k, ¬closable k (inSupply .warning)) ∧ closable 64 (june (some owed)) ∧
    (let s := at' (dayNumber 2025 6 1 * 86400)
     s.set.day = 1 ∧ (dateOf (s.tim.localSec / 86400)).day = 1 ∧ s.tim.lastClose = none ∧ s.set.owed = none) := by
  refine ⟨by decide +kernel, by decide +kernel, by decide +kernel, ?_, by decide +kernel, by decide +kernel⟩
  rintro k ⟨h, -⟩
  exact absurd h (by decide +kernel)

theorem witness_ClosePeriod :
    Serves .upt .closePeriod run ∧ run.reg.period < periodMax ∧ run.sup.restarting = false ∧ run.set.owed = none ∧
    run.hst.grant = some 64 ∧ { run.reg with period := periodMax }.period = periodMax ∧
    (Serves .upt .closePeriod { run with sup := { run.sup with restarting := true } }) ∧
    { run.hst with logFailed := true }.grant = none ∧ (june (some owed)).set.owed = some owed := by decide +kernel

theorem witness_CloseEffects :
    (⟨.scheduled, 1, some 9000, false⟩ : CloseOrder).activates = false ∧
    (triggerOrder .calendar none).activates = true := by decide

theorem witness_SetSettlement :
    Serves .upt (.setSettlement (some 1) (some 999999999) (some 28)) run ∧
    Serves .upt (.setSettlement none (some 1000000000) none) run ∧ (999999999 : Nat) < 1000000000 ∧
    Serves .upt (.setSettlement none none (some 29)) run ∧ (28 : Nat) < 29 ∧
    Serves .upt (.setSettlement none none none) run := by decide +kernel

/-! ### Witnesses: the export cap -/

theorem witness_CapArithmetic :
    ((-6141 : Int) ≤ 0 ∧ (0 : Int) ≤ 6141) ∧ ((0 : Nat) ≤ 4 ∧ (4 : Nat) ≤ 4) ∧
    ((5000 : Int) < 5001 ∧ (5000 : Int) - 500 ≤ 4500 ∧ (4499 : Int) < 5000 - 500) ∧
    (CapSettings.factory.util = none ∧ CapSettings.factory.prem = none) := by decide

theorem witness_CurtailmentTransitions :
    (run.xcc.state = .uncapped ∧ (capped .failsafe 0 none).xcc.state = .failsafe) ∧
    (capped .normal 3 none).xcc.cfg.ceff = some (5000, 500) ∧
    (qualify (exportPower (-623)) 5000 500 4 2 ≠ 4 ∧ qualify (exportPower (-623)) 5000 500 4 3 = 4) ∧
    ((capped .curtailing 1 (some 2000)).xcc.holdEnd = some 2000 ∧ (capped .curtailing 1 (some 2000)).tim.runMs < 2000) ∧
    ((capped .curtailing 1 (some 0)).tim.runMs = 0 ∧ qualify (exportPower (-299)) 5000 500 4 1 = 0) ∧
    ((capped .normal 3 none).xcc.cfg.fsEnable = true ∧ (capped .normal 3 none).xcc.cfg.ceff ≠ none ∧
      run.xcc.cfg.ceff = none) := by decide +kernel

theorem witness_CapRequests :
    let s := at' 631152000
    Serves .upt (.setUtilityCap 60001 5001 (some 631152001)) s ∧ Serves .ppt (.setPremisesCap 0 0 none) s ∧
    (s.tim.valid = true ∧ s.tim.utc < 631152001 ∧ ¬ s.tim.utc < 631152000 ∧ (631152001 : Nat) ≤ 3155759999) ∧
    (Serves .upt .clearUtilityCap s ∧ Serves .ppt .clearPremisesCap s ∧ s.xcc.cfg.util = none ∧
      s.xcc.cfg.prem = none) ∧
    (Serves .upt .clearUtilityCap (capped .normal 0 none) ∧ (capped .normal 0 none).xcc.cfg.util ≠ none) ∧
    { run.xcc.cfg with prem := some (record 1 1 none) }.prem ≠ none := by decide +kernel

theorem witness_SetCapControl :
    (Serves .upt (.setCapControl none (some 3) none none) run ∧ 3 % 2 = 1) ∧
    Serves .upt (.setCapControl none none none none) run ∧
    (Serves .upt (.setCapControl (some 60001) (some 254) (some 0) (some 3601)) run ∧ 254 % 2 = 0) ∧
    Serves .upt (.setCapControl (some 60000) (some 1) (some 255) (some 3600)) run := by decide +kernel

/-! ### Witnesses: units -/

theorem witness_AllowanceSharing :
    let l := site .offline true .generating 5829
    l.curtailed = true ∧ l.activeSet = [0] ∧ (∀ i : Fin 4, 1 ≤ l.weights[i]) ∧ Ulc.reset.curtailed = false ∧
    (l.units[(3 : Fin 4)].cfg.enable = false ∧ l.units[(2 : Fin 4)].cfg.effStandby = true ∧
      l.units[(1 : Fin 4)].isActive = false ∧ l.units[(1 : Fin 4)].cfg.effStandby = false ∧
      l.units[(0 : Fin 4)].isActive = true) := by decide +kernel

def msg : AllowanceMsg := { unit := 1, allowance := some 832, seq := 18 }

theorem witness_UnitLinkExchanges :
    let on := withUlc (site .online false .generating 5829)
    run.sup.powered = true ∧ (inSupply .warning).sup.supply ≠ .run ∧ run.ulc.exchange = .none ∧
    (unitNumbers.filter fun i => run.ulc.units[i].cfg.enable) = [] ∧
    (unitNumbers.filter fun i => on.ulc.units[i].cfg.enable) = [0, 1, 2] ∧
    { on.ulc with exchange := .sending msg }.exchange = .sending msg ∧
    { on.ulc with exchange := .window msg 40 [] }.exchange = .window msg 40 [] ∧
    (([] ++ (reportBytes 1 30001 2 18).map goodChar).length = 7 ∧
      parseReport 1 ((reportBytes 1 30001 2 18).map goodChar) = some ⟨30000, .fault, 18, true⟩) ∧
    parseReport 1 ((reportBytes 0 0 0 18).map goodChar) = none := by decide +kernel

/-- RUN with unit 1 of section 7.5 in its reply window and others to follow. -/
def inWindow (rest : List (Fin 4)) : State :=
  withUlc { (site .online false .generating 5829).reshare with exchange := .window msg 40 [], rest := rest }

/-- Unit 1 of section 7.5 is disabled in its reply window (R136, R137): unit 2 is sent its new 5,829 × 3 div 6 = 2,914 W or
its old 2,498 W, and its allowance in force is the new one. -/
theorem test_disable_shares_and_polls :
    let sent (t : State) := match t.ulc.exchange with
      | .sending m => some (m.unit, m.allowance)
      | _ => none
    let t := applyUnitConfig 1 (some false) none none (inWindow [2])
    (sent t = some (2, some 2914) ∨ sent t = some (2, some 2498)) ∧
      t.ulc.units[(2 : Fin 4)].allowance = some 2914 := by
  intro sent t
  have free : t = either _ _ _ :=
    applyUnitConfig_disable_polls 1 none none (inWindow [2]) (by decide +kernel) (by decide +kernel)
  rcases free ▸ either_cases _ _ _ with order | order <;> rw [order] <;> decide +kernel

/-- The end of an exchange: a unit that leaves the active set, one in standby that comes ONLINE, one that stays. -/
theorem witness_UnitLinkExchanges_end :
    let u : UnitEntry := { UnitEntry.reset with
      cfg := { enable := true, slot := 0, standby := false, maskOff := false }, link := .online, miss := 2,
      last := some ⟨5, .generating, 0, false⟩ }
    let standby : UnitEntry := { u with cfg := { u.cfg with standby := true }, link := .probing, last := none }
    let back := UnitEntry.reported ⟨5, .generating, 0, false⟩ 0 standby
    (u.missed.cfg = u.cfg ∧ u.missed.isActive ≠ u.isActive) ∧
    (back.cfg = standby.cfg ∧ back.isActive = standby.isActive ∧ standby.cfg.enable = true ∧
      back.link ≠ standby.link ∧ back.link = .online) ∧
    ({ u with miss := 1 }.missed.isActive = u.isActive ∧ { u with miss := 1 }.missed.link = u.link) ∧
    ((capped .failsafe 0 none).xcc.state = .failsafe ∧ run.xcc.state ≠ .failsafe) := by decide +kernel

theorem witness_UnitLinkExchanges_none :
    (∀ m, run.ulc.exchange ≠ .sending m) ∧ ∀ m closes got, run.ulc.exchange ≠ .window m closes got := by
  constructor <;> intros <;> exact Exchange.noConfusion

theorem witness_LinkMessagesReadBack :
    (FeStatus.ofCode 2 = some .calFault ∧ ∀ p ∈ [(-32768 : Int), 32767, 0], -32768 ≤ p ∧ p ≤ 32767) ∧
    ((65535 : Nat) < 65536 ∧ UnitStatus.ofCode 2 = some .fault ∧ (1 : Fin 4) ≠ 0) := by decide

/-- A reply that is good, and each way it is a miss: too short, a stop bit missing, a wrong check, another unit, and an
unknown status. -/
theorem witness_LinkMessagesReadBack_miss :
    let good := (reportBytes 1 30000 2 18).map goodChar
    let unstopped : List RxChar := good.take 6 ++ [⟨(good.map RxChar.byte).getD 6 0, false⟩]
    let wrong := good.take 6 ++ [goodChar ((good.map RxChar.byte).getD 6 0 ^^^ 1)]
    let unknown := (reportBytes 1 30000 3 18).map goodChar
    let check (l : List RxChar) := crcOk (l.map RxChar.byte)
    (parseReport 1 good ≠ none ∧ good.length = 7) ∧ (good.take 6).length ≠ 7 ∧
    (unstopped.length = 7 ∧ check unstopped = true ∧ parseReport 1 unstopped = none) ∧
    (wrong.length = 7 ∧ check wrong = false ∧ parseReport 1 wrong = none) ∧
    (check good = true ∧ parseReport 0 good = none) ∧
    (check unknown = true ∧ ((unknown.map RxChar.byte).getD 3 0).toNat = 3 ∧ parseReport 1 unknown = none) := by
  decide +kernel

/-- A snapshot of period 41 with 3 bands, as the example of section 11.6. -/
def snap41 (mode : SetMode) : Snapshot :=
  let band (n : Nat) : SnapBand := ⟨n, n + 1, if mode = .banded then some (n + 2) else none⟩
  { snap with number := 41, mode := mode, bands := [band 10, band 20, band 30], openTime := some 800000000 }

/-- The limits of the lists, met at their ends; the section's 110 and 112 bytes; a body and each kind of record. -/
theorem witness_LinkMessagesReadBack_sent :
    let c := tou touSpecials
    (Calendar.within c ∧ Calendar.within { c with days := .replicate 12 (some (.replicate 8 ⟨0, 0⟩)) }) ∧
    ({ snap with bands := .replicate 8 ⟨0, 0, none⟩ } : Snapshot).bands.length = 8 ∧ (List.range 12).length ≤ 12 ∧
    (∀ m ∈ [SetMode.total, SetMode.banded], ∀ b ∈ (snap41 m).bands, b.billable.isSome = decide ((snap41 m).mode = .banded)) ∧
    ((snap41 .banded).bytes.length = 110 ∧ (Answer.snapshot (snap41 .banded)).bytes.length = 112 ∧
      (snap41 .total).bytes.length = 98) ∧
    (recordOf (.snapshot (snap41 .total)) = some (1, (snap41 .total).bytes) ∧
      (recordOf (.half 1 (ckpt 1))).isSome = true ∧ (recordOf (.part 2 3 c)).isSome = true) ∧
    ((0 : Nat) < 256 ^ 1 ∧ ¬256 < 256 ^ 1) := by decide +kernel

theorem witness_UnitStates :
    let u (l : LinkState) (n : Nat) : UnitEntry := { UnitEntry.reset with link := l, miss := n }
    ((u .probing 1).link = .probing ∧ (u .probing 1).miss < 2 ∧ 2 ≤ (u .online 2).miss) ∧
    ((u .offline 3).link = .offline ∧ (u .offline 3).link ≠ .disabled ∧ (u .disabled 0).link = .disabled) ∧
    ((18 : Byte) = 18 ∧ (17 : Byte) ≠ 18) := by decide

theorem witness_UnitRequests :
    serves run [(.upt, .setUnitConfig 4 none none none), (.upt, .setUnitConfig 3 (some 1) (some 3) (some 1)),
      (.upt, .setUnitConfig 0 (some 3) none none), (.upt, .setUnitConfig 0 none (some 4) none),
      (.upt, .setUnitConfig 0 none none (some 255)), (.ppt, .setUnitStandby 4 none),
      (.ppt, .setUnitStandby 3 (some 2)), (.ppt, .setUnitStandby 0 (some 3)),
      (.upt, .setProfileWeights #v[some 0, some 101, none, some 100]),
      (.upt, .setProfileWeights (.replicate 4 none))] ∧
    (let on := withUlc (site .online false .generating 5829)
     on.ulc.units[(0 : Fin 4)].isActive = true ∧ on.ulc.units[(0 : Fin 4)].cfg.slot = 0 ∧
      max 1 (min 100 101) ≠ on.ulc.weights[(0 : Fin 4)] ∧ ∀ i : Fin 4, run.ulc.units[i].isActive = false) ∧
    ((2 % 2 = 0 ∨ 2 = 1) ∧ ¬(3 % 2 = 0 ∨ 3 = 1) ∧ ¬(255 % 2 = 0 ∨ 255 = 1)) := by decide +kernel

/-- A unit disabled in its reply window: with another unit to follow, with none but itself, and while no exchange is with
it; a unit enabled again. -/
theorem witness_UnitRequests_disable :
    let polled (rest : List (Fin 4)) : State := inWindow rest
    serves (polled [2]) [(.upt, .setUnitConfig 1 (some 0) none none)] ∧
    ((polled [2]).ulc.units[(1 : Fin 4)].cfg.enable = true ∧ going 1 (polled [2]).ulc = true ∧ (2 : Fin 4) ≠ 1) ∧
    ((polled []).ulc.rest = [] ∧ going 0 (polled [2]).ulc = false ∧
      going 1 { (polled [2]).ulc with exchange := .sending msg } = true) ∧
    (serves run [(.upt, .setUnitConfig 3 (some 1) none none)] ∧ run.ulc.units[(3 : Fin 4)].cfg.enable = false) := by
  decide +kernel

/-! ### Witnesses: the store -/

theorem witness_SnapshotProgramComplete :
    let one : Hst := { run.hst with engine := .snapshot, queue := [entry 64 0], writePtr := 64 }
    let two : Hst := { run.hst with engine := .snapshot, queue := [entry 64 1, entry 65 0], writePtr := 65 }
    let failed (h : Hst) : Hst := { h with store := Store.put h.store 64 .junk, engine := .idle }
    run.hst.engine ≠ .snapshot ∧ (one.engine = .snapshot ∧ one.queue = [entry 64 0]) ∧
    (failed one).candidate = some 65 ∧ (failed two).candidate = some 66 ∧ (entry 64 0).fails = 0 ∧
    1 ≤ (entry 64 1).fails := by decide +kernel

theorem witness_Checkpoints :
    run.hst.ckptFailed = false ∧ run.hst.ckptReq = none ∧ { run.hst with ckptFailed := true }.ckptFailed = true ∧
    { run.hst with ckptReq := some 4 }.ckptReq = some 4 ∧
    { run.hst with engine := .checkpoint (ckpt 1) 31 true }.engine = .checkpoint (ckpt 1) 31 true ∧
    run.hst.periodicFired = false ∧ { run.hst with periodicFired := true }.periodicFired = true := by decide +kernel

/-- The record positions and the judgement of the ring: the last position, the next sector, none left, a pre-erase, and an
area that can go on nowhere. -/
theorem witness_Checkpoints_ring :
    let junk (n : Nat) : Store := (List.range n).map fun k => (k, .junk)
    let full : Hst := { run.hst with store := junk 16, ckptLast := some 7 }
    let alone : Hst := { full with retired := [1, 2, 3] }
    let half : Hst := { run.hst with store := junk 7 ++ [(16, .junk)], ckptLast := some 3 }
    (Store.at (junk 14) 14 = none ∧ Store.at (junk 14) 15 = none) ∧
    (full.nextRing 0 = 1 ∧ Store.sectorBlank full.store 1 = true ∧ full.nextPosition = some 8) ∧
    (alone.nextRing 0 = 0 ∧ alone.nextPosition = none ∧ alone.ckptFailed = false ∧
      ((List.range 8).filter fun p => alone.positionUsed (8 * alone.ckptSector + p)).length = 8) ∧
    (half.nextRing 0 ≠ 0 ∧ Store.sectorBlank half.store 1 = false ∧ 1 ∉ half.eraseList ∧ half.suspended ≠ some 1 ∧
      half.engine ≠ .erase 1 ∧ ((List.range 8).filter fun p => half.positionUsed (8 * half.ckptSector + p)).length = 4) ∧
    (run.hst.newestSeq = none ∧ { run.hst with newestSeq := some 4294967295 }.newestSeq = some 4294967295) := by
  decide +kernel

theorem witness_Checkpoints_none : ∀ c p r, run.hst.engine ≠ .checkpoint c p r := by intros; exact Engine.noConfusion

theorem witness_PartsAndErases :
    let part (j : CalJob) : Hst := { run.hst with engine := .part, calJob := some j }
    (run.hst.engine ≠ .part ∧ (part (job false false false 1)).engine = .part ∧
      (part (job false false false 1)).calJob = some (job false false false 1)) ∧
    ((job false false false 1).next ≠ (job false false false 1).parts ∧ (job true false false 2).next = 2 ∧
      (job false true false 2).edited = true ∧ (job true false false 2).ofActive = true ∧
      { run.cal with designation := some 10 }.designation = some (job true false false 2).sector ∧
      { run.cal with active := tou touSpecials }.active = (job true false false 2).content ∧
      run.cal.designation ≠ some (job true false false 2).sector ∧
      (job false false true 1).failed = true) ∧
    ({ run.hst with engine := .erase 4 }.engine = .erase 4 ∧ (4 ≤ 4 ∧ 9 < 10) ∧ (3 < 4 ∧ 10 ≤ 10) ∧
      (0x8000 : BitVec 16) ≠ 0 ∧ (∀ i : Fin 4, i.val ∈ [1, 2, 3] ++ [0]) ∧ (∀ i : Fin 6, 4 + i.val ∈ [5, 6, 7, 8, 9] ++ [4]) ∧
      ¬∀ i : Fin 4, i.val ∈ [] ++ [0]) ∧
    (suspendDue (withHst fun h => { h with engine := .erase 11, reads := [(.ppt, 1, 64)] }) = true ∧
      suspendDue (withHst fun h => { h with engine := .erase 11 }) = false) := by decide +kernel

theorem witness_PartsAndErases_none : ∀ x, run.hst.engine ≠ .erase x := by intros; exact Engine.noConfusion

theorem witness_ArchiveRequests :
    let one := withHst fun h => { h with index := [(1, 64)], queue := [{ entry 65 0 with snap := { snap with number := 2 } }] }
    serves run [(.ppt, .readSnapshot (.number 0)), (.ppt, .readSnapshot (.offset 96)),
      (.ppt, .readSnapshot (.offset 95)), (.upt, .lockArchive (.list [4, 9])), (.upt, .unlockArchive (.list [3])),
      (.upt, .lockArchive (.list [])), (.upt, .unlockArchive .all)] ∧
    (run.hst.lookup (.number 1) = none ∧ (95 : Nat) < 96 ∧ 6 < [4, 5, 6, 7, 8, 9, 9].length) ∧
    (one.hst.lookup (.number 2) = some (2, .queue { snap with number := 2 }) ∧
      one.hst.lookup (.number 1) = some (1, .slot 64) ∧ one.hst.lookup (.offset 1) = some (1, .slot 64) ∧
      one.hst.lookup (.offset 0) = some (2, .queue { snap with number := 2 }) ∧ one.hst.lookup (.offset 2) = none) ∧
    (Store.at (Store.put [] 64 (.snapshot snap)) 64 = some (.snapshot snap) ∧
      { run.hst with engine := .read (.port .upt 1) 64 }.engine = .read (.port .upt 1) 64) := by decide +kernel

theorem witness_ArchiveRequests_none : ∀ who k, run.hst.engine ≠ .read who k := by intros; exact Engine.noConfusion

/-! ### Witnesses: supply and recovery -/

theorem witness_SupplyEvents :
    let warned (u : Supply) : State := { inSupply u with sup := { (inSupply u).sup with mainsWarn := true } }
    (run.sup.powered = true ∧ run.sup.mainsWarn = false ∧ run.sup.supply = .run ∧
      (warned .down).sup.mainsWarn = true ∧ (warned .down).sup.supply = .down ∧
      (inSupply .down).sup.supply = .down ∧ (inSupply .warning).sup.supply = .warning) ∧
    ((inSupply .down).sup.debounce = none ∧
      { (inSupply .down).sup with debounce := some 500 }.debounce = some 500) ∧
    ((inSupply .warning).hst.queue = [] ∧ (inSupply .warning).hst.ckptReq = none ∧
      (inSupply .warning).hst.ckptRetry = none ∧ (inSupply .warning).hst.engine = .idle ∧
      (inSupply .warning).hst.reads = [] ∧ (warned .warning).sup.mainsWarn = true ∧
      { (inSupply .warning).sup with restarting := true }.restarting = true) ∧
    (capExpiryDue run = false ∧ capExpiryDue { at' 700000000 with
      xcc := { run.xcc with cfg := { run.xcc.cfg with util := some (record 1 1 (some 700000000)) } } } = true) := by
  decide +kernel

/-- A store whose ring holds one valid checkpoint, and one whose log holds one snapshot. -/
def ringStore : Store := [(0, .half 0 (ckpt 16)), (1, .half 1 (ckpt 16))]

theorem witness_Recovery :
    (State.reset.sup.supply = .starting ∧ State.reset.sup.stage = .ring ∧ run.sup.supply ≠ .starting) ∧
    (selectNewest (ringCheckpoints ringStore) = some (0, ckpt 16) ∧ selectNewest (ringCheckpoints []) = none ∧
      ringUsed [] = false ∧ ringUsed [(0, .junk)] = true ∧
      selectNewest (ringCheckpoints [(0, .junk)]) = none) ∧
    (let h := ({ run.hst with store := [(64, .snapshot snap)] } : Hst).scanLog
     h.newerSnapshots 1 = [snap] ∧ run.hst.scanLog.newerSnapshots 1 = [] ∧ h.newestNumber < 3 - 1) ∧
    (¬(∃ k, k < 64 ∧ Store.at ([] : Store) k ≠ none) ∧ Store.at [(0, SlotContent.junk)] 0 ≠ none) ∧
    (Store.sectorBlank [(0, .junk)] 0 = false ∧ Store.sectorBlank [(0, .junk)] 1 = true ∧
      ∀ x : Fin 4, Store.sectorBlank [(0, .junk), (16, .junk), (32, .junk), (48, .junk)] x = false) ∧
    (State.reset.tim.valid = false ∧ Cause.powerFail.isIn (ckpt 16).causes = true ∧
      Cause.powerFail.isIn (ckpt 1).causes = false) := by decide +kernel

/-- A ring that can go on nowhere, and one that can; recovery's read in progress and none. -/
theorem witness_Recovery_ring :
    let full : Store := (List.range 8).map fun p => (2 * p, .junk)
    let h : Hst := { State.reset.hst with store := full, retired := [1, 2, 3] }
    (h.ckptFailed = false ∧ h.nextRing h.ckptSector = h.ckptSector ∧
      ∀ p : Fin 8, Store.at h.store (2 * p.val) ≠ none) ∧
    State.reset.hst.nextRing State.reset.hst.ckptSector ≠ State.reset.hst.ckptSector ∧
    readEnded State.reset.hst = { State.reset.hst with engine := .idle } ∧ readEnded run.hst = run.hst := by decide +kernel

/-- The newest checkpoint across the wrap of the sequence number, and a log read round from behind its write pointer. -/
theorem witness_RecoveryFindings :
    let old : Checkpoint := { ckpt 1 with seq := 4294967295 }
    let new : Checkpoint := { ckpt 1 with seq := 0 }
    let m : Store := [(0, .half 0 old), (1, .half 1 old), (2, .half 0 new), (3, .half 1 new)]
    let log : Store := [(64, .snapshot { snap with number := 4 }), (80, .snapshot { snap with number := 2 }),
      (159, .snapshot { snap with number := 3 })]
    let h : Hst := ({ run.hst with store := log } : Hst).scanLog
    (checkpointAt m 0 = some old ∧ checkpointAt m 1 = some new ∧ ((0 : Int) - 4294967295) % 4294967296 = 1) ∧
    selectNewest (ringCheckpoints m) = some (1, new) ∧
    (h.writePtr = 64 ∧ h.curLog = 4 ∧ h.index = [(2, 80), (3, 159), (4, 64)]) ∧
    (run.hst.scanLog.writePtr = 63 ∧ run.hst.scanLog.index = []) := by decide +kernel

theorem witness_Recovery_images :
    imageIn [(160, .part 1 1 (tou touSpecials))] 10 = some (tou touSpecials) ∧ imageIn [] 10 = none ∧
    (run.cal.designation = none ∧ { run.cal with designation := some 10 }.designation = some 10 ∧
      run.cal.persisted = false ∧ { run.cal with persisted := true }.persisted = true ∧ run.cal.passiveAt = 10) ∧
    (CapSettings.factory.ceff = none ∧ (capped .normal 0 none).xcc.cfg.ceff ≠ none ∧
      (capped .normal 0 none).xcc.cfg.fsEnable = true ∧ (withHealth .lost 0).frx.health = .lost) ∧
    (run.hst.checkpointPending = false ∧ { run.hst with ckptReq := some 32 }.checkpointPending = true) := by
  decide +kernel

/-! ### Witnesses: the ports -/

theorem witness_RequestChecks :
    let full : PortState := { PortState.reset with tx := .replicate 5 ⟨false, ⟨3, .busy, .empty⟩⟩ }
    ((Instr.closePeriod .ppt).request = some (.ppt, .closePeriod) ∧ run.sup.powered = true) ∧
    (refusal .ppt .closePeriod run = some (.denied, .empty) ∧
      refusal .upt .closePeriod State.reset = some (.state, .empty) ∧
      refusal .ppt .clearPremisesCap { run with premLock := true } = some (.locked, .empty) ∧
      refusal .upt (.setNettingMethod (some 2)) run = some (.range, .detail 0 0) ∧
      refusal .upt .closePeriod run = none) ∧
    ({ PortState.reset with buffer := some 31 }.buffer = some 31 ∧ PortState.reset.waitingOthers < 4 ∧
      full.waitingOthers = 4) := by decide +kernel

theorem witness_ReportRequests :
    Serves .ppt .readTime run ∧ Serves .ppt .readCaps run ∧ Serves .ppt .readUnits run ∧
    (State.reset.sup.powered = true ∧ (State.reset.port .ppt).buffer = none) ∧
    (Serves .ppt (.readCalendar 1 4 12) run ∧ 11 < 12 ∧ Serves .ppt (.readCalendar 1 4 11) run ∧
      run.cal.passive = none ∧ Serves .ppt (.readCalendar 0 5 0) run) := by decide +kernel

theorem witness_Views :
    let copy := registersNow run
    let viewing (v : View) : State := { run with ppt := { run.ppt with view := v } }
    Serves .ppt .freezeView run ∧ (Serves .ppt .readRegisters run ∧ (run.port .ppt).view = .none) ∧
    (Serves .ppt .readRegisters (viewing (.held copy 10000)) ∧
      ((viewing (.held copy 10000)).port .ppt).view = .held copy 10000) ∧
    (Serves .ppt .readRegisters (viewing (.expired copy 10000)) ∧
      ((viewing (.expired copy 10000)).port .ppt).view = .expired copy 10000) ∧
    Serves .ppt .releaseView run := by decide +kernel

theorem witness_PortAndMeterSettings :
    serves run [(.ppt, .readNotices), (.ppt, .setNoticeMask none), (.ppt, .setNoticeMask (some 2047)),
      (.ppt, .setNoticeMask (some 2048)), (.upt, .lockPremises), (.upt, .unlockPremises), (.upt, .restart),
      (.upt, .clearFrameLoss), (.upt, .setNettingMethod none), (.upt, .setNettingMethod (some Netting.phase.code))] ∧
    ((2047#16).toNat < 2048 ∧ 2048 ≤ (2048#16).toNat ∧ run.sup.restarting = false) ∧
    serves { run with sup := { run.sup with restarting := true } } [(.upt, .restart)] := by decide +kernel

/-- The frame of GET_STATUS, one cut in two, one with a stop bit missing, and one at the largest payload. -/
theorem witness_ReceiverFrames :
    let f : List RxChar := Request.frame .getStatus |>.map goodChar
    let begun : State := run.updPort .upt fun x => { x with rx := .collect (f.take 3) 0 }
    (run.sup.powered = true ∧ (run.port .upt).rx = .hunt ∧ (begun.port .upt).rx = .collect (f.take 3) 0 ∧
      f.take 3 ≠ [] ∧ f.drop 3 ≠ []) ∧
    (f.take 3 ++ f.drop 3 = f ∧
      f.map RxChar.byte = [0xC3#8] ++ leBytes 2 0 ++ [35#8] ++ [] ++ crcBytes [0xC3, 0, 0, 35]) ∧
    ((∀ c ∈ f, c.stopOk = true) ∧ ¬(∀ c ∈ f.set 4 ⟨0, false⟩, c.stopOk = true) ∧
      crcBytes ([0xC3#8] ++ leBytes 2 0 ++ [35#8] ++ []) ≠ [0, 0]) ∧
    ((List.replicate 480 (0 : Byte)).length ≤ 480 ∧ 480 < (225#8).toNat + 256 * (1#8).toNat ∧ 480 < (481#16).toNat) ∧
    ((goodChar 0xC2).byte ≠ 0xC3#8 ∧ (PortState.reset.rx ≠ .ignore 7)) := by decide +kernel

/-- Noise before a marker, a frame behind a frame's end, and characters behind an overlong length. -/
theorem witness_ReceiverFrames_rest :
    let f : List RxChar := Request.frame .getStatus |>.map goodChar
    let noise := [goodChar 5, goodChar 0xC2]
    let long : List RxChar := [goodChar 0xC3, goodChar 225, goodChar 1]
    let received (l : List RxChar) := receiveAll .upt l run
    (∀ c ∈ noise, c.byte ≠ 0xC3#8) ∧ received (noise ++ f) = received f ∧
    received (f ++ f) = receiveAll .upt f (takePayload .upt 35 [] run) ∧
    received (long ++ f) = badFrameTo .upt (.ignore run.tim.runMs) 0 run := by decide +kernel

theorem witness_PayloadTaken :
    let held : State := { run with premLock := true }
    (PortState.reset.buffer = none ∧ { PortState.reset with buffer := some 3 }.buffer = some 3) ∧
    (¬(1 ≤ 0 ∧ 0 ≤ 41) ∧ ¬(1 ≤ 42 ∧ 42 ≤ 41) ∧ (1 ≤ 41 ∧ 41 ≤ 41)) ∧
    (authority .ppt 1 = false ∧ authority .ppt 23 = true ∧ (inSupply .down).sup.supply ≠ .run ∧
      held.premLock = true) ∧
    (decodeRequest 34 [0] = none ∧ decodeRequest 34 [] = some .restart ∧ Request.fieldsOk .restart = true) := by
  decide +kernel

theorem witness_PortLinkEvents :
    let e (own : Bool) : TxEntry := ⟨own, ⟨3, .ok, .empty⟩⟩
    let x : PortState := { PortState.reset with rx := .collect [goodChar 0xC3] 0, tx := [e false, e true] }
    (x.rx = .collect [goodChar 0xC3] 0 ∧ x.tx = e false :: e true :: []) ∧ PortState.reset.tx = [] ∧
    { x with rx := .ignore 7, tx := [e true] }.rx = .ignore 7 ∧ { x with tx := [e true] }.tx = [e true] := by
  decide +kernel

theorem witness_PortLinkEvents_none :
    (∀ got t, (run.port .upt).rx ≠ .collect got t) ∧ ∀ t, (run.port .upt).rx ≠ .ignore t := by
  constructor <;> intros <;> exact RxState.noConfusion

/-- A request of every shape of field, at its widest, is well-formed. -/
theorem witness_RequestReadBack :
    ([.setOverrideMap (some (.replicate 4 ⟨255, 255⟩)), .setLocalOffset (some (-32768)),
      .passiveBands 255 255 (.replicate 68 ⟨.replicate 4 255, 65535, 255⟩),
      .passiveDay 255 (some (.replicate 159 ⟨65535, 255⟩)), .setUtilityCap 65535 65535 (some 4294967295),
      .setNoticeMask (some 65535), .lockArchive (.list (.replicate 254 255)), .lockArchive .all,
      .readSnapshot (.offset 4294967295)] : List Request).all Request.wf = true := by decide +kernel

theorem witness_FrameDoesItsRequest :
    (Instr.setUnitStandby .ppt 3 (some 255)).request = some (.ppt, .setUnitStandby 3 (some 255)) ∧
    (Instr.setUnitStandby .ppt 3 (some 255)).wf = true ∧ (run.port .ppt).rx = .hunt := by decide +kernel

/-! ### Witnesses: the invariants -/

/-- The invariants hold after reset and in a running state, and a step from there answers a next state. -/
theorem witness_Invariants :
    (State.reset.inv = true ∧ State.reset.curtOk = true ∧ State.reset.unitsOk = true ∧ State.reset.queueOk = true ∧
      State.reset.slotsOk = true ∧ State.reset.bandOk = true) ∧
    (run.inv = true ∧ run.curtOk = true ∧ run.unitsOk = true ∧ run.queueOk = true ∧ run.slotsOk = true ∧
      run.bandOk = true) := by decide +kernel

/-- Two pending snapshots of the open period's past in slots of their own, and a passive calendar committed for
activation; an unlocked sector under erase. -/
theorem witness_Invariants_bound :
    let number (n : Nat) (e : PendingSnap) : PendingSnap := { e with snap := { snap with number := n } }
    let two := { withHst fun h => { h with
      queue := [number 1 (entry 64 1), number 2 (entry 65 0)], writePtr := 65 } with reg := { run.reg with period := 3 } }
    let waits : State := { passive (tou touSpecials) with cal := { (passive (tou touSpecials)).cal with
      activation := some ⟨9000, 0⟩ } }
    let erasing := withHst fun h => ({ h with locks := .replicate 6 false } : Hst).beginErase 9
    two.slotsOk = true ∧ two.queueOk = true ∧ waits.bandOk = true ∧ waits.passiveCommitted = true ∧
      erasing.slotsOk = true ∧ erasing.hst.underErase 9 = true := by decide +kernel

theorem witness_Invariants_step : ∃ t, step run = .next t := ⟨_, rfl⟩

end Sys2Proof.Tests
end

section
/-! PROOFS. Phase frames and the Metrology Link (chapter 1), the state right after a reset, and the settings of the ports
and the meter. First what single operations do, each said once; then the statements. -/
namespace Sys2Proof.Machine
open Sys2Proof.Claim

/-! ### The commands of the Metrology Link and of the ports, with main supply present -/

theorem exec_phaseFrame (r : LinkRun) {s : State} (h : s.sup.powered = true) :
    exec (.phaseFrame r) s = .next (finish (collectRun r s)) :=
  congrArg Host.Outcome.next (command_powered _ h)

theorem exec_silence500 {s : State} (h : s.sup.powered = true) :
    exec .silence500 s = .next (finish (Machine.silence500 s)) :=
  congrArg Host.Outcome.next (command_powered _ h)

theorem exec_silence2000 {s : State} (h : s.sup.powered = true) :
    exec .silence2000 s = .next (finish (Machine.silence2000 s)) :=
  congrArg Host.Outcome.next (command_powered _ h)

/-- Two updates of one port are one update. -/
theorem updPort_updPort (p : Port) (f g : PortState → PortState) (s : State) :
    (s.updPort p f).updPort p g = s.updPort p fun x => g (f x) := by
  cases p <;> rfl

/-- A request that its port serves and whose owner answers at once: the answer is sent from the state the owner leaves
(R182, R184). -/
theorem command_served {p : Port} {q : Request} {n : Nat} {s u : State} {st : Status} {a : Answer} (h : Serves p q s)
    (code : Request.code q = n) (owner : serve p q (taken p n s) = (u, some (st, a))) :
    command (takeRequest p q) s = answered p n st a u := by
  subst code
  obtain ⟨powered, supply, free, auth, held, fields⟩ := h
  rw [command_takeRequest p q s powered supply free auth held fields, owner]
  rfl

/-! ### Runs of characters (R1, R2) -/

theorem FeStatus.ofCode_eq_none {n : Nat} (h : 2 < n) : FeStatus.ofCode n = none := by
  obtain ⟨k, rfl⟩ : ∃ k, n = k + 3 := ⟨n - 3, by omega⟩
  rfl

/-- The four reasons for a frame error (R2). -/
theorem parsePhaseFrame_eq_none {run : List RxChar}
    (h : run.length ≠ 11 ∨ (∃ c ∈ run, c.stopOk = false) ∨ crcOk (run.map RxChar.byte) = false ∨
      2 < ((run.map RxChar.byte).getD 8 0).toNat) : parsePhaseFrame run = none := by
  rcases h with length | ⟨c, mem, stop⟩ | crc | status
  · exact if_neg fun ok => length ok.1
  · refine if_neg fun ok => ?_
    have := List.all_eq_true.mp ok.2.1 c mem
    simp [stop] at this
  · exact if_neg fun ok => by simp [crc] at ok
  · simp only [parsePhaseFrame, FeStatus.ofCode_eq_none status, ite_self]

/-- The characters dropped beyond the twelfth make no difference: a run as long as that is a frame error either way. -/
theorem parsePhaseFrame_take (run : List RxChar) : parsePhaseFrame (run.take 12) = parsePhaseFrame run := by
  by_cases h : run.length ≤ 12
  · rw [List.take_of_length_le h]
  · rw [parsePhaseFrame_eq_none (.inl (by rw [List.length_take]; omega)),
      parsePhaseFrame_eq_none (.inl (by omega))]

/-- A run that goes on is kept. -/
theorem collectRun_open {r : LinkRun} (s : State) (h : r.ended = false) :
    collectRun r s = { s with frx := { s.frx with run := (s.frx.run ++ r.chars).take 12 } } := by
  simp [collectRun, h]

/-- An idle line with no run before it. -/
theorem collectRun_empty {r : LinkRun} {s : State} (h : s.frx.run ++ r.chars = []) : collectRun r s = s := by
  have empty : s.frx.run = [] := (List.append_eq_nil_iff.mp h).1
  simp only [collectRun, h, List.take_nil, List.isEmpty_nil, Bool.not_true, Bool.and_false, Bool.false_eq_true, if_false]
  rw [← empty]

/-- The end of a run. -/
theorem collectRun_ended {r : LinkRun} {s : State} (ended : r.ended = true) (h : s.frx.run ++ r.chars ≠ []) :
    collectRun r s = runEnded (s.frx.run ++ r.chars) { s with frx := { s.frx with run := [] } } := by
  have some_char : ((s.frx.run ++ r.chars).take 12).isEmpty = false := by
    simpa [List.isEmpty_eq_false_iff, List.take_eq_nil_iff] using h
  simp only [collectRun, ended, some_char, Bool.not_false, Bool.and_self, if_true, runEnded, parsePhaseFrame_take]

/-- A frame error is counted. -/
theorem runEnded_error {run : List RxChar} (s : State) (bad : parsePhaseFrame run = none) :
    runEnded run s = { s with frx := { s.frx with
      counters := { s.frx.counters with errors := satAdd s.frx.counters.errors 1 } } } := by
  rw [runEnded, bad]
  rfl

/-- A checked frame arrives. -/
theorem runEnded_checked {run : List RxChar} {f : PhaseFrame} (s : State) (parsed : parsePhaseFrame run = some f) :
    runEnded run s = arrival f s := by
  rw [runEnded, parsed]

/-! ### Frame health (R10 to R14) -/

/-- A change of health to any state but LOST. -/
theorem changeHealth_of_ne_lost {h : Health} (n : Nat) (s : State) (ne : h ≠ .lost) :
    changeHealth h n s =
      capHealth h (raise .frameHealth { s with frx := { s.frx with health := h, relock := n } }) := by
  have same : (h == Health.lost) = false := beq_false_of_ne ne
  simp [changeHealth, ne, same]

/-- The entry to LOST. -/
theorem changeHealth_lost (s : State) : changeHealth .lost 0 s = lost s := by
  simp [changeHealth, lost, setFlags, capHealth]

/-- An arrival changes nothing of the Frame Receiver but health, the relock count and the lost-seen flag. -/
theorem arrivalHealth_receiver (s : State) :
    (arrivalHealth s).frx.run = s.frx.run ∧ (arrivalHealth s).frx.lastSeq = s.frx.lastSeq ∧
    (arrivalHealth s).frx.lastArrival = s.frx.lastArrival ∧ (arrivalHealth s).frx.counters = s.frx.counters := by
  unfold arrivalHealth changeHealth
  dsimp only
  split_ifs <;> simp

/-- An arrival that leaves the health state as it is sets the relock count alone. -/
theorem arrivalHealth_stays {s : State} {n : Nat} (h : healthOnArrival s.frx.health s.frx.relock = (s.frx.health, n)) :
    arrivalHealth s = { s with frx := { s.frx with health := s.frx.health, relock := n } } := by
  simp [arrivalHealth, h]

/-- An arrival that changes the health state takes it anywhere but to LOST. -/
theorem arrivalHealth_changes {s : State} {h : Health} {n : Nat}
    (goes : healthOnArrival s.frx.health s.frx.relock = (h, n)) (ne : h ≠ s.frx.health) (notLost : h ≠ .lost) :
    arrivalHealth s =
      capHealth h (raise .frameHealth { s with frx := { s.frx with health := h, relock := n } }) := by
  rw [arrivalHealth, goes]
  exact (if_neg ne).trans (changeHealth_of_ne_lost n s notLost)

/-! ### An arrival (R3, R4, R8, R115) -/

/-- Outside RUN an arrival is counted as discarded. -/
theorem takeArrival_discarded (f : PhaseFrame) {s : State} (h : s.sup.supply ≠ .run) :
    takeArrival f s = { s with frx := { s.frx with counters :=
      { s.frx.counters with discarded := satAdd s.frx.counters.discarded 1 } } } :=
  if_neg h

/-- A duplicate is counted. -/
theorem takeArrival_duplicate {f : PhaseFrame} {s : State} (supply : s.sup.supply = .run)
    (dup : judgeSeq s.frx.lastSeq f.seq = .duplicate) :
    takeArrival f s = { s with frx := { s.frx with counters :=
      { s.frx.counters with dups := satAdd s.frx.counters.dups 1 } } } := by
  simp [takeArrival, supply, dup, updCounters]

/-- Any other frame in RUN is accepted. -/
theorem takeArrival_accepted {f : PhaseFrame} {s : State} {j : SeqJudge} (supply : s.sup.supply = .run)
    (judged : judgeSeq s.frx.lastSeq f.seq = j) (notDup : j ≠ .duplicate) :
    takeArrival f s = acceptFrame f j s := by
  rw [takeArrival, if_pos supply, judged]
  cases j with
  | duplicate => exact absurd rfl notDup
  | normal => rfl
  | missed n => rfl
  | resync => rfl

/-- An accepted frame sets its counters and flags and is booked, and its site sum goes to the cap control. -/
theorem acceptFrame_eq (f : PhaseFrame) (j : SeqJudge) (s : State) :
    acceptFrame f j s = capFrame f.siteSum (booked f j s) := by
  cases j <;> rfl

/-- The order of the health change and the frame matters where the arrival ends FAILSAFE in RUN (R115). -/
theorem orderMatters_iff (s : State) :
    orderMatters s = true ↔
      s.xcc.state = .failsafe ∧ s.sup.supply = .run ∧ (healthOnArrival s.frx.health s.frx.relock).1 = .locked := by
  simp [orderMatters, and_assoc]

/-- An arrival where the order does not matter: health first, then the frame. -/
theorem arrival_ordered (f : PhaseFrame) {s : State} (h : orderMatters s = false) :
    arrival f s =
      takeArrival f (arrivalHealth { s with frx := { s.frx with lastArrival := some s.tim.runMs } }) := by
  simp [arrival, eitherIf, h]

/-- An arrival where the order is free, one free value taken (log 5). -/
theorem arrival_free (f : PhaseFrame) {s : State} (h : orderMatters s = true) :
    let n : State := { s with frx := { s.frx with lastArrival := some s.tim.runMs }, draws := s.draws + 1 }
    arrival f s = takeArrival f (arrivalHealth n) ∨ arrival f s = arrivalHealth (takeArrival f n) := by
  simp only [arrival, eitherIf, h, if_true]
  exact either_cases _ _ _

/-- The end of a run that is a checked frame. -/
theorem collectRun_checked {r : LinkRun} {s : State} {f : PhaseFrame} (ended : r.ended = true)
    (parsed : parsePhaseFrame (s.frx.run ++ r.chars) = some f) :
    collectRun r s = arrival f { s with frx := { s.frx with run := [] } } := by
  have some_char : s.frx.run ++ r.chars ≠ [] := by
    intro h
    simp [h, parsePhaseFrame] at parsed
  rw [collectRun_ended ended some_char, runEnded_checked _ parsed]

/-! ### PHASE_FRAME -/

theorem frameErrorIsCounted : FrameErrorIsCounted := by
  intro r s powered
  refine ⟨fun goesOn => ?_, fun _ empty => ?_, fun ended some_char bad => ?_⟩
  · rw [exec_phaseFrame r powered, collectRun_open s goesOn]
  · rw [exec_phaseFrame r powered, collectRun_empty empty]
  · rw [exec_phaseFrame r powered, collectRun_ended ended some_char, runEnded_error _ (parsePhaseFrame_eq_none bad)]

theorem arrivalIsTaken : ArrivalIsTaken := by
  intro r f s powered ended parsed apart
  have ordered : orderMatters { s with frx := { s.frx with run := [] } } = false := by
    rw [← Bool.not_eq_true, orderMatters_iff]
    exact fun ⟨failsafe, supply, locked⟩ => apart failsafe supply locked
  have run_arrival : exec (.phaseFrame r) s = .next (finish (takeArrival f (arrivalHealth (noted s)))) := by
    rw [exec_phaseFrame r powered, collectRun_checked ended parsed, arrival_ordered f ordered]
  have supply_kept : (arrivalHealth (noted s)).sup = s.sup := by simp
  have lastSeq_kept : (arrivalHealth (noted s)).frx.lastSeq = s.frx.lastSeq := (arrivalHealth_receiver _).2.1
  rw [run_arrival]
  refine ⟨fun supply => ?_, fun supply dup => ?_, fun supply j judged notDup => ?_⟩
  · rw [takeArrival_discarded f (by rwa [supply_kept])]
  · rw [takeArrival_duplicate (by rwa [supply_kept]) (by rwa [lastSeq_kept])]
  · rw [takeArrival_accepted (by rwa [supply_kept]) (by rwa [lastSeq_kept]) notDup, acceptFrame_eq]

theorem failsafeEndOrderIsFree : FailsafeEndOrderIsFree := by
  intro r f s powered supply ended parsed failsafe locked
  have free : orderMatters { s with frx := { s.frx with run := [] } } = true :=
    (orderMatters_iff _).mpr ⟨failsafe, supply, locked⟩
  rw [exec_phaseFrame r powered, collectRun_checked ended parsed]
  rcases arrival_free f free with healthFirst | frameFirst
  · rw [healthFirst]
    exact .inl rfl
  · rw [frameFirst]
    exact .inr rfl

/-- Settles O9: what a run does to the receiver, then what an arrival does, in the order that holds or in either. -/
theorem phaseFrameTaken : Obligations.PhaseFrameTaken :=
  ⟨frameErrorIsCounted, arrivalIsTaken, failsafeEndOrderIsFree⟩

/-! ### The state right after a reset -/

/-- Both ports after a reset (R196). -/
theorem reset_port (p : Port) : State.reset.port p = .reset := by cases p <;> rfl

/-- Every unit after a reset (R141). -/
theorem reset_unit (i : Fin 4) : State.reset.ulc.units[i] = .reset := by
  simp [State.reset, State.afterReset, Ulc.reset]

/-- Settles O7: each block of the reset state is its after-reset or factory record. -/
theorem resetState : Obligations.ResetState := by
  unfold Obligations.ResetState
  refine ⟨⟨rfl, rfl, rfl, rfl, rfl, rfl⟩, ⟨rfl, rfl, rfl, rfl, rfl, rfl, rfl⟩, ⟨rfl, rfl, rfl, rfl, rfl, rfl, rfl⟩,
    ⟨rfl, rfl, rfl, rfl, rfl, rfl, rfl, rfl⟩, ⟨rfl, rfl, rfl, rfl, rfl, rfl, rfl, rfl, rfl, rfl, rfl⟩,
    ⟨rfl, rfl, rfl, rfl, rfl, rfl⟩, ⟨rfl, rfl, rfl, rfl⟩, ⟨rfl, rfl, rfl, rfl, rfl, rfl, rfl, rfl, rfl⟩,
    ⟨rfl, fun i => ?_⟩, fun p => ?_, rfl, rfl⟩
  · rw [reset_unit i]
    exact ⟨rfl, rfl, rfl, rfl⟩
  · rw [reset_port p]
    exact ⟨rfl, rfl, rfl, rfl, rfl, rfl⟩

/-! ### Silence (R11, R12) -/

/-- SILENCE_500MS without its occasion (log 3). -/
theorem silence500_absent {s : State} (notLocked : s.frx.health ≠ .locked)
    (notRelocking : s.frx.health ≠ .relocking) :
    Machine.silence500 s = s := by
  unfold Machine.silence500
  split
  · contradiction
  · contradiction
  · rfl

/-- SILENCE_2000MS without its occasion (log 3). -/
theorem silence2000_absent {s : State} (notNoSignal : s.frx.health ≠ .noSignal) (notGap : s.frx.health ≠ .gap) :
    Machine.silence2000 s = s := by
  unfold Machine.silence2000
  split
  · contradiction
  · contradiction
  · rfl

/-- Settles O10, by the health state in which the silence finds the receiver. -/
theorem silences : Obligations.Silences := by
  intro s powered
  rw [exec_silence500 powered, exec_silence2000 powered]
  refine ⟨fun h => ?_, fun h => ?_, fun notLocked notRelocking => ?_, fun h => ?_, fun notNoSignal notGap => ?_⟩
  · have step : Machine.silence500 s = changeHealth .gap 0 (silent 500 s) := by rw [Machine.silence500, h]; rfl
    rw [step, changeHealth_of_ne_lost 0 _ (by decide)]
    rfl
  · have step : Machine.silence500 s = changeHealth .lost 0 (silent 500 s) := by rw [Machine.silence500, h]; rfl
    rw [step, changeHealth_lost]
  · rw [silence500_absent notLocked notRelocking]
  · have step : Machine.silence2000 s = changeHealth .lost 0 (silent 2000 s) := by
      rcases h with h | h <;> rw [Machine.silence2000, h] <;> rfl
    rw [step, changeHealth_lost]
  · rw [silence2000_absent notNoSignal notGap]

/-! ### The tables of the Frame Receiver (R4, R6, R11, R12) -/

theorem sequenceJudgement : SequenceJudgement := by
  intro last seq d
  have diff : (seq - last).toNat = d := by
    rw [BitVec.toNat_sub]
    have := last.isLt
    have := seq.isLt
    omega
  have judged : judgeSeq (some last) seq =
      if d = 0 then .duplicate else if d = 1 then .normal else if d ≤ 8 then .missed (d - 1) else .resync := by
    rw [← diff]
    rfl
  rw [judged]
  refine ⟨rfl, fun h => ?_, fun h => ?_, fun h => ?_, fun h => ?_⟩
  · rw [if_pos h]
  · rw [if_neg (by omega), if_pos h]
  · rw [if_neg (by omega), if_neg (by omega), if_pos h.2]
  · rw [if_neg (by omega), if_neg (by omega), if_neg (by omega)]

theorem effectiveValues : EffectiveValues := by
  intro p
  refine ⟨⟨rfl, rfl⟩, fun inside => ?_, fun below => ?_, fun above => ?_⟩
  all_goals
    simp only [effective, isClamped, if_true, true_and]
    constructor <;> split_ifs <;> omega

theorem frameValues : FrameValues := fun _ => ⟨rfl, rfl, rfl, rfl, rfl⟩

theorem healthAtArrival : HealthAtArrival := by
  intro s into
  refine ⟨fun h => ?_, fun h => ?_, fun h => ?_, fun h notLast => ?_, fun h last => ?_⟩
  · have goes : healthOnArrival s.frx.health s.frx.relock = (s.frx.health, 0) := by rw [h]; rfl
    rw [arrivalHealth_stays goes, h]
  · have goes : healthOnArrival s.frx.health s.frx.relock = (.locked, 0) := by rcases h with h | h <;> rw [h] <;> rfl
    exact arrivalHealth_changes goes (by rcases h with h | h <;> rw [h] <;> decide) (by decide)
  · have goes : healthOnArrival s.frx.health s.frx.relock = (.relocking, 1) := by rw [h]; rfl
    exact arrivalHealth_changes goes (by rw [h]; decide) (by decide)
  · have goes : healthOnArrival s.frx.health s.frx.relock = (s.frx.health, s.frx.relock + 1) := by
      rw [h]
      exact if_neg (by omega)
    rw [arrivalHealth_stays goes, h]
  · have goes : healthOnArrival s.frx.health s.frx.relock = (.locked, 0) := by
      rw [h]
      exact if_pos (by omega)
    exact arrivalHealth_changes goes (by rw [h]; decide) (by decide)

/-- Settles O11: the three tables row by row, and frame health from where an arrival takes it. -/
theorem frameReceiverTables : Obligations.FrameReceiverTables :=
  ⟨sequenceJudgement, effectiveValues, frameValues, healthAtArrival⟩

/-! ### Notices, masks, the premises lock, RESTART, the lost-seen flag, the netting method -/

/-- A set of flags is not empty exactly while it has a member. -/
theorem bitVec_ne_zero_iff {n : Nat} (x : BitVec n) : x ≠ 0 ↔ ∃ i : Fin n, x.getLsbD i = true := by
  constructor
  · intro ne
    by_contra none
    refine ne (BitVec.eq_of_getLsbD_eq fun i lt => ?_)
    have := not_exists.mp none ⟨i, lt⟩
    simpa using this
  · rintro ⟨i, mem⟩ zero
    simp [zero] at mem

theorem attention : Attention := by
  refine ⟨fun n p s => by cases p <;> rfl, fun x => ?_⟩
  rw [PortState.attention, bne_iff_ne, bitVec_ne_zero_iff]
  simp

theorem portSettings : PortSettings := by
  intro p s
  refine ⟨fun h => ?_, fun h => ?_, fun m h => ⟨fun inRange => ?_, fun outOfRange => ?_⟩, fun h => ?_, fun h => ?_,
    fun h => ⟨fun first => ?_, fun again => ?_⟩, fun h => ?_, fun h => ?_, fun m h => ?_⟩
  all_goals refine congrArg Host.Outcome.next (command_served h rfl ?_)
  · show ownReadNotices p _ = _
    simp [ownReadNotices, okWith, updPort_updPort]
  · show ownSetNoticeMask p none _ = _
    simp [ownSetNoticeMask, okWith]
  · show ownSetNoticeMask p (some m) _ = _
    simp [ownSetNoticeMask, okWith, inRange, updPort_updPort]
  · show ownSetNoticeMask p (some m) _ = _
    rw [ownSetNoticeMask, if_neg (by omega)]
    rfl
  · rfl
  · rfl
  · show ownRestart _ = _
    simp [ownRestart, bare, first]
  · show ownRestart _ = _
    simp [ownRestart, bare, again]
  · show ownClearFrameLoss _ = _
    simp [ownClearFrameLoss, okWith]
  · show ownSetNettingMethod none _ = _
    simp [ownSetNettingMethod, okWith]
  · cases m <;> rfl

/-- Settles O50: what a raised notice does, then each request by its owner's answer. -/
theorem portAndMeterSettings : Obligations.PortAndMeterSettings := ⟨attention, portSettings⟩

end Sys2Proof.Machine
end

section
/-! PROOFS. The time base (chapter 3), the resets and the supply (chapter 9), and the reports of the ports: dates, the
steps and seconds of the clock with the orders their owners may take them in, what acts without main supply, and what
the reading requests answer. -/
namespace Sys2Proof.Machine
open Sys2Proof.Claim

/-! ### Free orders (log 5) and the wall time before an event -/

/-- Two occurrences whose order is fixed. -/
theorem eitherIf_false {m : Bool} (f g : State → State) (s : State) (h : m = false) : eitherIf m f g s = g (f s) := by
  simp [eitherIf, h]

/-- Two occurrences in free order: one order or the other, one free value taken. -/
theorem eitherIf_true {m : Bool} (f g : State → State) (s : State) (h : m = true) :
    eitherIf m f g s = g (f { s with draws := s.draws + 1 }) ∨
      eitherIf m f g s = f (g { s with draws := s.draws + 1 }) := by
  rw [eitherIf, if_pos h]
  exact either_cases f g s

/-- Courses in free order come out in some order. -/
theorem anyOrder_someOrder (l : List (State → State)) (s : State) : SomeOrder l s (anyOrder l s) :=
  anyOrder_cases l s

theorem calendarMeetsClose_iff (s : State) : calendarMeetsClose s = true ↔ closeMayActivate s := by
  cases owed : s.set.owed <;> simp [calendarMeetsClose, closeMayActivate, State.activationOwed, owed]

/-- The wall time before an event, where it is VALID. -/
theorem earlierLocal_wall (t : Tim) :
    earlierLocal (some t.wall) t.offset = if t.valid then some t.localSec else none :=
  rfl

/-! ### Dates, day numbers and local time (R39, R45) -/

/-- Days of an era, counted from its first 1 March, that lie before its year `y`. -/
def eraYears (y : Nat) : Nat := y * 365 + y / 4 - y / 100

/-- The year of the era that `dateOf` finds for a day of it. -/
def yearOfEra (doe : Nat) : Nat := (doe - doe / 1460 + doe / 36524 - doe / 146096) / 365

theorem yearOfEra_mono {a b : Nat} (h : a ≤ b) : yearOfEra a ≤ yearOfEra b := by
  refine Nat.div_le_div_right ?_
  omega

theorem yearOfEra_first {y : Nat} (h : y < 400) : yearOfEra (eraYears y) = y := by
  have fours : eraYears y / 1460 = y / 4 := by rw [eraYears]; omega
  have hundreds : eraYears y / 36524 = y / 100 := by rw [eraYears]; omega
  have short : eraYears y / 146096 = 0 := by rw [eraYears]; omega
  rw [yearOfEra, fours, hundreds, short, eraYears]
  omega

theorem yearOfEra_last {y : Nat} (h : y < 400) : yearOfEra (eraYears (y + 1) - 1) = y := by
  have fours : (eraYears (y + 1) - 1) / 1460 = (y + 1) / 4 := by rw [eraYears]; omega
  have hundreds : (eraYears (y + 1) - 1) / 36524 = y / 100 := by rw [eraYears]; omega
  have short : (eraYears (y + 1) - 1) / 146096 = 0 := by rw [eraYears]; omega
  rw [yearOfEra, fours, hundreds, short, eraYears]
  omega

/-- The length of the year that begins on the 1 March of `y`: it ends with the February of `y + 1`. -/
def marchYearLength (y : Nat) : Nat := 337 + daysInMonth (y + 1) 2

theorem isLeap_iff (y : Nat) : isLeap y = true ↔ y % 4 = 0 ∧ (y % 100 ≠ 0 ∨ y % 400 = 0) := by
  simp [isLeap]

theorem marchYearLength_eq (y : Nat) :
    marchYearLength y = if (y + 1) % 4 = 0 ∧ ((y + 1) % 100 ≠ 0 ∨ (y + 1) % 400 = 0) then 366 else 365 := by
  simp only [marchYearLength, daysInMonth, isLeap_iff, if_true]
  split_ifs <;> rfl

theorem marchYearLength_le (y : Nat) : marchYearLength y ≤ 366 := by
  rw [marchYearLength_eq]
  split_ifs <;> omega

/-- Where a year of an era ends: where the next begins, the last year with the era. -/
theorem eraYears_add_length (era : Nat) {yoe : Nat} (h : yoe < 400) :
    eraYears yoe + marchYearLength (yoe + era * 400) = if yoe = 399 then 146097 else eraYears (yoe + 1) := by
  rw [marchYearLength_eq, eraYears, eraYears]
  split_ifs <;> omega

/-- A day of year `yoe` of an era is found in that year. -/
theorem yearOfEra_eq (era : Nat) {yoe doy : Nat} (h : yoe < 400) (inYear : doy < marchYearLength (yoe + era * 400)) :
    yearOfEra (eraYears yoe + doy) = yoe := by
  have ends := eraYears_add_length era h
  have from_first : yoe ≤ yearOfEra (eraYears yoe + doy) :=
    (yearOfEra_first h).ge.trans (yearOfEra_mono (Nat.le_add_right _ _))
  refine le_antisymm ?_ from_first
  split_ifs at ends with last
  · calc yearOfEra (eraYears yoe + doy) ≤ yearOfEra 146096 := yearOfEra_mono (by omega)
      _ = yoe := by rw [last]; rfl
  · calc yearOfEra (eraYears yoe + doy) ≤ yearOfEra (eraYears (yoe + 1) - 1) := yearOfEra_mono (by omega)
      _ = yoe := yearOfEra_last h

/-- Every day of an era is a day of one of its years. -/
theorem exists_yearOfEra (era : Nat) {doe : Nat} (h : doe < 146097) :
    ∃ yoe doy, yoe < 400 ∧ doy < marchYearLength (yoe + era * 400) ∧ doe = eraYears yoe + doy := by
  have first : eraYears 0 ≤ doe := Nat.zero_le _
  let yoe := Nat.findGreatest (fun y => eraYears y ≤ doe) 399
  have begun : eraYears yoe ≤ doe := Nat.findGreatest_spec (P := fun y => eraYears y ≤ doe) (Nat.zero_le 399) first
  have bound : yoe ≤ 399 := Nat.findGreatest_le 399
  have ends := eraYears_add_length era (Nat.lt_succ_of_le bound)
  refine ⟨yoe, doe - eraYears yoe, by omega, ?_, by omega⟩
  split_ifs at ends with last
  · omega
  · have := Nat.findGreatest_is_greatest (P := fun y => eraYears y ≤ doe) (Nat.lt_succ_self yoe) (by omega)
    simp only [Nat.succ_eq_add_one, not_le] at this
    omega

/-- The month of a day of a year that begins on 1 March. -/
def marchMonth (doy : Nat) : Nat :=
  if (5 * doy + 2) / 153 < 10 then (5 * doy + 2) / 153 + 3 else (5 * doy + 2) / 153 - 9

/-- The date of a day of the year that begins on the 1 March of `y`. -/
def marchDate (y doy : Nat) : Date :=
  { year := y + if marchMonth doy ≤ 2 then 1 else 0
    month := marchMonth doy
    day := doy - (153 * ((5 * doy + 2) / 153) + 2) / 5 + 1 }

/-- The day of such a year that a month and day name. -/
def marchDay (m d : Nat) : Nat := (153 * ((m + 9) % 12) + 2) / 5 + d - 1

/-- The year on whose 1 March the year begins that a month lies in. -/
def marchYear (y m : Nat) : Nat := if m ≤ 2 then y - 1 else y

theorem dayNumber_eq (y m d : Nat) :
    dayNumber y m d =
      marchYear y m / 400 * 146097 + (eraYears (marchYear y m % 400) + marchDay m d) - epochShift :=
  rfl

theorem dateOf_eq_marchDate (n : Nat) :
    let doe := (n + epochShift) % 146097
    let yoe := yearOfEra doe
    dateOf n = marchDate (yoe + (n + epochShift) / 146097 * 400) (doe - (365 * yoe + yoe / 4 - yoe / 100)) :=
  rfl

/-- The date of a day given by its era, year of the era and day of the year. -/
theorem dateOf_eq {n era yoe doy : Nat} (h : yoe < 400) (inYear : doy < marchYearLength (yoe + era * 400))
    (count : n + epochShift = era * 146097 + (eraYears yoe + doy)) :
    dateOf n = marchDate (yoe + era * 400) doy := by
  have ends := eraYears_add_length era h
  have inEra : eraYears yoe + doy < 146097 := by
    have : eraYears (yoe + 1) ≤ 146096 := by rw [eraYears]; omega
    split_ifs at ends <;> omega
  have era_eq : (n + epochShift) / 146097 = era := by omega
  have doe_eq : (n + epochShift) % 146097 = eraYears yoe + doy := by omega
  have doy_eq : eraYears yoe + doy - (365 * yoe + yoe / 4 - yoe / 100) = doy := by rw [eraYears]; omega
  rw [dateOf_eq_marchDate, era_eq, doe_eq, yearOfEra_eq era h inYear, doy_eq]

theorem validDate_iff (y m d : Nat) : validDate y m d = true ↔ 1 ≤ d ∧ d ≤ daysInMonth y m := by
  simp [validDate]

theorem daysInMonth_february (y : Nat) : daysInMonth y 2 = 28 ∨ daysInMonth y 2 = 29 := by
  unfold daysInMonth
  rw [if_pos rfl]
  split_ifs <;> simp

/-- The months have their lengths, and there are no others. -/
theorem daysInMonth_cases {y m : Nat} (h : 0 < daysInMonth y m) :
    m = 2 ∨ (m = 4 ∨ m = 6 ∨ m = 9 ∨ m = 11) ∧ daysInMonth y m = 30 ∨
      (m = 1 ∨ m = 3 ∨ m = 5 ∨ m = 7 ∨ m = 8 ∨ m = 10 ∨ m = 12) ∧ daysInMonth y m = 31 := by
  unfold daysInMonth at h ⊢
  split_ifs at h ⊢ <;> omega

/-- The place of a month in the year from 1 March, by a date of it, and the end of that year in its February. -/
theorem marchDay_month {y m d : Nat} (first : 1 ≤ d) (last : d ≤ daysInMonth y m) :
    1 ≤ m ∧ m ≤ 12 ∧ (5 * marchDay m d + 2) / 153 = (m + 9) % 12 ∧
      (m ≠ 2 → marchDay m d < 337) ∧ (m = 2 → marchDay m d < 337 + daysInMonth y 2) := by
  have february := daysInMonth_february y
  unfold marchDay
  rcases daysInMonth_cases (y := y) (m := m) (by omega) with rfl | ⟨month, days⟩ | ⟨month, days⟩
  · omega
  · rcases month with rfl | rfl | rfl | rfl <;> omega
  · rcases month with rfl | rfl | rfl | rfl | rfl | rfl | rfl <;> omega

/-- A date that exists is a day of its year from 1 March, and that day's date. -/
theorem marchDate_marchDay {y m d : Nat} (pos : 0 < y) (valid : validDate y m d = true) :
    marchDay m d < marchYearLength (marchYear y m) ∧ marchDate (marchYear y m) (marchDay m d) = ⟨y, m, d⟩ := by
  obtain ⟨first, last⟩ := (validDate_iff y m d).mp valid
  obtain ⟨low, high, place, before, february⟩ := marchDay_month first last
  have month : marchMonth (marchDay m d) = m := by
    rw [marchMonth, place]
    split_ifs <;> omega
  refine ⟨?_, ?_⟩
  · by_cases two : m = 2
    · have year : marchYear y m + 1 = y := by rw [marchYear]; split_ifs <;> omega
      rw [marchYearLength, year]
      exact february two
    · exact (before two).trans_le (Nat.le_add_right _ _)
  · rw [marchDate, month, place]
    congr 1
    · rw [marchYear]
      split_ifs <;> omega
    · rw [marchDay]
      omega

/-- Every day of a year from 1 March is the day of a date that exists. -/
theorem marchDate_spec {y doy : Nat} (inYear : doy < marchYearLength y) :
    let d := marchDate y doy
    validDate d.year d.month d.day = true ∧ marchYear d.year d.month = y ∧ marchDay d.month d.day = doy := by
  have february := daysInMonth_february (y + 1)
  obtain ⟨mp, place⟩ : ∃ mp, (5 * doy + 2) / 153 = mp := ⟨_, rfl⟩
  rw [marchYearLength] at inYear
  have months : mp < 12 := by omega
  simp only [validDate_iff, marchDate, marchMonth, place, marchYear, marchDay]
  interval_cases mp
  all_goals
    simp [daysInMonth] at inYear ⊢
    omega

theorem localTime : LocalTime := by
  intro t sum
  have seconds : t.localSec = sum.toNat := rfl
  refine ⟨rfl, fun h => ?_, fun h => ?_, ?_, ?_, ?_⟩
  · rw [seconds, Int.toNat_of_nonneg h]
  · rw [seconds, Int.toNat_of_nonpos h.le]
  · rw [Tim.localDay]
    omega
  · rw [Tim.localDay]
    omega
  · rw [Tim.localMinute, Tim.localDay, Nat.mod_eq_sub]

/-- The epoch, 2000-01-01, is day 306 of the last year of the fifth era. -/
theorem epochShift_le_iff {era yoe doy : Nat} (h : yoe < 400) (inYear : doy < marchYearLength (yoe + era * 400)) :
    epochShift ≤ era * 146097 + (eraYears yoe + doy) ↔
      2000 ≤ yoe + era * 400 ∨ yoe + era * 400 = 1999 ∧ 306 ≤ doy := by
  have length := marchYearLength_le (yoe + era * 400)
  unfold epochShift eraYears
  omega

/-- January and February are the days from 306 on. -/
theorem marchMonth_le_two_iff {doy : Nat} (h : doy < 366) : marchMonth doy ≤ 2 ↔ 306 ≤ doy := by
  rw [marchMonth]
  split_ifs <;> omega

/-- A day's date exists, lies in 2000 or later, and numbers back to the day. -/
theorem dateOf_spec (n : Nat) :
    2000 ≤ (dateOf n).year ∧ validDate (dateOf n).year (dateOf n).month (dateOf n).day = true ∧
      dayNumber (dateOf n).year (dateOf n).month (dateOf n).day = n := by
  obtain ⟨yoe, doy, year, inYear, doe⟩ :=
    exists_yearOfEra ((n + epochShift) / 146097) (Nat.mod_lt (n + epochShift) (by decide))
  obtain ⟨era, era_eq⟩ : ∃ era, (n + epochShift) / 146097 = era := ⟨_, rfl⟩
  rw [era_eq] at inYear
  have count : n + epochShift = era * 146097 + (eraYears yoe + doy) := by omega
  obtain ⟨valid, backYear, backDay⟩ := marchDate_spec inYear
  rw [dateOf_eq year inYear count]
  refine ⟨?_, valid, ?_⟩
  · rcases (epochShift_le_iff year inYear).mp (by omega) with later | ⟨last, winter⟩
    · exact later.trans (Nat.le_add_right _ _)
    · have length := marchYearLength_le (yoe + era * 400)
      rw [marchDate, if_pos ((marchMonth_le_two_iff (by omega)).mpr winter), last]
  · have backEra : (yoe + era * 400) / 400 = era := by omega
    have backYoe : (yoe + era * 400) % 400 = yoe := by omega
    rw [dayNumber_eq, backYear, backDay, backEra, backYoe, ← count]
    exact Nat.add_sub_cancel n epochShift

/-- A date from 2000 on is the date of its number. -/
theorem dateOf_dayNumber {y m d : Nat} (h : 2000 ≤ y) (valid : validDate y m d = true) :
    dateOf (dayNumber y m d) = ⟨y, m, d⟩ := by
  obtain ⟨inYear, back⟩ := marchDate_marchDay (by omega) valid
  have split : marchYear y m % 400 + marchYear y m / 400 * 400 = marchYear y m := by omega
  rw [← split] at inYear back
  have year : marchYear y m % 400 < 400 := Nat.mod_lt _ (by decide)
  have reached : epochShift ≤ marchYear y m / 400 * 146097 + (eraYears (marchYear y m % 400) + marchDay m d) := by
    refine (epochShift_le_iff year inYear).mpr ?_
    rw [split, marchYear]
    obtain ⟨first, last⟩ := (validDate_iff y m d).mp valid
    obtain ⟨low, -⟩ := marchDay_month first last
    by_cases winter : m ≤ 2
    · rw [if_pos winter, marchDay]
      omega
    · rw [if_neg winter]
      exact .inl h
  rw [dateOf_eq year inYear (by rw [dayNumber_eq]; exact Nat.sub_add_cancel reached), back]

theorem datesAgree : DatesAgree := by
  refine ⟨dateOf_spec, fun y m d => dateOf_dayNumber, rfl, rfl, fun n => ?_⟩
  rw [weekdayOf, weekdayOf, Nat.add_right_comm n 1 5]
  exact Fin.ext (by simp [Fin.val_add])

/-- Settles O17: a day by its era, year of the era and day of the year. -/
theorem datesAndDayNumbers : Obligations.DatesAndDayNumbers := ⟨localTime, datesAgree⟩

/-! ### The billing date passed (R82) -/

/-- How many days back from `day`, of 31, the latest billing date lies. -/
def daysSinceBilling (billingDay day : Nat) : Option Nat :=
  (List.range 31).find? fun k => decide (k ≤ day) && isBillingDate billingDay (day - k)

theorem passedBilling_eq (billingDay earlier present : Nat) :
    passedBilling billingDay earlier present = (daysSinceBilling billingDay (present / 86400)).bind
      fun k => if earlier < 86400 * (present / 86400 - k) then some (present / 86400 - k) else none :=
  rfl

theorem daysSinceBilling_eq_some {billingDay day k : Nat} (h : daysSinceBilling billingDay day = some k) :
    k ≤ day ∧ isBillingDate billingDay (day - k) = true ∧
      ∀ e, isBillingDate billingDay e = true → e ≤ day → e ≤ day - k := by
  obtain ⟨hit, -, before⟩ := List.find?_range_eq_some.mp h
  obtain ⟨reaches, billing⟩ : k ≤ day ∧ isBillingDate billingDay (day - k) = true := by simpa using hit
  refine ⟨reaches, billing, fun e billingE past => ?_⟩
  by_contra later
  have missed := before (day - e) (by omega)
  simp [Nat.sub_sub_self past, billingE] at missed

theorem daysSinceBilling_eq_none {billingDay day e : Nat} (h : daysSinceBilling billingDay day = none)
    (billing : isBillingDate billingDay e = true) (past : e ≤ day) : e + 31 ≤ day := by
  by_contra recent
  have missed := List.find?_range_eq_none.mp h (day - e) (by omega)
  simp [Nat.sub_sub_self past, billing] at missed

theorem billingDatePassed : BillingDatePassed := by
  intro billingDay earlier present
  rw [passedBilling_eq]
  cases found : daysSinceBilling billingDay (present / 86400) with
  | none =>
    refine ⟨fun d h => by simp at h, fun _ e billing _ past => daysSinceBilling_eq_none found billing (by omega)⟩
  | some k =>
    obtain ⟨reaches, billing, latest⟩ := daysSinceBilling_eq_some found
    refine ⟨fun d h => ?_, fun h e billingE late past => ?_⟩
    · obtain ⟨late, rfl⟩ : earlier < 86400 * (present / 86400 - k) ∧ present / 86400 - k = d := by simpa using h
      exact ⟨billing, late, by omega, fun e billingE past => latest e billingE (by omega)⟩
    · have early : 86400 * (present / 86400 - k) ≤ earlier := by simpa using h
      have := latest e billingE (by omega)
      omega

/-! ### What a step or resume event finds due (R81, R82) -/

theorem alreadyClosed_eq_false_iff (s : State) (d : Nat) :
    alreadyClosed s d = false ↔ ∀ l, s.tim.lastClose = some l → l < d := by
  cases h : s.tim.lastClose <;> simp [alreadyClosed, h]

theorem alreadyOwed_eq_false_iff (s : State) (d : Nat) :
    alreadyOwed s d = false ↔ ∀ o, s.set.owed = some o → o.date ≠ some d := by
  cases h : s.set.owed <;> simp [alreadyOwed, h]

/-- The date found due: with the time VALID, the billing date passed, neither closed nor owed. -/
theorem stepDue_some_iff (e d : Nat) (s : State) :
    stepDue (some e) s = some d ↔ s.tim.valid = true ∧ passedBilling s.set.day e s.tim.localSec = some d ∧
      alreadyClosed s d = false ∧ alreadyOwed s d = false := by
  simp only [stepDue]
  cases s.tim.valid with
  | false => simp
  | true =>
    cases passedBilling s.set.day e s.tim.localSec with
    | none => simp
    | some x =>
      simp only [if_true, true_and, Option.some.injEq, Option.ite_none_right_eq_some, Bool.and_eq_true,
        Bool.not_eq_true']
      constructor
      · rintro ⟨free, rfl⟩
        exact ⟨rfl, free⟩
      · rintro ⟨rfl, free⟩
        exact ⟨free, rfl⟩

theorem stepDue_none (s : State) : stepDue none s = none := rfl

theorem stepRetries_resume (earlier : Option Nat) (s : State) : stepRetries true earlier s = true := rfl

theorem stepRetries_step_iff (e : Nat) (s : State) :
    stepRetries false (some e) s = true ↔ s.tim.valid = true ∧ e / 86400 < s.tim.localSec / 86400 := by
  simp [stepRetries, midnightPassed]

theorem stepJudgement : StepJudgement := by
  intro e s
  refine ⟨fun d => ?_, stepDue_none s, fun earlier => stepRetries_resume earlier s, rfl, stepRetries_step_iff e s⟩
  rw [stepDue_some_iff, alreadyClosed_eq_false_iff, alreadyOwed_eq_false_iff]

/-- A date found due prompts the retry too: its midnight was passed. -/
theorem stepRetries_of_stepDue {resume : Bool} {earlier : Option Nat} {s : State} {d : Nat}
    (due : stepDue earlier s = some d) : stepRetries resume earlier s = true := by
  cases resume with
  | true => rfl
  | false =>
    cases earlier with
    | none => simp [stepDue_none] at due
    | some e =>
      obtain ⟨valid, passed, -⟩ := (stepDue_some_iff e d s).mp due
      obtain ⟨-, late, past, -⟩ := (billingDatePassed _ _ _).1 d passed
      exact (stepRetries_step_iff e s).mpr ⟨valid, by omega⟩

/-- A date found due is not closed yet. -/
theorem alreadyClosed_of_stepDue {earlier : Option Nat} {s : State} {d : Nat} (due : stepDue earlier s = some d) :
    alreadyClosed s d = false := by
  cases earlier with
  | none => simp [stepDue_none] at due
  | some e =>
    obtain ⟨-, -, notClosed, -⟩ := (stepDue_some_iff e d s).mp due
    exact notClosed

/-! ### A step or resume event (R48 to R50, R82, R88, R89) -/

theorem stepTrigger_none (s : State) : stepTrigger none s = s := rfl

/-- The trigger for a date found due, made unless a retry has closed that date. -/
theorem stepTrigger_some (d : Nat) (s : State) : stepTrigger (some d) s = triggerFor d s := by
  rw [stepTrigger, triggerFor]
  cases closed : s.tim.lastClose with
  | none => simp [alreadyClosed, closed]
  | some l => simp [alreadyClosed, closed]

theorem stepTrigger_eq (due : Option Nat) :
    stepTrigger due = fun u => match due with
      | some d => triggerFor d u
      | none => u := by
  funext u
  cases due with
  | none => rfl
  | some d => exact stepTrigger_some d u

theorem stepTrigger_of_not_closed {d : Nat} {s : State} (h : alreadyClosed s d = false) :
    stepTrigger (some d) s = trigger .scheduled (some d) s := by
  simp [stepTrigger, h]

theorem settleStep_takes (resume : Bool) (earlier : Option Nat) (s : State) :
    SettlementTakes resume earlier s (settleStep resume earlier s) := by
  have apart {due : Option Nat} (h : stepDue earlier s = due) (no : s.set.owed = none ∨ due = none) :
      triggerMeetsRetry resume earlier s = false := by
    rcases no with no | no <;> simp [triggerMeetsRetry, h, no]
  refine ⟨fun due retries => ?_, fun due retries => ?_, fun d due => ⟨stepRetries_of_stepDue due, fun noneOwed => ?_,
    fun owed => ⟨s.draws + 1, ?_⟩⟩⟩
  · simp [settleStep, eitherIf_false _ _ _ (apart due (.inr rfl)), due, retries, stepTrigger_none]
  · simp [settleStep, eitherIf_false _ _ _ (apart due (.inr rfl)), due, retries, stepTrigger_none]
  · simp [settleStep, eitherIf_false _ _ _ (apart due (.inl noneOwed)), due, stepRetries_of_stepDue due,
      stepTrigger_of_not_closed (alreadyClosed_of_stepDue due)]
  · have meets : triggerMeetsRetry resume earlier s = true := by
      simp [triggerMeetsRetry, due, stepRetries_of_stepDue due, Option.isSome_iff_ne_none, owed]
    have open_date : alreadyClosed { s with draws := s.draws + 1 } d = false := alreadyClosed_of_stepDue due
    rw [settleStep, due, stepRetries_of_stepDue due]
    rcases eitherIf_true (stepTrigger (some d)) (fun s => if true = true then retryOwed s else s) s meets with h | h
    · exact .inl (h.trans (congrArg retryOwed (stepTrigger_of_not_closed open_date)))
    · exact .inr (h.trans (stepTrigger_some d _))

theorem stepEvent_takes : StepEvent := by
  intro resume earlier s
  refine ⟨fun apart => ?_, fun meets => ?_⟩
  · rw [← calendarMeetsClose_iff] at apart
    rw [stepEvent, takeStep, if_neg apart]
    exact settleStep_takes resume earlier _
  · rw [stepEvent, takeStep, if_pos ((calendarMeetsClose_iff _).mpr meets)]
    simp only [stepTrigger_eq]
    exact anyOrder_someOrder _ _

/-- Settles O18: the event's order, its judgement, and the search back for the billing date. -/
theorem stepEvents : Obligations.StepEvents := ⟨stepEvent_takes, stepJudgement, billingDatePassed⟩

/-! ### The cap records at a wall time (R105, R106) -/

/-- A change of the cap records, by what becomes of Ceff (R106). -/
theorem setCapRecords_eq (cfg : CapSettings) (s : State) : setCapRecords (fun _ => cfg) s = recordsSet cfg s := by
  rw [setCapRecords, capRecordsChanged, recordsSet]
  cases before : s.xcc.cfg.ceff with
  | none =>
    cases after : cfg.ceff with
    | none => simp [after]
    | some c =>
      by_cases lost : cfg.fsEnable = true ∧ s.frx.health = .lost
      · simp [lost, after, changeCurt, Xcc.toFailsafe]
      · simp [lost, after, changeCurt, Xcc.toNormal]
  | some c =>
    cases after : cfg.ceff with
    | none => simp [after, changeCurt, Xcc.toUncapped]
    | some d => simp [after]

theorem expired_iff (utc : Nat) (r : CapRecord) : r.expired utc = true ↔ ∃ e, r.expiry = some e ∧ e ≤ utc := by
  cases h : r.expiry <;> simp [CapRecord.expired, h]

/-- A record is removed exactly where its expiry has come. -/
theorem keepUnexpired_eq_self_iff (utc : Nat) (r : Option CapRecord) :
    keepUnexpired utc r = r ↔ ∀ x, r = some x → x.expired utc = false := by
  cases r with
  | none => simp [keepUnexpired]
  | some x => cases h : x.expired utc <;> simp [keepUnexpired, h]

/-- The records that stand when the count has reached `utc`. -/
def CapSettings.unexpired (utc : Nat) (c : CapSettings) : CapSettings :=
  { c with util := keepUnexpired utc c.util, prem := keepUnexpired utc c.prem }

/-- A record's expiry has come at UTC count `utc`. -/
def CapSettings.Due (utc : Nat) (c : CapSettings) : Prop :=
  ∃ r e, (c.util = some r ∨ c.prem = some r) ∧ r.expiry = some e ∧ e ≤ utc

theorem CapSettings.due_iff (utc : Nat) (c : CapSettings) :
    c.Due utc ↔ ∃ r, (c.util = some r ∨ c.prem = some r) ∧ r.expired utc = true := by
  simp only [CapSettings.Due, expired_iff, exists_and_left]

theorem capExpiryDue_iff (s : State) : capExpiryDue s = true ↔ s.tim.valid = true ∧ s.xcc.cfg.Due s.tim.utc := by
  rw [CapSettings.due_iff]
  cases util : s.xcc.cfg.util <;> cases prem : s.xcc.cfg.prem <;>
    simp [capExpiryDue, util, prem, or_and_right, exists_or]

/-- All the records stand exactly while none is due. -/
theorem CapSettings.unexpired_eq_self_iff (utc : Nat) (c : CapSettings) : c.unexpired utc = c ↔ ¬c.Due utc := by
  have fields : c.unexpired utc = c ↔ keepUnexpired utc c.util = c.util ∧ keepUnexpired utc c.prem = c.prem := by
    constructor
    · exact fun h => ⟨congrArg CapSettings.util h, congrArg CapSettings.prem h⟩
    · rintro ⟨util, prem⟩
      rw [CapSettings.unexpired, util, prem]
  rw [fields, keepUnexpired_eq_self_iff, keepUnexpired_eq_self_iff, CapSettings.due_iff]
  simp only [not_exists, not_and, Bool.not_eq_true, or_imp, forall_and]

theorem capExpiry_eq (s : State) :
    capExpiry s =
      if s.tim.valid && decide (s.xcc.cfg.unexpired s.tim.utc ≠ s.xcc.cfg) then
        setCapRecords (fun _ => s.xcc.cfg.unexpired s.tim.utc) s
      else s :=
  rfl

/-- With the time VALID and a record due, the records that stand are set. -/
theorem capExpiry_of_due {s : State} (valid : s.tim.valid = true) (due : s.xcc.cfg.Due s.tim.utc) :
    capExpiry s = recordsSet (s.xcc.cfg.unexpired s.tim.utc) s := by
  have changed : s.xcc.cfg.unexpired s.tim.utc ≠ s.xcc.cfg := fun h =>
    (CapSettings.unexpired_eq_self_iff _ _).mp h due
  rw [capExpiry_eq, if_pos (by simp [valid, changed]), setCapRecords_eq]

/-- With the time INVALID, or no record due, nothing changes. -/
theorem capExpiry_of_not_due {s : State} (h : s.tim.valid = false ∨ ¬s.xcc.cfg.Due s.tim.utc) : capExpiry s = s := by
  rw [capExpiry_eq, if_neg]
  rcases h with invalid | noneDue
  · simp [invalid]
  · simp [(CapSettings.unexpired_eq_self_iff _ _).mpr noneDue]

theorem capExpiries : CapExpiries := by
  intro s left c due
  have stands (r : Option CapRecord) : keepUnexpired s.tim.utc r = left r := by
    cases r with
    | none => rfl
    | some x => cases expiry : x.expiry <;> simp [left, keepUnexpired, CapRecord.expired, expiry]
  refine ⟨fun valid now => ?_, capExpiry_of_not_due, capExpiryDue_iff s⟩
  rw [capExpiry_of_due valid now, CapSettings.unexpired, stands, stands]

/-! ### A local minute (R47, R55, R81) -/

/-- The evaluation leaves the activation time. -/
theorem evalBand_activation (s : State) : (evalBand s).cal.activation = s.cal.activation := by
  simp only [evalBand]
  split_ifs <;> rfl

theorem activationDue_evalBand (s : State) : activationDue (evalBand s) = activationDue s := by
  simp [activationDue, evalBand_activation]

theorem checkActivation_of_not_due {s : State} (h : activationDue s = false) : checkActivation s = s := by
  simp [checkActivation, h]

theorem calendarEvent_takes (s : State) : CalendarTakes s (calendarEvent s) := by
  refine ⟨fun noneDue => ?_, fun due => ⟨s.draws + 1, ?_⟩⟩
  · rw [calendarEvent, eitherIf_false _ _ _ noneDue, checkActivation_of_not_due]
    rwa [activationDue_evalBand]
  · exact eitherIf_true evalBand checkActivation s due

/-- A whole minute is a midnight exactly where its minute of day is 0. -/
theorem localMinute_eq_zero_iff {t : Tim} (whole : t.localSec % 60 = 0) :
    t.localMinute = 0 ↔ t.localSec % 86400 = 0 := by
  rw [Tim.localMinute]
  omega

theorem localMinute_takes {s : State} (whole : s.tim.localSec % 60 = 0) : MinuteTakes s (localMinute s) := by
  have midnight_iff := localMinute_eq_zero_iff whole
  refine ⟨fun notMidnight => ?_, fun midnight apart => ?_, fun midnight meets => ?_⟩
  · rw [localMinute, if_neg (midnight_iff.not.mpr notMidnight)]
    exact calendarEvent_takes s
  · rw [← calendarMeetsClose_iff] at apart
    rw [localMinute, if_pos (midnight_iff.mpr midnight), if_neg apart]
  · rw [localMinute, if_pos (midnight_iff.mpr midnight), if_pos ((calendarMeetsClose_iff s).mpr meets)]
    exact anyOrder_someOrder _ s

/-! ### SECOND_TICK (R39, R47) -/

theorem exec_secondTick {s : State} (h : s.sup.powered = true) :
    exec .secondTick s = .next (finish (Machine.secondTick s)) :=
  congrArg Host.Outcome.next (if_pos h)

/-- A second that does not end the count: in RUN with time VALID its events follow. -/
theorem secondTick_advances {s : State} (h : s.tim.utc ≠ utcMax) :
    Machine.secondTick s =
      if s.sup.supply = .run ∧ s.tim.valid = true then secondEvents (secondOn s) else secondOn s := by
  have advanced : (passTo (s.tim.runMs + (1000 - s.tim.subMs)) s).tim.advance = (secondOn s).tim := by
    simp [passTo, Tim.advance, h]
  simp only [Machine.secondTick, markCountEnd, secondInRun, advanced, if_neg h, ite_and]
  rfl

/-- The count's end: TIME and the flag, and in RUN a step from the wall time before. -/
theorem secondTick_ends {s : State} (h : s.tim.utc = utcMax) :
    let t := raise .time { s with
      tim := { s.tim with runMs := s.tim.runMs + (1000 - s.tim.subMs), subMs := 0, utc := 0, valid := false }
      reg := { s.reg with flags := { s.reg.flags with timeInvalidSeen := true } } }
    Machine.secondTick s =
      if s.sup.supply = .run then stepEvent false (if s.tim.valid then some s.tim.localSec else none) t else t := by
  intro t
  have advanced : (passTo (s.tim.runMs + (1000 - s.tim.subMs)) s).tim.advance = t.tim := by
    simp [t, passTo, Tim.advance, h]
  simp only [Machine.secondTick, markCountEnd, secondInRun, advanced, if_pos h, earlierLocal_wall]
  rfl

theorem secondAdvances : SecondAdvances := by
  intro s powered notEnd t u
  rw [exec_secondTick powered, secondTick_advances notEnd]
  refine ⟨fun h => ?_, fun supply valid part => ?_,
    fun supply valid whole => ⟨localMinute u, localMinute_takes whole, ?_⟩⟩
  · rw [if_neg (by rcases h with h | h <;> simp [h])]
  · rw [if_pos ⟨supply, valid⟩]
    exact congrArg (fun w => Host.Outcome.next (finish w)) (if_neg part)
  · rw [if_pos ⟨supply, valid⟩]
    exact congrArg (fun w => Host.Outcome.next (finish w)) (if_pos whole)

theorem countEnd : CountEnd := by
  intro s powered atEnd t
  rw [exec_secondTick powered, secondTick_ends atEnd]
  refine ⟨fun supply => by rw [if_neg supply], fun supply => ?_⟩
  rw [if_pos supply, Tim.localSec, atEnd]

/-- Settles O15: the advance of the count with its events, the cap expiries among them, and the count's end. -/
theorem secondTickTaken : Obligations.SecondTick := ⟨secondAdvances, capExpiries, countEnd⟩

/-! ### SET_TIME and SET_LOCAL_OFFSET (R44, R48, R49) -/

/-- An update of a port leaves the Time Base. -/
theorem updPort_tim (p : Port) (f : PortState → PortState) (s : State) : (s.updPort p f).tim = s.tim := by
  simp

theorem timeInRange_iff (t : Nat) : timeInRange t = true ↔ 631152000 ≤ t ∧ t ≤ 3155759999 := by
  simp [timeInRange]

theorem offsetInRange_iff (o : Int) : offsetInRange o = true ↔ -720 ≤ o ∧ o ≤ 840 ∧ o % 15 = 0 := by
  simp [offsetInRange, and_assoc]

theorem ownSetTime_inRange {t : Nat} (s : State) (h : timeInRange t = true) :
    ownSetTime t s = okWith (.utc t) (stepEvent false (if s.tim.valid then some s.tim.localSec else none)
      (raise .time { s with tim := { s.tim with utc := t, subMs := 0, valid := true } })) :=
  if_pos h

theorem ownSetTime_outOfRange {t : Nat} (s : State) (h : ¬timeInRange t = true) : ownSetTime t s = rangeAt 1 0 s :=
  if_neg h

theorem setTime : SetTime := by
  intro p t s served u
  refine ⟨fun inRange => ?_, fun outOfRange => ?_⟩
  all_goals refine congrArg Host.Outcome.next (command_served served rfl ?_)
  · exact (ownSetTime_inRange u ((timeInRange_iff t).mpr inRange)).trans (by simp [okWith, u])
  · exact ownSetTime_outOfRange u (by rw [timeInRange_iff]; omega)

theorem ownSetLocalOffset_same (s : State) (h : offsetInRange s.tim.offset = true) :
    ownSetLocalOffset (some s.tim.offset) s = okWith (.offset s.tim.offset) (setting s) := by
  simp [ownSetLocalOffset, h]

theorem ownSetLocalOffset_moved {o : Int} {s : State} (h : offsetInRange o = true) (ne : o ≠ s.tim.offset) :
    ownSetLocalOffset (some o) s =
      okWith (.offset o) (setting (stepEvent false (if s.tim.valid then some s.tim.localSec else none)
        (raise .time { s with tim := { s.tim with offset := o } }))) := by
  simp [ownSetLocalOffset, h, ne, earlierLocal_wall]

theorem ownSetLocalOffset_outOfRange {o : Int} (s : State) (h : ¬offsetInRange o = true) :
    ownSetLocalOffset (some o) s = rangeAt 1 0 s :=
  if_neg h

theorem setLocalOffset : SetLocalOffset := by
  intro p o s served u
  have tim : u.tim = s.tim := updPort_tim p _ s
  refine ⟨fun h => ?_, fun m h inRange => ⟨fun same => ?_, fun moved => ?_⟩, fun m h outOfRange => ?_⟩
  all_goals
    subst h
    refine congrArg Host.Outcome.next (command_served served rfl ?_)
  · show ownSetLocalOffset none u = _
    rw [← tim]
    rfl
  · rw [← tim] at same
    subst same
    exact ownSetLocalOffset_same u ((offsetInRange_iff _).mpr inRange)
  · rw [← tim] at moved ⊢
    exact ownSetLocalOffset_moved ((offsetInRange_iff m).mpr inRange) moved
  · exact ownSetLocalOffset_outOfRange u (by rwa [offsetInRange_iff])

/-- Settles O16, each request by its owner's answer. -/
theorem timeRequests : Obligations.TimeRequests := ⟨setTime, setLocalOffset⟩

/-! ### An idle millisecond (R39, R46) -/

/-- On an empty queue a millisecond passes (log 1). -/
theorem step_empty {s : State} (h : s.pending = []) : step s = .next (tick s) := by
  rw [step, h]

theorem tick_powered {s : State} (h : s.sup.powered = true) :
    tick s = { s with tim := { s.tim with runMs := s.tim.runMs + 1, subMs := min 1000 (s.tim.subMs + 1) } } := by
  simp [tick, h, passTo]

theorem tick_retained {s : State} (off : s.sup.powered = false) (h : s.tim.retained = true) :
    tick s = { s with tim := { s.tim with subMs := min 1000 (s.tim.subMs + 1) } } := by
  simp [tick, off, h]

theorem tick_lost {s : State} (off : s.sup.powered = false) (h : s.tim.retained = false) : tick s = s := by
  simp [tick, off, h]

/-- Settles O2, by the supply and the backup domain. -/
theorem idleStepIsOneMillisecond : Obligations.IdleStepIsOneMillisecond := by
  intro s empty
  rw [step_empty empty]
  exact ⟨fun on => by rw [tick_powered on], fun off kept => by rw [tick_retained off kept],
    fun off lost => by rw [tick_lost off lost]⟩

/-! ### Commands without main supply (R40, R42, R168, R170) -/

theorem backupLost_unpowered {s : State} (h : s.sup.powered = false) :
    backupLost s = { s with tim := { s.tim with retained := false } } := by
  simp [backupLost, h]

theorem backupLost_powered {s : State} (h : s.sup.powered = true) : backupLost s = s := by
  simp [backupLost, h]

/-- Without main supply only the pin moves. -/
theorem lineLevel_unpowered (i : Fin 2) (level : Bool) {s : State} (h : s.sup.powered = false) :
    lineLevel i level s =
      { s with cal := { s.cal with lines := s.cal.lines.set i { s.cal.lines[i] with level := level } } } := by
  simp [lineLevel, h]

/-- Without main supply only the pin moves, and a level already there is the same pin. -/
theorem mainsLevel_unpowered (level : Bool) (f : State → State) {s : State} (h : s.sup.powered = false) :
    mainsLevel level f s = { s with sup := { s.sup with mainsWarn := level } } := by
  by_cases same : s.sup.mainsWarn = level
  · subst same
    simp [mainsLevel]
  · simp [mainsLevel, same, h]

/-- The commands of the backup domain, the pins and the power-on have their own meaning; every other is a command that
needs main supply. -/
theorem exec_unpowered (c : Instr) {s : State} (h : s.sup.powered = false) : exec c s = .next (whileUnpowered c s) := by
  cases c with
  | secondTick => exact congrArg Host.Outcome.next (if_neg (by simp [h]))
  | backupDomainLoss => exact congrArg Host.Outcome.next (backupLost_unpowered h)
  | powerOnReset => rfl
  | overrideLineLevelChange i level => exact congrArg Host.Outcome.next (lineLevel_unpowered i level h)
  | mainsWarnAssert => exact congrArg Host.Outcome.next (mainsLevel_unpowered true _ h)
  | mainsWarnDeassert => exact congrArg Host.Outcome.next (mainsLevel_unpowered false _ h)
  | mainSupplyLoss => exact congrArg Host.Outcome.next (if_neg (by simp [h]))
  | _ => exact congrArg Host.Outcome.next (command_unpowered _ h)

/-- Settles O4, command by command. -/
theorem unpoweredCommands : Obligations.UnpoweredCommands :=
  fun _ => ⟨fun c off => exec_unpowered c off, fun on => congrArg Host.Outcome.next (backupLost_powered on)⟩

/-! ### Resets and the loss of main supply (R142, R156, R168, R170) -/

/-- An interrupted program leaves every other slot. -/
theorem at_tearSlot_of_ne (t : Torn) {j k : Nat} (c : SlotContent) (m : Store) (h : j ≠ k) :
    Store.at (tearSlot t j c m) k = Store.at m k := by
  cases t with
  | blank => rfl
  | written => exact Store.at_put_of_ne m c h.symm
  | invalid => exact Store.at_put_of_ne m .junk h.symm

theorem at_tearSlot_self (t : Torn) (k : Nat) (c : SlotContent) (m : Store) :
    Store.at (tearSlot t k c m) k = Store.at m k ∨ Store.at (tearSlot t k c m) k = some c ∨
      Store.at (tearSlot t k c m) k = some .junk := by
  cases t with
  | blank => exact .inl rfl
  | written => exact .inr (.inl (Store.at_put_self m k c))
  | invalid => exact .inr (.inr (Store.at_put_self m k .junk))

/-- What a reset may make of the slots of an interrupted program: those not under program stand, and each of the others
stands, holds its record or is INVALID. -/
def TornFrom (l : List (Nat × SlotContent)) (m n : Store) : Prop :=
  (∀ k, (∀ x ∈ l, x.1 ≠ k) → Store.at n k = Store.at m k) ∧
  ∀ x ∈ l, Store.at n x.1 = Store.at m x.1 ∨ Store.at n x.1 = some x.2 ∨ Store.at n x.1 = some .junk

theorem tornFrom_refl (l : List (Nat × SlotContent)) (m : Store) : TornFrom l m m :=
  ⟨fun _ _ => rfl, fun _ _ => .inl rfl⟩

theorem tornFrom_tearSlot (t : Torn) (k : Nat) (c : SlotContent) (m : Store) :
    TornFrom [(k, c)] m (tearSlot t k c m) := by
  refine ⟨fun j apart => at_tearSlot_of_ne t c m (apart _ (List.mem_singleton_self _)), fun x mem => ?_⟩
  obtain rfl := List.mem_singleton.mp mem
  exact at_tearSlot_self t k c m

/-- Slots torn one after another. -/
theorem TornFrom.append {l l' : List (Nat × SlotContent)} {m n o : Store} (first : TornFrom l m n)
    (second : TornFrom l' n o) (apart : ∀ x ∈ l, ∀ y ∈ l', x.1 ≠ y.1) : TornFrom (l ++ l') m o := by
  obtain ⟨others, torn⟩ := first
  obtain ⟨others', torn'⟩ := second
  refine ⟨fun k free => ?_, fun x mem => ?_⟩
  · rw [others' k fun y memY => free y (List.mem_append_right l memY),
      others k fun x memX => free x (List.mem_append_left l' memX)]
  · rcases List.mem_append.mp mem with memX | memY
    · rw [others' x.1 fun y memY => (apart x memX y memY).symm]
      exact torn x memX
    · rw [← others x.1 fun z memZ => apart z memZ x memY]
      exact torn' x memY

theorem tornStore_torn (s : State) : TornFrom (underProgram s.hst) s.hst.store (tornStore s) := by
  unfold underProgram tornStore
  cases s.hst.engine with
  | idle => exact tornFrom_refl _ _
  | read who k => exact tornFrom_refl _ _
  | erase x => exact tornFrom_refl _ _
  | snapshot =>
    cases s.hst.queue with
    | nil => exact tornFrom_refl _ _
    | cons e l => exact tornFrom_tearSlot _ _ _ _
  | part =>
    cases s.hst.calJob with
    | none => exact tornFrom_refl _ _
    | some j => exact tornFrom_tearSlot _ _ _ _
  | checkpoint c p retry =>
    dsimp only
    have apart : ∀ x ∈ [(2 * p, SlotContent.half 0 c)], ∀ y ∈ [(2 * p + 1, SlotContent.half 1 c)], x.1 ≠ y.1 := by
      simp
    split_ifs with written
    · exact (tornFrom_tearSlot _ _ _ _).append (tornFrom_tearSlot _ _ _ _) apart
    · exact (tornFrom_tearSlot _ _ _ _).append (tornFrom_refl _ _) apart

/-- The second half of a checkpoint is begun only where the first was written. -/
theorem tornStore_half {s : State} {c : Checkpoint} {p : Nat} {retry : Bool}
    (h : s.hst.engine = .checkpoint c p retry) :
    Store.at (tornStore s) (2 * p) = some (.half 0 c) ∨
      Store.at (tornStore s) (2 * p + 1) = Store.at s.hst.store (2 * p + 1) := by
  rw [tornStore, h]
  dsimp only
  split_ifs with written
  · refine .inl ?_
    rw [at_tearSlot_of_ne _ _ _ (by omega), written]
    exact Store.at_put_self _ _ _
  · exact .inr (at_tearSlot_of_ne _ _ _ (by omega))

/-- The end of a command finds nothing to do right after a reset: recovery's first read is in progress. -/
theorem finish_resetWith (utc subMs : Nat) (valid : Bool) (s : State) :
    finish (resetWith utc subMs valid s) = resetWith utc subMs valid s := by
  simp [finish, restartDue, resetWith, State.afterReset, arbitrate, withdrawLost, Hst.reset, Sup.reset]

/-- Settles O8: the store is what the interrupted program left of it, and the reset that follows stands. -/
theorem resetsAndSupplyLoss : Obligations.ResetsAndSupplyLoss := by
  intro s
  obtain ⟨others, torn⟩ := tornStore_torn s
  refine ⟨tornStore s, others, torn, fun c p retry => tornStore_half, fun powered => ?_, fun kept => ?_, fun lost => ?_,
    fun powered => ?_⟩
  all_goals refine congrArg Host.Outcome.next ?_
  · rw [command_powered _ powered]
    exact finish_resetWith _ _ _ s
  · exact if_pos kept
  · exact if_neg (by simp [lost])
  · exact if_pos powered

/-! ### MAINS_WARN (R165, R166, R168) -/

/-- The level of MAINS_WARN does not change. -/
theorem mainsLevel_same {level : Bool} (f : State → State) {s : State} (h : s.sup.mainsWarn = level) :
    mainsLevel level f s = s :=
  if_pos h

theorem mainsLevel_changed {level : Bool} (f : State → State) {s : State} (powered : s.sup.powered = true)
    (h : s.sup.mainsWarn ≠ level) : mainsLevel level f s = finish (f s) := by
  rw [mainsLevel, if_neg h, if_pos powered]

theorem mainsWarns_run {s : State} (h : s.sup.supply = .run) :
    mainsWarns s = enterWarning { s with sup := { s.sup with mainsWarn := true } } := by
  rw [mainsWarns, h]

theorem mainsWarns_down {s : State} (h : s.sup.supply = .down) :
    mainsWarns s = { s with sup := { s.sup with mainsWarn := true, debounce := none } } := by
  rw [mainsWarns, h]

theorem mainsWarns_level {s : State} (h : s.sup.supply = .starting ∨ s.sup.supply = .warning) :
    mainsWarns s = { s with sup := { s.sup with mainsWarn := true } } := by
  rcases h with h | h <;> rw [mainsWarns, h]

theorem mainsWarn : MainsWarn := by
  intro s powered
  refine ⟨fun on => ?_, fun off run => ?_, fun off down => ?_, fun off other => ?_, fun off => ?_, fun on down => ?_,
    fun on notDown => ?_⟩
  all_goals refine congrArg Host.Outcome.next ?_
  · exact mainsLevel_same _ on
  · rw [mainsLevel_changed _ powered (by simp [off]), mainsWarns_run run]
    rfl
  · rw [mainsLevel_changed _ powered (by simp [off]), mainsWarns_down down]
  · rw [mainsLevel_changed _ powered (by simp [off]), mainsWarns_level other]
  · exact mainsLevel_same _ off
  · rw [mainsLevel_changed _ powered (by simp [on]), mainsClears, if_pos down]
  · rw [mainsLevel_changed _ powered (by simp [on]), mainsClears, if_neg notDown]

/-! ### The return to RUN (R164, R165, R167, R168) -/

/-- The entry to RUN: polling and the resume event, either first where a cap record expires on it. -/
theorem enterRun_entered (s : State) : RunEntered s (enterRun s) := by
  refine ⟨fun noneDue => ?_, fun due => ?_⟩
  · exact eitherIf_false _ _ _ noneDue
  · exact eitherIf_true _ _ _ due

theorem rideThrough_eq (s : State) : rideThrough s = enterRun (rodeThrough s) := rfl

theorem supplySettles_down {s : State} {t : Nat} (down : s.sup.supply = .down) (running : s.sup.debounce = some t) :
    supplySettles s = rideThrough (passTo t s) := by
  rw [supplySettles, down, running]

theorem supplySettles_absent {s : State} (h : s.sup.supply ≠ .down ∨ s.sup.debounce = none) : supplySettles s = s := by
  rw [supplySettles]
  split
  next t down running => rcases h with h | h <;> simp [down, running] at h
  next => rfl

/-- The conditions of R167, as the model computes them. -/
theorem sequenceEnded_iff (s : State) :
    sequenceEnded s = true ↔ (s.hst.queue = [] ∨ s.hst.logFailed = true) ∧
      (∀ c, s.hst.ckptReq = some c → Cause.powerFail.isIn c = false) ∧
      (∀ c, s.hst.ckptRetry = some c → Cause.powerFail.isIn c.causes = false) ∧
      s.hst.engine = .idle ∧ s.hst.reads = [] := by
  cases req : s.hst.ckptReq <;> cases retry : s.hst.ckptRetry <;>
    simp [sequenceEnded, Hst.drained, Hst.powerFailWaits, Hst.quiet, req, retry, and_assoc]

theorem supplyReturns : SupplyReturns := by
  intro s powered
  have debounce : exec .supplyDebounceExpiry s = .next (finish (supplySettles s)) :=
    congrArg Host.Outcome.next (command_powered _ powered)
  have sequence : exec .writeSequenceEnd s =
      .next (finish (if s.sup.supply = .warning ∧ sequenceEnded s then endSequence s else s)) :=
    congrArg Host.Outcome.next (command_powered _ powered)
  have ended_iff := and_congr_right fun _ : s.sup.supply = .warning => sequenceEnded_iff s
  rw [debounce, sequence]
  refine ⟨fun t down running => ?_, fun absent => ?_, fun goesOn => ?_, fun ended restarting => ?_,
    fun ended notRestarting on => ?_, fun ended notRestarting off => ?_⟩
  · exact ⟨_, enterRun_entered _, by rw [supplySettles_down down running, rideThrough_eq]⟩
  · rw [supplySettles_absent absent]
  · rw [if_neg (ended_iff.not.mpr goesOn)]
  · rw [if_pos (ended_iff.mpr ended), endSequence, if_pos restarting]
    exact congrArg Host.Outcome.next (finish_resetWith _ _ _ s)
  · rw [if_pos (ended_iff.mpr ended), endSequence, if_neg (by simp [notRestarting]), if_pos on]
    rfl
  · exact ⟨_, enterRun_entered _, by
      rw [if_pos (ended_iff.mpr ended), endSequence, if_neg (by simp [notRestarting]), if_neg (by simp [off]),
        rideThrough_eq]⟩

/-- Settles O44: the levels of MAINS_WARN, and the ends of the debounce and of the write sequence. -/
theorem supplyEvents : Obligations.SupplyEvents := ⟨mainsWarn, supplyReturns⟩

/-! ### READ_TIME, READ_CALENDAR, READ_CAPS, READ_UNITS, GET_STATUS (R52, R77, R121, R140, R195) -/

/-- What is read does not depend on the request that stands in a port's buffer. -/
theorem timeReport_taken (p : Port) (n : Nat) (s : State) : timeReport (taken p n s) = timeReport s := by
  cases p <;> rfl

theorem capsReport_taken (p : Port) (n : Nat) (s : State) : capsReport (taken p n s) = capsReport s := by
  cases p <;> rfl

theorem unitsReport_taken (p : Port) (n : Nat) (s : State) : unitsReport (taken p n s) = unitsReport s := by
  cases p <;> rfl

theorem summaryExtras_taken (p : Port) (n : Nat) (s : State) : summaryExtras (taken p n s) = summaryExtras s := by
  cases p <;> rfl

theorem statusReport_taken (p : Port) (n : Nat) (s : State) : statusReport p (taken p n s) = statusReport p s := by
  cases p <;> rfl

/-- GET_STATUS passes the checks of R184 in every supply state, on both ports, and whatever the premises lock. -/
theorem judge_getStatus (p : Port) (s : State) :
    judge p 35 false (some .getStatus) s = respond p 35 .ok (.status (statusReport p s)) s := by
  have auth : authority p 35 = true := by cases p <;> rfl
  simp [judge, inCatalogue, auth, settleReply, serve, ownGetStatus, okWith]

theorem command_getStatus (p : Port) {s : State} (powered : s.sup.powered = true) (free : (s.port p).buffer = none) :
    command (takeRequest p .getStatus) s = answered p 35 .ok (.status (statusReport p s)) (taken p 35 s) := by
  rw [command_powered _ powered, takeRequest, goodFrame, if_neg (by simp [free]), ← statusReport_taken p 35 s]
  exact congrArg finish (judge_getStatus p _)

/-- A hold is shown while it runs. -/
theorem runningHold_eq (s : State) :
    runningHold s = match s.xcc.holdEnd with
      | some t => if s.tim.runMs < t then some t else none
      | none => none := by
  rw [runningHold]
  cases s.xcc.holdEnd <;> simp [Option.filter]

theorem Engine.activity_eq (e : Engine) :
    e.activity = match e with
      | .idle => .idle
      | .read _ _ => .read
      | .erase _ => .erase
      | _ => .program := by
  cases e <;> rfl

theorem Hst.activity_eq (h : Hst) :
    h.activity = if h.suspended = none then h.engine.activity else .suspended h.engine.activity := by
  cases suspended : h.suspended <;> simp [Hst.activity, suspended]

/-- The index is judged for DAY alone, before the calendar is looked for. -/
theorem ownReadCalendar_badIndex (calendar : Nat) {part index : Nat} (s : State) (h : part = 4 ∧ 11 < index) :
    ownReadCalendar calendar part index s = rangeAt 3 index s :=
  if_pos h

theorem ownReadCalendar_absent {calendar part index : Nat} {s : State} (h : ¬(part = 4 ∧ 11 < index))
    (absent : s.cal.named calendar = none) : ownReadCalendar calendar part index s = bare .notFound s := by
  rw [ownReadCalendar, if_neg h, absent]

/-- What READ_CALENDAR answers of the calendar it names. -/
def calendarAnswer (c : Calendar) (part index : Nat) (s : State) : Answer :=
  match part with
  | 0 => .calendarSummary c (summaryExtras s)
  | 1 => .calendarPart c .bands
  | 2 => .calendarPart c .seasons
  | 3 => .calendarPart c .weeks
  | 4 => .calendarPart c (.day (Fin.ofNat 12 index))
  | _ => .calendarPart c .specials

theorem ownReadCalendar_present {calendar part index : Nat} {s : State} {c : Calendar} (h : ¬(part = 4 ∧ 11 < index))
    (present : s.cal.named calendar = some c) :
    ownReadCalendar calendar part index s = okWith (calendarAnswer c part index s) s := by
  rw [ownReadCalendar, if_neg h, present]
  obtain _ | _ | _ | _ | _ | n := part <;> rfl

theorem calendarAnswer_taken (c : Calendar) (part index : Nat) (p : Port) (n : Nat) (s : State) :
    calendarAnswer c part index (taken p n s) = calendarAnswer c part index s := by
  unfold calendarAnswer
  rw [summaryExtras_taken]

/-- Settles O48: what each owner answers, read from the state as it stands before the request. -/
theorem reportRequests : Obligations.ReportRequests := by
  intro p s
  refine ⟨fun served => ?_, fun served => ?_, fun served => ?_, fun powered free => ?_,
    fun calendar part index served => ?_⟩
  · refine congrArg Host.Outcome.next (command_served served rfl ?_)
    show ownReadTime _ = _
    rw [ownReadTime, timeReport_taken]
    rfl
  · refine congrArg Host.Outcome.next (command_served served rfl ?_)
    show ownReadCaps _ = _
    rw [ownReadCaps, capsReport_taken, capsReport, runningHold_eq]
    rfl
  · refine congrArg Host.Outcome.next (command_served served rfl ?_)
    show ownReadUnits _ = _
    rw [ownReadUnits, unitsReport_taken]
    rfl
  · refine congrArg Host.Outcome.next ((command_getStatus p powered free).trans ?_)
    rw [statusReport, Hst.activity_eq, Engine.activity_eq]
    rfl
  · have cal : (taken p 18 s).cal = s.cal := by simp
    intro named line summary
    refine ⟨fun day out => ?_, fun ok absent => ?_, fun c ok present => ?_⟩
    all_goals refine congrArg Host.Outcome.next (command_served served rfl ?_)
    · exact ownReadCalendar_badIndex calendar _ ⟨day, out⟩
    · exact ownReadCalendar_absent (by omega) (by rw [cal]; exact absent)
    · refine (ownReadCalendar_present (by omega) (by rw [cal]; exact present)).trans ?_
      rw [calendarAnswer_taken]
      rfl

end Sys2Proof.Machine
end

section
/-! PROOFS. The Tariff Calendar's rules (R53 to R58, R69): the switch point in force, special days and seasons, the band
that is evaluated, and whole-calendar validation. -/
namespace Sys2Proof.Machine
open Sys2Proof.Claim

/-! ### The switch point in force (R58) -/

/-- The switch point in force is the last of the profile that is not behind the minute. -/
theorem bandAt_of_split {pre post : List SwitchPoint} {x : SwitchPoint} {minute : Nat} (reached : x.minute ≤ minute)
    (ahead : ∀ y ∈ post, minute < y.minute) : bandAt (pre ++ x :: post) minute = some x.band := by
  have later : post.reverse.find? (fun y => decide (y.minute ≤ minute)) = none := by
    simpa [List.find?_eq_none] using ahead
  simp [bandAt, List.find?_append, later, reached]

/-- Before the first switch point the last one of the profile is in force. -/
theorem bandAt_of_ahead {points : List SwitchPoint} {minute : Nat} (ahead : ∀ y ∈ points, minute < y.minute) :
    bandAt points minute = points.getLast?.map SwitchPoint.band := by
  have none_reached : points.reverse.find? (fun y => decide (y.minute ≤ minute)) = none := by
    simpa [List.find?_eq_none] using ahead
  rw [bandAt, none_reached]

/-- The band in force is that of one of the switch points. -/
theorem exists_of_bandAt {points : List SwitchPoint} {minute : Nat} {b : Fin 8} (h : bandAt points minute = some b) :
    ∃ x ∈ points, x.band = b := by
  rw [bandAt] at h
  split at h
  next x found => exact ⟨x, List.mem_reverse.mp (List.mem_of_find?_eq_some found), Option.some.inj h⟩
  next =>
    obtain ⟨x, last, band⟩ := Option.map_eq_some_iff.mp h
    exact ⟨x, List.mem_of_getLast? last, band⟩

/-- Settles O19: the profile is split at the point that is in force. -/
theorem switchPointInForce : Obligations.SwitchPointInForce := by
  intro l m rising
  refine ⟨fun x mem reached latest => ?_, bandAt_of_ahead⟩
  obtain ⟨pre, post, rfl⟩ := List.append_of_mem mem
  refine bandAt_of_split reached fun y later => ?_
  have behind : x.minute < y.minute := List.rel_of_pairwise_cons (List.pairwise_append.mp rising).2.1 later
  by_contra inTime
  have := latest y (by simp [later]) (by omega)
  omega

/-! ### Special days and seasons (R57) -/

/-- The entries of an indexed table, without their indices. -/
theorem mem_presentOf_map {α : Type} {n : Nat} (v : Vector (Option α) n) (x : α) :
    x ∈ (presentOf v).map (·.2) ↔ ∃ i : Fin n, v[i] = some x := by
  simp only [List.mem_map, Prod.exists, exists_eq_right, mem_presentOf]
  exact ⟨fun ⟨_, i, _, present⟩ => ⟨i, present⟩, fun ⟨i, present⟩ => ⟨i, i, rfl, present⟩⟩

/-- The only entry that meets a condition is the one found. -/
theorem find?_eq_some_of_unique {α : Type} {p : α → Bool} {l : List α} {x : α} (mem : x ∈ l) (meets : p x = true)
    (only : ∀ y ∈ l, p y = true → y = x) : l.find? p = some x := by
  cases found : l.find? p with
  | none => exact absurd meets (List.find?_eq_none.mp found x mem)
  | some y => rw [only y (List.mem_of_find?_eq_some found) (List.find?_some found)]

/-- The special day of a date. -/
def Calendar.specialOn (c : Calendar) (d : SpecialDate) : Option Special :=
  ((presentOf c.specials).map (·.2)).find? fun x => x.date = d

/-- The special day of the full date goes before that of the month-day. -/
theorem specialFor_eq (c : Calendar) (d : Date) :
    c.specialFor d =
      ((c.specialOn (.full d.year d.month d.day)).or (c.specialOn (.recurring d.month d.day))).map Special.profile := by
  rw [Calendar.specialFor]
  cases full : c.specialOn (.full d.year d.month d.day) <;> rw [Calendar.specialOn] at full <;> rw [full] <;> rfl

/-- A special day of a date that no other has is the one found for it. -/
theorem specialOn_eq_some {c : Calendar} {i : Fin 24} {x : Special} (present : c.specials[i] = some x)
    (only : ∀ (j : Fin 24) y, c.specials[j] = some y → j ≠ i → y.date ≠ x.date) : c.specialOn x.date = some x := by
  refine find?_eq_some_of_unique ((mem_presentOf_map _ _).mpr ⟨i, present⟩) (by simp) fun y mem same => ?_
  obtain ⟨j, presentY⟩ := (mem_presentOf_map _ _).mp mem
  by_cases ji : j = i
  · rw [ji, present] at presentY
    exact (Option.some.inj presentY).symm
  · exact absurd (of_decide_eq_true same) (only j y presentY ji)

/-- No special day is found for a date that none has. -/
theorem specialOn_eq_none {c : Calendar} {d : SpecialDate}
    (absent : ∀ (j : Fin 24) y, c.specials[j] = some y → y.date ≠ d) : c.specialOn d = none := by
  refine List.find?_eq_none.mpr fun y mem => ?_
  obtain ⟨j, present⟩ := (mem_presentOf_map _ _).mp mem
  simpa using absent j y present

theorem specialDayRule : SpecialDayRule := by
  intro c d fullDate recurring
  have order : c.specialFor d = ((c.specialOn fullDate).or (c.specialOn recurring)).map Special.profile :=
    specialFor_eq c d
  rw [order]
  refine ⟨fun i x present only => ⟨fun isFull => ?_, fun isRecurring noFull => ?_⟩, fun absent => ?_⟩
  · rw [← isFull, specialOn_eq_some present only]
    rfl
  · rw [← isRecurring, specialOn_eq_some present only, specialOn_eq_none noFull]
    rfl
  · rw [specialOn_eq_none fun j y present => (absent j y present).1,
      specialOn_eq_none fun j y present => (absent j y present).2]
    rfl

/-- The place of a season's start in the year. -/
def Season.key (x : Season) : Nat := monthDayKey x.month x.day

theorem latestSeason_eq_argmax (l : List Season) : latestSeason l = l.argmax Season.key := by
  unfold latestSeason List.argmax
  congr 1
  funext best x
  cases best <;> rfl

/-- A season later than all the others is the latest. -/
theorem latestSeason_eq_some {l : List Season} {x : Season} (mem : x ∈ l)
    (latest : ∀ y ∈ l, y.key ≤ x.key ∧ (y.key = x.key → y = x)) : latestSeason l = some x := by
  rw [latestSeason_eq_argmax, List.argmax_eq_some_iff]
  refine ⟨mem, fun y memY => (latest y memY).1, fun y memY le => ?_⟩
  rw [(latest y memY).2 (le_antisymm (latest y memY).1 le)]

/-- The order of starts in the year is that of months, then of days. -/
theorem monthDayKey_le_iff {m d m' d' : Nat} (hd : d ≤ 31) (hd' : d' ≤ 31) :
    monthDayKey m d ≤ monthDayKey m' d' ↔ m < m' ∨ m = m' ∧ d ≤ d' := by
  unfold monthDayKey
  omega

theorem monthDayKey_eq_iff {m d m' d' : Nat} (hd : d ≤ 31) (hd' : d' ≤ 31) :
    monthDayKey m d = monthDayKey m' d' ↔ (m, d) = (m', d') := by
  unfold monthDayKey
  rw [Prod.mk.injEq]
  omega

theorem seasonRule : SeasonRule := by
  intro c month day dayOk daysOk distinct upTo
  have present (y : Season) : y ∈ (presentOf c.seasons).map (·.2) ↔ ∃ j : Fin 4, c.seasons[j] = some y :=
    mem_presentOf_map _ _
  have upTo_iff {j : Fin 4} {y : Season} (h : c.seasons[j] = some y) {m d : Nat} (hd : d ≤ 31) :
      y.key ≤ monthDayKey m d ↔ upTo y m d := monthDayKey_le_iff (daysOk j y h) hd
  have same {i j : Fin 4} {x y : Season} (hx : c.seasons[i] = some x) (hy : c.seasons[j] = some y)
      (h : y.key = x.key) : y = x := by
    obtain rfl := distinct i j x y hx hy ((monthDayKey_eq_iff (daysOk i x hx) (daysOk j y hy)).mp h.symm)
    exact Option.some.inj (hy.symm.trans hx)
  refine ⟨fun i x hx => ⟨fun begun latest => ?_, fun wrapped => ?_⟩, fun none_present => ?_⟩
  · have inForce : latestSeason (((presentOf c.seasons).map (·.2)).filter fun y =>
        decide (monthDayKey y.month y.day ≤ monthDayKey month day)) = some x := by
      refine latestSeason_eq_some ?_ fun y mem => ?_
      · exact List.mem_filter.mpr ⟨(present x).mpr ⟨i, hx⟩, decide_eq_true ((upTo_iff hx dayOk).mpr begun)⟩
      · obtain ⟨memY, begunY⟩ := List.mem_filter.mp mem
        obtain ⟨j, hy⟩ := (present y).mp memY
        have order := latest j y hy ((upTo_iff hy dayOk).mp (of_decide_eq_true begunY))
        exact ⟨(upTo_iff hy (daysOk i x hx)).mpr order, same hx hy⟩
    simp only [Calendar.seasonFor, inForce]
  · have noneBegun : ((presentOf c.seasons).map (·.2)).filter (fun y =>
        decide (monthDayKey y.month y.day ≤ monthDayKey month day)) = [] := by
      refine List.filter_eq_nil_iff.mpr fun y mem begun => ?_
      obtain ⟨j, hy⟩ := (present y).mp mem
      exact (wrapped j y hy).1 ((upTo_iff hy dayOk).mp (of_decide_eq_true begun))
    have last : latestSeason ((presentOf c.seasons).map (·.2)) = some x := by
      refine latestSeason_eq_some ((present x).mpr ⟨i, hx⟩) fun y mem => ?_
      obtain ⟨j, hy⟩ := (present y).mp mem
      exact ⟨(upTo_iff hy (daysOk i x hx)).mpr (wrapped j y hy).2, same hx hy⟩
    simp only [Calendar.seasonFor, noneBegun]
    exact last
  · have empty : (presentOf c.seasons).map (·.2) = [] := by
      refine List.eq_nil_iff_forall_not_mem.mpr fun y mem => ?_
      obtain ⟨j, hy⟩ := (present y).mp mem
      rw [none_present j] at hy
      cases hy
    simp only [Calendar.seasonFor, empty]
    rfl

/-! ### The evaluation of the band (R55, R56, R59, R62) -/

theorem evaluate_invalid {t : Tim} (c : Cal) (h : t.valid = false) :
    evaluate t c = (c.active.fallback, .timeFallback) := by
  simp [evaluate, h]

theorem evaluate_calendar {t : Tim} {c : Cal} (h : t.valid = true) (entry : c.map[c.mapIndex] = .calendar) :
    evaluate t c = c.active.bandFor t.localDay t.localMinute := by
  simp only [evaluate, h, entry, if_true]

theorem evaluate_force {t : Tim} {c : Cal} {k : Fin 8} (h : t.valid = true) (entry : c.map[c.mapIndex] = .force k) :
    evaluate t c =
      if k.val < c.active.nb then (k, .override) else (c.active.fallback, .overrideFallback) := by
  simp only [evaluate, h, entry, if_true]

/-- The lines select the map entry of the number they spell, OV1 its upper bit. -/
theorem mapIndex_val (c : Cal) : c.mapIndex.val = 2 * c.lines[1].effective.toNat + c.lines[0].effective.toNat := by
  unfold Cal.mapIndex
  cases c.lines[1].effective <;> cases c.lines[0].effective <;> rfl

/-- The band of a special day's profile. -/
theorem bandFor_special {c : Calendar} {day : Nat} {p : Fin 12} {points : List SwitchPoint} (minute : Nat)
    (special : c.specialFor (dateOf day) = some p) (profile : c.days[p] = some points) :
    c.bandFor day minute = ((bandAt points minute).getD c.fallback, .specialDay) := by
  simp only [Calendar.bandFor, Calendar.profileFor, special, profile]

/-- The band of the profile that the season's week names for the weekday. -/
theorem bandFor_season {c : Calendar} {day : Nat} {x : Season} {week : Vector (Fin 12) 7} {points : List SwitchPoint}
    (minute : Nat) (special : c.specialFor (dateOf day) = none)
    (season : c.seasonFor (dateOf day).month (dateOf day).day = some x) (table : c.weeks[x.week] = some week)
    (profile : c.days[week[weekdayOf day]] = some points) :
    c.bandFor day minute = ((bandAt points minute).getD c.fallback, .schedule) := by
  simp only [Calendar.bandFor, Calendar.profileFor, special, season, table, profile]

theorem bandRule : BandRule := by
  intro t c a e
  exact ⟨evaluate_invalid c, evaluate_calendar,
    fun k valid entry below => (evaluate_force valid entry).trans (if_pos below),
    fun k valid entry above => (evaluate_force valid entry).trans (if_neg (not_lt.mpr above)),
    fun day minute p points special profile => bandFor_special minute special profile,
    fun day minute x week points special season table profile => bandFor_season minute special season table profile,
    mapIndex_val c⟩

theorem evaluationIsInEffect : EvaluationIsInEffect := by
  intro s r t
  refine ⟨fun same => ?_, fun changed => if_pos changed⟩
  exact if_neg (not_not.mpr same)

/-- Settles O20: the cases of the evaluation, the special day and the season found, and the band put into effect. -/
theorem bandEvaluation : Obligations.BandEvaluation := ⟨bandRule, specialDayRule, seasonRule, evaluationIsInEffect⟩

/-! ### Whole-calendar validation (R69) -/

theorem nb_eq (c : Calendar) : c.nb = c.entries.length := by
  unfold Calendar.nb Calendar.entries
  cases c.bands <;> rfl

/-- A band's offset rank lies below nb, and no band before it has that rank. -/
def Calendar.rankOk (c : Calendar) (x : BandEntry × Nat) : Bool :=
  decide (x.1.rank.val < c.nb) && !((c.entries.take x.2).map BandEntry.rank).contains x.1.rank

/-- A season names a week that is there, and no season before it has its start. -/
def Calendar.seasonOk (c : Calendar) (x : Nat × Season) : Bool :=
  (c.weeks[x.2.week]).isSome &&
    !((presentOf c.seasons).any fun y => decide (y.1 < x.1) && y.2.month == x.2.month && y.2.day == x.2.day)

/-- A week names day profiles that are there. -/
def Calendar.weekOk (c : Calendar) (x : Nat × Vector (Fin 12) 7) : Bool := x.2.toList.all fun d => (c.days[d]).isSome

/-- A day profile names bands below nb. -/
def Calendar.dayOk (c : Calendar) (x : Nat × List SwitchPoint) : Bool := x.2.all fun p => decide (p.band.val < c.nb)

/-- A special day names a day profile that is there, and no special day before it has its date. -/
def Calendar.specialOk (c : Calendar) (x : Nat × Special) : Bool :=
  (c.days[x.2.profile]).isSome &&
    !((presentOf c.specials).any fun y => decide (y.1 < x.1) && y.2.date == x.2.date)

/-- R69's conditions, by the entries they concern. -/
theorem checks_eq (c : Calendar) :
    c.checks =
      [(c.bands.isSome, ((1, 0) : CalFault)), (decide (c.fallback.val < c.nb), (1, 0))] ++
      c.entries.zipIdx.map (fun x => (c.rankOk x, (1, x.2))) ++
      [(!(presentOf c.seasons).isEmpty, (2, 0))] ++
      (presentOf c.seasons).map (fun x => (c.seasonOk x, (2, x.1))) ++
      (presentOf c.weeks).map (fun x => (c.weekOk x, (3, x.1))) ++
      (presentOf c.days).map (fun x => (c.dayOk x, (4, x.1))) ++
      (presentOf c.specials).map (fun x => (c.specialOk x, (5, x.1))) := by
  unfold Calendar.rankOk Calendar.dayOk
  rw [nb_eq]
  rfl

/-- A check of an indexed table that fails is that of an entry. -/
theorem mem_tableChecks {α : Type} {n : Nat} (v : Vector (Option α) n) (ok : Nat × α → Bool) (t table k : Nat) :
    (false, ((table, k) : CalFault)) ∈ (presentOf v).map (fun x => (ok x, (t, x.1))) ↔
      table = t ∧ ∃ (i : Fin n) (x : α), i.val = k ∧ v[i] = some x ∧ ok (i.val, x) = false := by
  simp only [List.mem_map, Prod.exists, mem_presentOf, Prod.mk.injEq]
  constructor
  · rintro ⟨j, x, ⟨i, rfl, present⟩, bad, rfl, rfl⟩
    exact ⟨rfl, i, x, rfl, present, bad⟩
  · rintro ⟨rfl, i, x, rfl, present, bad⟩
    exact ⟨i, x, ⟨i, rfl, present⟩, bad, rfl, rfl⟩

theorem mem_rankChecks (c : Calendar) (table k : Nat) :
    (false, ((table, k) : CalFault)) ∈ c.entries.zipIdx.map (fun x => (c.rankOk x, (1, x.2))) ↔
      table = 1 ∧ ∃ e, c.entries[k]? = some e ∧ c.rankOk (e, k) = false := by
  simp only [List.mem_map, Prod.exists, List.mem_zipIdx_iff_getElem?, Prod.mk.injEq]
  constructor
  · rintro ⟨e, j, present, bad, rfl, rfl⟩
    exact ⟨rfl, e, present, bad⟩
  · rintro ⟨rfl, e, present, bad⟩
    exact ⟨e, k, present, bad, rfl, rfl⟩

theorem rankOk_eq_false_iff (c : Calendar) (e : BandEntry) (k : Nat) :
    c.rankOk (e, k) = false ↔
      c.nb ≤ e.rank.val ∨ ∃ j f, j < k ∧ c.entries[j]? = some f ∧ f.rank = e.rank := by
  have before (f : BandEntry) : f ∈ c.entries.take k ↔ ∃ j, j < k ∧ c.entries[j]? = some f := by
    simp only [List.mem_iff_getElem?, List.getElem?_take, Option.ite_none_right_eq_some]
  simp only [Calendar.rankOk, Bool.and_eq_false_iff, decide_eq_false_iff_not, not_lt, Bool.not_eq_false',
    List.contains_iff_mem, List.mem_map, before]
  refine or_congr_right ⟨?_, ?_⟩
  · rintro ⟨f, ⟨j, lt, present⟩, same⟩
    exact ⟨j, f, lt, present, same⟩
  · rintro ⟨j, f, lt, present, same⟩
    exact ⟨f, ⟨j, lt, present⟩, same⟩

theorem seasonOk_eq_false_iff (c : Calendar) (i : Fin 4) (x : Season) :
    c.seasonOk (i.val, x) = false ↔ c.weeks[x.week] = none ∨
      ∃ (j : Fin 4) (y : Season), j < i ∧ c.seasons[j] = some y ∧ y.month = x.month ∧ y.day = x.day := by
  simp only [Calendar.seasonOk, Bool.and_eq_false_iff, Option.isSome_eq_false_iff, Option.isNone_iff_eq_none,
    Bool.not_eq_false', List.any_eq_true, Prod.exists, mem_presentOf, Bool.and_eq_true, decide_eq_true_eq, beq_iff_eq]
  refine or_congr_right ⟨?_, ?_⟩
  · rintro ⟨k, y, ⟨j, rfl, present⟩, ⟨lt, month⟩, day⟩
    exact ⟨j, y, lt, present, month, day⟩
  · rintro ⟨j, y, lt, present, month, day⟩
    exact ⟨j, y, ⟨j, rfl, present⟩, ⟨lt, month⟩, day⟩

theorem weekOk_eq_false_iff (c : Calendar) (k : Nat) (w : Vector (Fin 12) 7) :
    c.weekOk (k, w) = false ↔ ∃ d : Fin 7, c.days[w[d]] = none := by
  simp only [Calendar.weekOk, List.all_eq_false, Bool.not_eq_true, Option.isSome_eq_false_iff,
    Option.isNone_iff_eq_none, Vector.mem_toList_iff, Vector.mem_iff_getElem]
  constructor
  · rintro ⟨_, ⟨d, lt, rfl⟩, absent⟩
    exact ⟨⟨d, lt⟩, absent⟩
  · rintro ⟨d, absent⟩
    exact ⟨_, ⟨d, d.isLt, rfl⟩, absent⟩

theorem dayOk_eq_false_iff (c : Calendar) (k : Nat) (l : List SwitchPoint) :
    c.dayOk (k, l) = false ↔ ∃ x ∈ l, c.nb ≤ x.band.val := by
  simp only [Calendar.dayOk, List.all_eq_false, decide_eq_true_eq, not_lt]

theorem specialOk_eq_false_iff (c : Calendar) (i : Fin 24) (x : Special) :
    c.specialOk (i.val, x) = false ↔ c.days[x.profile] = none ∨
      ∃ (j : Fin 24) (y : Special), j < i ∧ c.specials[j] = some y ∧ y.date = x.date := by
  simp only [Calendar.specialOk, Bool.and_eq_false_iff, Option.isSome_eq_false_iff, Option.isNone_iff_eq_none,
    Bool.not_eq_false', List.any_eq_true, Prod.exists, mem_presentOf, Bool.and_eq_true, decide_eq_true_eq, beq_iff_eq]
  refine or_congr_right ⟨?_, ?_⟩
  · rintro ⟨k, y, ⟨j, rfl, present⟩, lt, date⟩
    exact ⟨j, y, lt, present, date⟩
  · rintro ⟨j, y, lt, present, date⟩
    exact ⟨j, y, ⟨j, rfl, present⟩, lt, date⟩

/-- No entry of a table is present. -/
theorem presentOf_eq_nil_iff {α : Type} {n : Nat} (v : Vector (Option α) n) :
    presentOf v = [] ↔ ∀ i : Fin n, v[i] = none := by
  rw [List.eq_nil_iff_forall_not_mem]
  constructor
  · intro absent i
    by_contra present
    obtain ⟨x, hx⟩ := Option.ne_none_iff_exists'.mp present
    exact absent (i.val, x) ((mem_presentOf v i x).mpr ⟨i, rfl, hx⟩)
  · rintro absent ⟨k, x⟩ mem
    obtain ⟨i, -, present⟩ := (mem_presentOf v k x).mp mem
    rw [absent i] at present
    cases present

/-- The band table's own conditions: it is there, the fallback band lies below nb, and so does each rank, no two
alike. -/
theorem failsAt_bands_iff (c : Calendar) (k : Nat) :
    failsAt c 1 k ↔ k = 0 ∧ (c.bands = none ∨ c.nb ≤ c.fallback.val) ∨
      ∃ e, c.entries[k]? = some e ∧ c.rankOk (e, k) = false := by
  simp only [failsAt, rankOk_eq_false_iff, Calendar.nb, Calendar.fallback, Calendar.entries]
  cases c.bands with
  | none => simp
  | some t => simp

/-- A check of validation fails exactly where an entry breaks its condition. -/
theorem mem_checks_iff_failsAt (c : Calendar) (table k : Nat) : (false, (table, k)) ∈ c.checks ↔ failsAt c table k := by
  simp only [checks_eq, List.mem_append, mem_tableChecks, mem_rankChecks, List.mem_cons, List.not_mem_nil, or_false,
    Prod.mk.injEq]
  obtain _ | _ | _ | _ | _ | _ | n := table
  · simp [failsAt]
  · rw [failsAt_bands_iff]
    simp [and_or_left, and_comm]
  · simp [failsAt, seasonOk_eq_false_iff, presentOf_eq_nil_iff, and_comm]
  · simp [failsAt, weekOk_eq_false_iff]
  · simp [failsAt, dayOk_eq_false_iff]
  · simp [failsAt, specialOk_eq_false_iff]
  · simp [failsAt]

theorem validate_eq_none_iff (c : Calendar) : c.validate = none ↔ ∀ table k, ¬failsAt c table k := by
  rw [Calendar.validate, firstFault_none]
  simp only [← mem_checks_iff_failsAt]
  constructor
  · intro pass table k mem
    exact absurd (pass _ mem) Bool.false_ne_true
  · rintro none_fails ⟨_ | _, table, k⟩ mem
    · exact absurd mem (none_fails table k)
    · rfl

/-- The failure answered is the first, by table and then by index. -/
theorem validate_eq_some_iff (c : Calendar) (table k : Nat) :
    c.validate = some (table, k) ↔ failsAt c table k ∧
      ∀ table' k', failsAt c table' k' → table < table' ∨ table = table' ∧ k ≤ k' := by
  rw [Calendar.validate, firstFault_least _ c.checks_ascending]
  simp only [Prod.forall, mem_checks_iff_failsAt, CalFault.le]

/-- Entries of a table of which none repeats one before it are all different. -/
theorem distinct_of_lt {α β : Type} {n : Nat} {v : Vector (Option α) n} {f : α → β}
    (h : ∀ (i j : Fin n) x y, j < i → v[i] = some x → v[j] = some y → f y ≠ f x) {i j : Fin n} {x y : α}
    (hx : v[i] = some x) (hy : v[j] = some y) (ne : j ≠ i) : f y ≠ f x := by
  rcases lt_or_gt_of_ne ne with lt | gt
  · exact h i j x y lt hx hy
  · exact (h j i y x gt hy hx).symm

/-- Ranks of which none repeats one before it are all different. -/
theorem ranks_nodup_iff (l : List BandEntry) :
    (l.map BandEntry.rank).Nodup ↔
      ∀ (j k : Nat) (e f : BandEntry), j < k → l[k]? = some e → l[j]? = some f → f.rank ≠ e.rank := by
  rw [List.nodup_iff_getElem?_ne_getElem?]
  simp only [List.getElem?_map]
  constructor
  · intro h j k e f lt he hf same
    have short := (List.getElem?_eq_some_iff.mp he).1
    exact h j k lt (by simpa using short) (by rw [he, hf, Option.map_some, Option.map_some, same])
  · intro h j k lt short same
    obtain ⟨e, he⟩ : ∃ e, l[k]? = some e := ⟨_, List.getElem?_eq_getElem (by simpa using short)⟩
    rw [he, Option.map_some, Option.map_eq_some_iff] at same
    obtain ⟨f, hf, rank⟩ := same
    exact h j k e f lt he hf rank

/-- The conditions of a valid calendar are those that no entry breaks. -/
theorem validCalendar_iff (c : Calendar) : ValidCalendar c ↔ ∀ table k, ¬failsAt c table k := by
  constructor
  · rintro ⟨⟨t, bands, fallback, ranks, distinct, points⟩, ⟨i, x, season⟩, seasons, weeks, specials⟩ table k
    have nb : c.nb = t.entries.length := by rw [Calendar.nb, bands]
    obtain _ | _ | _ | _ | _ | _ | n := table
    · exact id
    · rintro (⟨-, absent | ⟨t', same, above⟩⟩ | ⟨t', e, same, he, above | ⟨j, f, lt, hf, rank⟩⟩)
      · simp [bands] at absent
      · obtain rfl := Option.some.inj (bands.symm.trans same)
        omega
      · obtain rfl := Option.some.inj (bands.symm.trans same)
        have := ranks e (List.mem_of_getElem? he)
        omega
      · obtain rfl := Option.some.inj (bands.symm.trans same)
        exact (ranks_nodup_iff _).mp distinct j k e f lt he hf rank
    · rintro (⟨-, absent⟩ | ⟨i, x, -, hx, noWeek | ⟨j, y, lt, hy, month, day⟩⟩)
      · simp [absent i] at season
      · simpa [noWeek] using (seasons i x hx).1
      · exact (seasons i x hx).2 j y hy lt.ne (by rw [month, day])
    · rintro ⟨i, w, -, hw, d, absent⟩
      have present := weeks i w hw d
      rw [absent] at present
      cases present
    · rintro ⟨i, l, -, hl, x, mem, above⟩
      have := points i l hl x mem
      omega
    · rintro ⟨i, x, -, hx, noDay | ⟨j, y, lt, hy, date⟩⟩
      · simpa [noDay] using (specials i x hx).1
      · exact (specials i x hx).2 j y hy lt.ne date
    · exact id
  · intro ok
    obtain ⟨t, bands⟩ : ∃ t, c.bands = some t :=
      Option.ne_none_iff_exists'.mp fun absent => ok 1 0 (.inl ⟨rfl, .inl absent⟩)
    have nb : c.nb = t.entries.length := by rw [Calendar.nb, bands]
    refine ⟨⟨t, bands, ?_, fun e mem => ?_, ?_, fun i points hi p mem => ?_⟩, ?_,
      fun i x hx => ⟨?_, fun j y hy ne => ?_⟩, fun i w hw d => ?_, fun i x hx => ⟨?_, fun j y hy ne => ?_⟩⟩
    · by_contra above
      exact ok 1 0 (.inl ⟨rfl, .inr ⟨t, bands, not_lt.mp above⟩⟩)
    · by_contra above
      obtain ⟨k, he⟩ := List.getElem?_of_mem mem
      exact ok 1 k (.inr ⟨t, e, bands, he, .inl (not_lt.mp above)⟩)
    · exact (ranks_nodup_iff _).mpr fun j k e f lt he hf same =>
        ok 1 k (.inr ⟨t, e, bands, he, .inr ⟨j, f, lt, hf, same⟩⟩)
    · by_contra above
      exact ok 4 i ⟨i, points, rfl, hi, p, mem, by omega⟩
    · by_contra absent
      refine ok 2 0 (.inl ⟨rfl, fun i => ?_⟩)
      by_contra present
      obtain ⟨x, hx⟩ := Option.ne_none_iff_exists'.mp present
      exact absent ⟨i, x, hx⟩
    · by_contra noWeek
      exact ok 2 i (.inr ⟨i, x, rfl, hx, .inl (by simpa using noWeek)⟩)
    · refine distinct_of_lt (f := fun x : Season => (x.month, x.day)) (fun i j x y lt hx hy same => ?_) hx hy ne
      obtain ⟨month, day⟩ := Prod.mk.inj same
      exact ok 2 i (.inr ⟨i, x, rfl, hx, .inr ⟨j, y, lt, hy, month, day⟩⟩)
    · by_contra noDay
      exact ok 3 i ⟨i, w, rfl, hw, d, by simpa using noDay⟩
    · by_contra noDay
      exact ok 5 i ⟨i, x, rfl, hx, .inl (by simpa using noDay)⟩
    · refine distinct_of_lt (f := Special.date) (fun i j x y lt hx hy same => ?_) hx hy ne
      exact ok 5 i ⟨i, x, rfl, hx, .inr ⟨j, y, lt, hy, same⟩⟩

theorem validate_eq_none_iff_valid (c : Calendar) : c.validate = none ↔ ValidCalendar c :=
  (validate_eq_none_iff c).trans (validCalendar_iff c).symm

/-- The fallback band of a valid calendar is one of its bands. -/
theorem fallback_lt_nb {c : Calendar} (h : ValidCalendar c) : c.fallback.val < c.nb := by
  obtain ⟨⟨t, bands, fallback, -⟩, -⟩ := h
  rwa [Calendar.nb, Calendar.fallback, bands]

/-- Every band a day profile of a valid calendar gives is one of the calendar's. -/
theorem bandAt_lt_nb {c : Calendar} (h : ValidCalendar c) {i : Fin 12} {points : List SwitchPoint}
    (profile : c.days[i] = some points) (minute : Nat) : ((bandAt points minute).getD c.fallback).val < c.nb := by
  cases band : bandAt points minute with
  | none => exact fallback_lt_nb h
  | some b =>
    obtain ⟨x, mem, rfl⟩ := exists_of_bandAt band
    obtain ⟨⟨t, bands, -, -, -, below⟩, -⟩ := h
    rw [Calendar.nb, bands]
    exact below i points profile x mem

/-- A valid calendar gives one of its bands at every minute. -/
theorem bandFor_lt_nb {c : Calendar} (h : ValidCalendar c) (day minute : Nat) :
    (c.bandFor day minute).1.val < c.nb := by
  unfold Calendar.bandFor
  split
  · exact fallback_lt_nb h
  · split
    · exact fallback_lt_nb h
    next profile => exact bandAt_lt_nb h profile minute

/-- Settles O21: the failures are those of the checks, a valid calendar has none, and its bands lie below nb. -/
theorem validationIsExact : Obligations.ValidationIsExact := fun c =>
  ⟨validate_eq_none_iff_valid c, validate_eq_some_iff c,
    fun pass => bandFor_lt_nb ((validate_eq_none_iff_valid c).mp pass)⟩

end Sys2Proof.Machine
end

section
/-! PROOFS. The band in effect (R53, R55, R69, R73, R75): every step keeps the active calendar valid and the band below
its nb. What the soundness looks at is named once; operations that leave it alone are told apart from those that write
it. -/
namespace Sys2Proof.Machine
open Sys2Proof.Claim

/-! ### Soundness of the band, part by part -/

/-- The passive calendar, where there is one, is valid. -/
def State.PassiveValid (s : State) : Prop := ∀ c, s.cal.passive = some c → c.valid = true

/-- Every calendar part the memory holds is of a valid calendar. -/
def Store.CalendarsOk (m : Store) : Prop := ∀ e ∈ m, e.2.calendarOk = true

/-- The calendar being written, where there is one, is valid. -/
def Hst.WrittenValid (h : Hst) : Prop := ∀ j, h.calJob = some j → j.content.valid = true

/-- The active calendar is valid, and so is whatever may become the active one. -/
structure State.CalendarsSound (s : State) : Prop where
  active : s.cal.active.valid = true
  passive : s.passiveCommitted = true → s.PassiveValid
  stored : Store.CalendarsOk s.hst.store
  written : s.hst.WrittenValid
  stage : s.sup.stage = .done ∨ s.sup.supply = .starting ∧ s.cal.passive = none

/-- What `State.bandOk` says, by its parts. -/
structure State.BandSound (s : State) : Prop extends s.CalendarsSound where
  band : s.cal.band.val < s.cal.active.nb

theorem bandOk_iff (s : State) : s.bandOk = true ↔ s.BandSound := by
  simp only [State.bandOk, Bool.and_eq_true, Bool.or_eq_true, decide_eq_true_eq, List.all_eq_true, beq_iff_eq,
    Option.isNone_iff_eq_none]
  constructor
  · rintro ⟨⟨⟨⟨⟨active, band⟩, passive⟩, stored⟩, written⟩, stage⟩
    refine ⟨⟨active, fun committed c hc => ?_, stored, fun j hj => ?_, stage⟩, band⟩
    · simpa [hc, committed] using passive
    · simpa [hj] using written
  · rintro ⟨⟨active, passive, stored, written, stage⟩, band⟩
    refine ⟨⟨⟨⟨⟨active, band⟩, ?_⟩, stored⟩, ?_⟩, stage⟩
    · split
      next c hc =>
        cases committed : s.passiveCommitted with
        | true => simp [passive committed c hc]
        | false => simp
      next => rfl
    · split
      next j hj => exact written j hj
      next => rfl

/-- `t` has the calendars of `s`, in force, being written and in the memory, at the same stage of recovery. -/
def SameCalendars (s t : State) : Prop :=
  t.cal.active = s.cal.active ∧ t.cal.band = s.cal.band ∧ t.cal.passive = s.cal.passive ∧
    t.hst.store = s.hst.store ∧ t.hst.calJob = s.hst.calJob ∧ t.sup.stage = s.sup.stage ∧
    t.sup.supply = s.sup.supply

/-- `t` differs from `s` in nothing the soundness of the band looks at. -/
def SameBand (s t : State) : Prop :=
  SameCalendars s t ∧ t.cal.activation = s.cal.activation ∧ t.set.owed = s.set.owed ∧
    t.hst.calWaiting = s.hst.calWaiting

theorem SameBand.of_frame {s t : State} (cal : t.cal = s.cal) (set : t.set = s.set) (hst : t.hst = s.hst)
    (sup : t.sup = s.sup) : SameBand s t := by
  simp [SameBand, SameCalendars, cal, set, hst, sup]

theorem raise_sameBand (n : Notice) (s : State) : SameBand s (raise n s) := .of_frame rfl rfl rfl rfl

theorem passiveCommitted_iff (s : State) :
    s.passiveCommitted = true ↔ s.cal.activation ≠ none ∨ s.activationOwed = true ∨
      ∃ w ∈ s.hst.calWaiting, w.ofActive = false := by
  simp [State.passiveCommitted, Option.isSome_iff_ne_none, or_assoc]

theorem activationOwed_iff (s : State) : s.activationOwed = true ↔ ∃ o, s.set.owed = some o ∧ o.calFlag = true := by
  cases owed : s.set.owed <;> simp [State.activationOwed, owed]

/-- With the same calendars, what is committed for activation was so before, or is valid. -/
theorem State.BandSound.recommit {s t : State} (S : s.BandSound) (same : SameCalendars s t)
    (committed : t.passiveCommitted = true → s.passiveCommitted = true ∨ s.PassiveValid) : t.BandSound := by
  obtain ⟨active, band, passive, store, job, stage, supply⟩ := same
  have valid : s.PassiveValid → t.PassiveValid := by simp only [State.PassiveValid, passive, imp_self]
  refine ⟨⟨by rw [active]; exact S.active, fun c => valid ?_, by rw [store]; exact S.stored, ?_, ?_⟩, ?_⟩
  · exact (committed c).elim S.passive id
  · simpa only [Hst.WrittenValid, job] using S.written
  · rw [stage, supply, passive]
    exact S.stage
  · rw [band, active]
    exact S.band

theorem State.BandSound.of_same {s t : State} (S : s.BandSound) (same : SameBand s t) : t.BandSound := by
  obtain ⟨calendars, activation, owed, waiting⟩ := same
  refine S.recommit calendars fun c => .inl ?_
  rw [passiveCommitted_iff, activationOwed_iff] at c ⊢
  rwa [activation, owed, waiting] at c

/-- Outside STARTING recovery is done. -/
theorem State.CalendarsSound.done {s : State} (S : s.CalendarsSound) (h : s.sup.supply ≠ .starting) :
    s.sup.stage = .done :=
  S.stage.resolve_right fun starting => h starting.1

/-- Before recovery is done there is no passive calendar, in STARTING. -/
theorem State.CalendarsSound.recovering {s : State} (S : s.CalendarsSound) (h : s.sup.stage ≠ .done) :
    s.sup.supply = .starting ∧ s.cal.passive = none :=
  S.stage.resolve_left h

/-! ### The memory -/

theorem Store.CalendarsOk.put {m : Store} (h : Store.CalendarsOk m) (k : Nat) {c : SlotContent}
    (ok : c.calendarOk = true) : Store.CalendarsOk (Store.put m k c) := by
  intro e mem
  rcases Store.mem_put mem with rfl | old
  · exact ok
  · exact h e old

theorem Store.CalendarsOk.erased {m : Store} (h : Store.CalendarsOk m) (sector : Nat) (b : BitVec 16) :
    Store.CalendarsOk (Store.erased m sector b) := by
  intro e mem
  rcases Store.mem_erased mem with junk | old
  · rw [junk]
    rfl
  · exact h e old

/-- What a slot is read to hold is in the list. -/
theorem Store.mem_of_at {m : Store} {k : Nat} {c : SlotContent} (h : Store.at m k = some c) : (k, c) ∈ m := by
  induction m with
  | nil => cases h
  | cons a m ih =>
    obtain ⟨j, d⟩ := a
    rw [Store.at] at h
    split_ifs at h with same
    · obtain rfl := same
      obtain rfl := Option.some.inj h
      exact .head _
    · exact .tail _ (ih h)

/-- An image found in a sector is of a valid calendar. -/
theorem imageIn_valid {m : Store} {sector : Nat} {c : Calendar} (ok : Store.CalendarsOk m)
    (h : imageIn m sector = some c) : c.valid = true := by
  have part {n total : Nat} (hp : partIn m sector n total = some c) : c.valid = true := by
    obtain ⟨i, -, hi⟩ := List.mem_filterMap.mp (List.mem_of_head? hp)
    split at hi
    next k t d slot =>
      split_ifs at hi
      obtain rfl := Option.some.inj hi
      exact ok _ (Store.mem_of_at slot)
    next => cases hi
  unfold imageIn at h
  split at h
  · exact part h
  · cases h

/-! ### What leaves the calendars of the store alone -/

@[simp] theorem enterErase_images (x : Nat) (h : Hst) :
    (h.enterErase x).store = h.store ∧ (h.enterErase x).calJob = h.calJob ∧
      (h.enterErase x).calWaiting = h.calWaiting := by
  unfold Hst.enterErase
  split_ifs <;> simp

@[simp] theorem judgeLogPreErase_images (h : Hst) :
    h.judgeLogPreErase.store = h.store ∧ h.judgeLogPreErase.calJob = h.calJob ∧
      h.judgeLogPreErase.calWaiting = h.calWaiting := by
  unfold Hst.judgeLogPreErase
  dsimp only
  split_ifs <;> simp

@[simp] theorem reserve_images (k : Nat) (h : Hst) :
    (h.reserve k).store = h.store ∧ (h.reserve k).calJob = h.calJob ∧ (h.reserve k).calWaiting = h.calWaiting :=
  ⟨rfl, rfl, rfl⟩

@[simp] theorem judgeRingPreErase_images (h : Hst) :
    h.judgeRingPreErase.1.store = h.store ∧ h.judgeRingPreErase.1.calJob = h.calJob ∧
      h.judgeRingPreErase.1.calWaiting = h.calWaiting := by
  unfold Hst.judgeRingPreErase
  dsimp only
  split_ifs <;> simp

@[simp] theorem suspendErase_images (h : Hst) :
    h.suspendErase.store = h.store ∧ h.suspendErase.calJob = h.calJob ∧ h.suspendErase.calWaiting = h.calWaiting := by
  unfold Hst.suspendErase
  split <;> simp

@[simp] theorem chooseSlot_images (k : Nat) (h : Hst) :
    (h.chooseSlot k).2.store = h.store ∧ (h.chooseSlot k).2.calJob = h.calJob ∧
      (h.chooseSlot k).2.calWaiting = h.calWaiting := by
  unfold Hst.chooseSlot
  split <;> simp

@[simp] theorem rebind_images (h : Hst) :
    h.rebind.store = h.store ∧ h.rebind.calJob = h.calJob ∧ h.rebind.calWaiting = h.calWaiting := by
  unfold Hst.rebind
  split <;> simp

@[simp] theorem scanLog_images (h : Hst) :
    h.scanLog.store = h.store ∧ h.scanLog.calJob = h.calJob ∧ h.scanLog.calWaiting = h.calWaiting := by
  unfold Hst.scanLog
  split <;> simp

@[simp] theorem requestCheckpoint_images (c : Cause) (s : State) :
    (requestCheckpoint c s).hst.store = s.hst.store ∧ (requestCheckpoint c s).hst.calJob = s.hst.calJob ∧
      (requestCheckpoint c s).hst.calWaiting = s.hst.calWaiting := by
  unfold requestCheckpoint
  split_ifs <;> simp

@[simp] theorem failCheckpoints_images (s : State) :
    (failCheckpoints s).hst.store = s.hst.store ∧ (failCheckpoints s).hst.calJob = s.hst.calJob ∧
      (failCheckpoints s).hst.calWaiting = s.hst.calWaiting := ⟨rfl, rfl, rfl⟩

@[simp] theorem judgeRing_images (s : State) :
    (judgeRing s).hst.store = s.hst.store ∧ (judgeRing s).hst.calJob = s.hst.calJob ∧
      (judgeRing s).hst.calWaiting = s.hst.calWaiting := by
  unfold judgeRing
  dsimp only
  split_ifs <;> simp

@[simp] theorem failLog_images (s : State) :
    (failLog s).hst.store = s.hst.store ∧ (failLog s).hst.calJob = s.hst.calJob ∧
      (failLog s).hst.calWaiting = s.hst.calWaiting := ⟨rfl, rfl, rfl⟩

theorem requestCheckpoint_sameBand (c : Cause) (s : State) : SameBand s (requestCheckpoint c s) := by
  simp [SameBand, SameCalendars]

theorem judgeRing_sameBand (s : State) : SameBand s (judgeRing s) := by simp [SameBand, SameCalendars]

theorem failCheckpoints_sameBand (s : State) : SameBand s (failCheckpoints s) := by simp [SameBand, SameCalendars]

theorem failLog_sameBand (s : State) : SameBand s (failLog s) := by simp [SameBand, SameCalendars]

theorem judgeLogPreErase_sameBand (s : State) : SameBand s (updHst Hst.judgeLogPreErase s) := by
  simp [SameBand, SameCalendars]

theorem grantCheckpoint_sameBand (k : Nat) (s : State) : SameBand s (grantCheckpoint k s) := by
  unfold grantCheckpoint
  split
  · simp [SameBand, SameCalendars]
  · split <;> simp [SameBand, SameCalendars]

theorem withdrawLost_sameBand (s : State) : SameBand s (withdrawLost s) := by
  unfold withdrawLost
  split_ifs <;> simp [SameBand, SameCalendars]

/-! ### The evaluation puts a band of the active calendar into effect -/

theorem valid_iff (c : Calendar) : c.valid = true ↔ ValidCalendar c := by
  rw [Calendar.valid, Option.isNone_iff_eq_none, validate_eq_none_iff_valid]

theorem evaluate_lt_nb (t : Tim) {c : Cal} (h : c.active.valid = true) : (evaluate t c).1.val < c.active.nb := by
  have valid := (valid_iff _).mp h
  cases time : t.valid with
  | false =>
    rw [evaluate_invalid c time]
    exact fallback_lt_nb valid
  | true =>
    cases entry : c.map[c.mapIndex] with
    | calendar =>
      rw [evaluate_calendar time entry]
      exact bandFor_lt_nb valid _ _
    | force k =>
      rw [evaluate_force time entry]
      split_ifs with below
      · exact below
      · exact fallback_lt_nb valid

theorem evalBand_cal (s : State) :
    (evalBand s).cal =
      { s.cal with band := (evaluate s.tim s.cal).1, source := (evaluate s.tim s.cal).2 } := by
  simp only [evalBand]
  split_ifs <;> rfl

/-- Whatever the band was, the evaluation leaves it one of the active calendar's. -/
theorem State.CalendarsSound.evalBand {s : State} (S : s.CalendarsSound) : (evalBand s).BandSound := by
  have committed : (Machine.evalBand s).passiveCommitted = s.passiveCommitted := by
    simp [State.passiveCommitted, State.activationOwed, evalBand_cal]
  refine ⟨⟨?_, ?_, ?_, ?_, ?_⟩, ?_⟩
  · rw [evalBand_cal]
    exact S.active
  · rw [committed, State.PassiveValid, evalBand_cal]
    exact S.passive
  · simpa using S.stored
  · simpa using S.written
  · simpa [evalBand_cal] using S.stage
  · rw [evalBand_cal]
    exact evaluate_lt_nb _ S.active

theorem State.BandSound.overrideChange {s : State} (S : s.BandSound) : (overrideChange s).BandSound := by
  unfold Machine.overrideChange
  split_ifs
  · exact S
  · exact S.evalBand

theorem State.BandSound.updLine {s : State} (S : s.BandSound) (i : Fin 2) (f : OvLine → OvLine) :
    (updLine i f s).BandSound := by
  have written : ({ s with cal := { s.cal with lines := s.cal.lines.set i (f s.cal.lines[i]) } } : State).BandSound :=
    S.of_same ⟨⟨rfl, rfl, rfl, rfl, rfl, rfl, rfl⟩, rfl, rfl, rfl⟩
  unfold Machine.updLine
  dsimp only
  split_ifs
  · exact written.overrideChange
  · exact written

/-! ### Activations, closes and what commits to one (R64, R69 to R76, R85 to R91) -/

/-- Another owed-close record: where it carries an activation, one was owed before or the passive calendar is valid. -/
theorem State.BandSound.withOwed {s : State} (S : s.BandSound) (o : Option Owed)
    (carried : ∀ x, o = some x → x.calFlag = true → s.activationOwed = true ∨ s.PassiveValid) :
    ({ s with set := { s.set with owed := o } } : State).BandSound := by
  refine S.recommit ⟨rfl, rfl, rfl, rfl, rfl, rfl, rfl⟩ fun c => ?_
  rw [passiveCommitted_iff, activationOwed_iff] at c
  rw [passiveCommitted_iff]
  rcases c with activation | ⟨x, hx, flag⟩ | waits
  · exact .inl (.inl activation)
  · exact (carried x hx flag).imp_left fun owed => .inr (.inl owed)
  · exact .inl (.inr (.inr waits))

/-- An activation owed is of a valid passive calendar. -/
theorem State.CalendarsSound.passiveValid_of_owed {s : State} (S : s.CalendarsSound) (h : s.activationOwed = true) :
    s.PassiveValid :=
  S.passive ((passiveCommitted_iff s).mpr (.inr (.inl h)))

theorem State.BandSound.activate {s : State} (S : s.BandSound) (valid : s.PassiveValid) : (activate s).BandSound := by
  unfold Machine.activate
  split
  · exact S
  next c passive =>
    refine State.BandSound.of_same (State.BandSound.of_same ?_ (raise_sameBand .calendar _))
      (requestCheckpoint_sameBand _ _)
    refine State.CalendarsSound.evalBand ⟨valid c passive, fun _ d hd => ?_, S.stored, fun j hj => ?_, ?_⟩
    · cases hd
    · obtain ⟨j', before, rfl⟩ := Option.map_eq_some_iff.mp hj
      exact S.written j' before
    · exact S.stage.imp_right fun starting => ⟨starting.1, rfl⟩

/-- Stages 1 to 4 of a close: its snapshot is queued, and the next period opens (R91). -/
def periodOpened (o : CloseOrder) (slot : Nat) (s : State) : State :=
  openPeriod (updHst (fun h => ({ h.reserve slot with
    queue := h.queue ++ [{ snap := snapshotNow o s, slot := slot, fails := 0 }] } : Hst).judgeLogPreErase) s)

/-- Stages 6 to 8 of a close: the notice, the billing date, and no close owed (R91). -/
def closeEnded (o : CloseOrder) (s : State) : State :=
  let u := raise .periodClosed s
  let v := if o.reason = .scheduled then { u with tim := { u.tim with lastClose := o.date } } else u
  { v with set := { v.set with owed := none } }

theorem performClose_eq (o : CloseOrder) (slot : Nat) (s : State) :
    performClose o slot s =
      closeEnded o (if o.activates then activate (periodOpened o slot s) else periodOpened o slot s) :=
  rfl

theorem periodOpened_sameBand (o : CloseOrder) (slot : Nat) (s : State) : SameBand s (periodOpened o slot s) := by
  simp [periodOpened, SameBand, SameCalendars]

theorem State.BandSound.closeEnded {s : State} (S : s.BandSound) (o : CloseOrder) : (closeEnded o s).BandSound := by
  unfold Machine.closeEnded
  refine State.BandSound.withOwed (S.of_same ?_) none fun x hx => by cases hx
  split_ifs <;> simp [SameBand, SameCalendars]

/-- A close that carries an activation needs a valid passive calendar. -/
theorem State.BandSound.performClose {s : State} (S : s.BandSound) {o : CloseOrder} (slot : Nat)
    (valid : o.activates = true → s.PassiveValid) : (performClose o slot s).BandSound := by
  have opened : (periodOpened o slot s).BandSound := S.of_same (periodOpened_sameBand o slot s)
  rw [performClose_eq]
  split_ifs with activates
  · refine (opened.activate ?_).closeEnded o
    simpa [State.PassiveValid, periodOpened] using valid activates
  · exact opened.closeEnded o

/-- A CALENDAR trigger needs a valid passive calendar. -/
theorem State.BandSound.trigger {s : State} (S : s.BandSound) {r : Reason} (date : Option Nat)
    (valid : r = .calendar → s.PassiveValid) : (trigger r date s).BandSound := by
  unfold Machine.trigger
  split
  next o owed =>
    refine State.BandSound.of_same (S.withOwed _ fun x hx flag => ?_) (raise_sameBand _ _)
    obtain rfl := Option.some.inj hx
    have carried : o.calFlag = true ∨ r = .calendar := by simpa [Owed.merge] using flag
    exact carried.imp (fun flag => (activationOwed_iff s).mpr ⟨o, owed, flag⟩) valid
  next =>
    split
    · exact S.performClose _ fun activates => valid (by simpa [triggerOrder] using activates)
    · refine State.BandSound.of_same (S.withOwed _ fun x hx flag => ?_) (raise_sameBand _ _)
      obtain rfl := Option.some.inj hx
      exact .inr (valid (by simpa using flag))

theorem State.BandSound.retryOwed {s : State} (S : s.BandSound) : (retryOwed s).BandSound := by
  unfold Machine.retryOwed
  split
  next o owed =>
    split
    · exact S.performClose _ fun flag => S.passiveValid_of_owed ((activationOwed_iff s).mpr ⟨o, owed, flag⟩)
    · exact S
  next => exact S

theorem State.BandSound.localMidnight {s : State} (S : s.BandSound) : (localMidnight s).BandSound := by
  unfold Machine.localMidnight
  dsimp only
  split_ifs
  · exact (S.trigger _ fun h => by cases h).retryOwed
  · exact S.retryOwed

theorem State.BandSound.stepTrigger {s : State} (S : s.BandSound) (due : Option Nat) :
    (stepTrigger due s).BandSound := by
  unfold Machine.stepTrigger
  split
  · split_ifs
    · exact S
    · exact S.trigger _ fun h => by cases h
  · exact S

theorem State.BandSound.checkActivation {s : State} (S : s.BandSound) : (checkActivation s).BandSound := by
  unfold Machine.checkActivation
  split_ifs with due
  · have some_time : s.cal.activation ≠ none := by
      intro absent
      simp [activationDue, absent] at due
    have valid : s.PassiveValid := S.passive ((passiveCommitted_iff s).mpr (.inl some_time))
    refine State.BandSound.trigger ?_ none fun _ => valid
    exact S.recommit ⟨rfl, rfl, rfl, rfl, rfl, rfl, rfl⟩ fun _ => .inr valid
  · exact S

/-! ### The wall-time events (R47 to R50, R72, R81, R82) -/

/-- The count of free values does not matter. -/
theorem State.BandSound.draws {s : State} (S : s.BandSound) (n : Nat) : ({ s with draws := n } : State).BandSound :=
  S.of_same (.of_frame rfl rfl rfl rfl)

theorem State.BandSound.retryIf {s : State} (S : s.BandSound) (b : Bool) :
    (if b then Machine.retryOwed s else s).BandSound := by
  split_ifs
  · exact S.retryOwed
  · exact S

theorem State.BandSound.calendarEvent {s : State} (S : s.BandSound) : (calendarEvent s).BandSound :=
  eitherIf_keeps _ S (fun T => T.draws _) (fun _ T => T.evalBand) fun _ T => T.checkActivation

theorem State.BandSound.localMinute {s : State} (S : s.BandSound) : (localMinute s).BandSound := by
  unfold Machine.localMinute
  split_ifs
  · refine anyOrder_keeps S (fun n T => T.draws n) fun f mem t T => ?_
    simp only [List.mem_cons, List.not_mem_nil, or_false] at mem
    rcases mem with rfl | rfl | rfl
    · exact T.evalBand
    · exact T.checkActivation
    · exact T.localMidnight
  · exact S.evalBand.localMidnight
  · exact S.calendarEvent

theorem State.BandSound.takeStep {s : State} (S : s.BandSound) (resume : Bool) (earlier : Option Nat) :
    (takeStep resume earlier s).BandSound := by
  unfold Machine.takeStep
  split_ifs
  · refine anyOrder_keeps S (fun n T => T.draws n) fun f mem t T => ?_
    simp only [List.mem_cons, List.not_mem_nil, or_false] at mem
    rcases mem with rfl | rfl | rfl | rfl
    · exact T.evalBand
    · exact T.checkActivation
    · exact T.stepTrigger _
    · exact T.retryIf _
  · exact eitherIf_keeps _ S.evalBand (fun T => T.draws _) (fun _ T => T.stepTrigger _) fun _ T => T.retryIf _

theorem State.BandSound.capExpiry {s : State} (S : s.BandSound) : (capExpiry s).BandSound :=
  S.of_same (.of_frame (by simp) (by simp) (by simp) (by simp))

theorem State.BandSound.stepEvent {s : State} (S : s.BandSound) (resume : Bool) (earlier : Option Nat) :
    (stepEvent resume earlier s).BandSound :=
  S.capExpiry.takeStep resume earlier

theorem State.BandSound.secondTick {s : State} (S : s.BandSound) : (secondTick s).BandSound := by
  unfold Machine.secondTick
  dsimp only
  set u := markCountEnd _ _ with hu
  have counted : u.BandSound := S.of_same (.of_frame (by simp [hu]) (by simp [hu]) (by simp [hu]) (by simp [hu]))
  split_ifs
  · unfold secondInRun secondEvents
    dsimp only
    split_ifs
    · exact counted.stepEvent _ _
    · exact counted.capExpiry.localMinute
    · exact counted.capExpiry
    · exact counted
  · exact counted

end Sys2Proof.Machine
end

section
/-! PROOFS. The band in effect, continued: the store engine, the resets, recovery, the requests, and the step. -/
namespace Sys2Proof.Machine
open Sys2Proof.Claim

/-! ### The store engine (R71, R148, R153, R154) -/

/-- An update of the History Store that writes no invalid calendar and puts no write of the passive calendar in line. -/
theorem State.BandSound.updHst {s : State} (S : s.BandSound) {f : Hst → Hst}
    (stored : Store.CalendarsOk (f s.hst).store) (written : (f s.hst).WrittenValid)
    (waiting : ∀ w ∈ (f s.hst).calWaiting, w.ofActive = false → w ∈ s.hst.calWaiting) :
    (updHst f s).BandSound := by
  refine ⟨⟨S.active, fun c => S.passive ?_, stored, written, S.stage⟩, S.band⟩
  rw [passiveCommitted_iff] at c ⊢
  rcases c with activation | owed | ⟨w, mem, passive⟩
  · exact .inl activation
  · exact .inr (.inl owed)
  · exact .inr (.inr ⟨w, waiting w mem passive, passive⟩)

@[simp] theorem beginErase_images (x : Nat) (h : Hst) :
    (h.beginErase x).store = Store.erased h.store x (BitVec.allOnes 16) ∧ (h.beginErase x).calJob = h.calJob ∧
      (h.beginErase x).calWaiting = h.calWaiting := by
  simp only [Hst.beginErase, and_self]

theorem State.BandSound.beginErase {s : State} (S : s.BandSound) (x : Nat) :
    (Machine.updHst (Hst.beginErase x) s).BandSound := by
  obtain ⟨store, job, waiting⟩ := beginErase_images x s.hst
  refine S.updHst ?_ ?_ fun w mem _ => ?_
  · rw [store]
    exact S.stored.erased x _
  · rw [Hst.WrittenValid, job]
    exact S.written
  · rwa [waiting] at mem

theorem State.BandSound.nextErase {s : State} (S : s.BandSound) : (Machine.updHst Hst.nextErase s).BandSound := by
  cases found : s.hst.eraseList.find? fun x => !s.hst.locked x with
  | none =>
    have same : Machine.updHst Hst.nextErase s = s := by simp [Machine.updHst, Hst.nextErase, found]
    rwa [same]
  | some x =>
    have begun : Machine.updHst Hst.nextErase s = Machine.updHst (Hst.beginErase x) s := by
      simp [Machine.updHst, Hst.nextErase, found]
    rw [begun]
    exact S.beginErase x

/-- The content a write captures is a valid calendar: the active one, or the passive one that is committed. -/
theorem State.CalendarsSound.content_valid {s : State} (S : s.CalendarsSound) {w : CalWrite}
    (mem : w ∈ s.hst.calWaiting) : (w.content s.cal).valid = true := by
  unfold CalWrite.content
  split_ifs with ofActive
  · exact S.active
  · cases passive : s.cal.passive with
    | none => exact S.active
    | some c =>
      refine S.passive ((passiveCommitted_iff s).mpr (.inr (.inr ⟨w, mem, ?_⟩))) c passive
      simpa using ofActive

theorem State.BandSound.grantWrite {s : State} (S : s.BandSound) {w : CalWrite} {rest : List CalWrite}
    (waiting : s.hst.calWaiting = w :: rest) : (grantWrite w rest s).BandSound := by
  have valid : (w.content s.cal).valid = true := S.content_valid (by simp [waiting])
  unfold Machine.grantWrite
  refine S.updHst ?_ (fun j hj => ?_) fun x mem _ => ?_
  · rw [(beginErase_images w.sector s.hst).1]
    exact S.stored.erased w.sector _
  · obtain rfl := Option.some.inj hj
    exact valid
  · rw [waiting]
    exact .tail _ mem

theorem State.BandSound.arbitrateRun {s : State} (S : s.BandSound) : (arbitrateRun s).BandSound := by
  unfold Machine.arbitrateRun
  split
  · exact S.of_same (by simp [SameBand, SameCalendars])
  · split
    · split_ifs
      · exact S.nextErase
      · exact S.of_same (by simp [SameBand, SameCalendars])
    next waiting => exact S.grantWrite waiting
    · exact S.nextErase

theorem State.BandSound.arbitrate {s : State} (S : s.BandSound) : (arbitrate s).BandSound := by
  unfold Machine.arbitrate
  split
  · exact S
  · split
    · exact S.of_same (by simp [SameBand, SameCalendars])
    · split
      · exact S.of_same (by simp [SameBand, SameCalendars])
      · split
        · exact S.of_same (grantCheckpoint_sameBand _ s)
        · split
          · exact S.arbitrateRun
          · exact S

/-! ### Resets and the end of a command (R156, R170, R171) -/

theorem builtIn_valid : Calendar.builtIn.valid = true := by decide

theorem Store.CalendarsOk.tear {m : Store} (h : Store.CalendarsOk m) (t : Torn) (k : Nat) {c : SlotContent}
    (ok : c.calendarOk = true) : Store.CalendarsOk (tearSlot t k c m) := by
  cases t with
  | blank => exact h
  | written => exact h.put k ok
  | invalid => exact h.put k rfl

/-- The program that a reset interrupts writes no invalid calendar. -/
theorem State.CalendarsSound.tornStore {s : State} (S : s.CalendarsSound) : Store.CalendarsOk (tornStore s) := by
  unfold Machine.tornStore
  dsimp only
  split
  · split
    · exact S.stored.tear _ _ rfl
    · exact S.stored
  · split_ifs
    · exact (S.stored.tear _ _ rfl).tear _ _ rfl
    · exact S.stored.tear _ _ rfl
  · split
    next j hj => exact S.stored.tear _ _ (S.written j hj)
    next => exact S.stored
  · exact S.stored

theorem State.BandSound.resetWith {s : State} (S : s.BandSound) (utc subMs : Nat) (valid : Bool) :
    (resetWith utc subMs valid s).BandSound := by
  refine ⟨⟨builtIn_valid, fun _ c hc => ?_, S.tornStore, fun j hj => ?_, .inr ⟨rfl, rfl⟩⟩, ?_⟩
  · cases hc
  · cases hj
  · exact Nat.zero_lt_one

theorem State.BandSound.resetEngine {s : State} (S : s.BandSound) : (resetEngine s).BandSound := S.resetWith _ _ _

theorem State.BandSound.powerOn {s : State} (S : s.BandSound) : (powerOn s).BandSound := by
  unfold Machine.powerOn
  split_ifs
  · exact S.resetEngine
  · exact S.resetWith _ _ _

theorem State.BandSound.supplyLost {s : State} (S : s.BandSound) : (supplyLost s).BandSound :=
  S.resetEngine.of_same ⟨⟨rfl, rfl, rfl, rfl, rfl, rfl, rfl⟩, rfl, rfl, rfl⟩

theorem State.BandSound.finish {s : State} (S : s.BandSound) : (finish s).BandSound := by
  unfold Machine.finish
  refine State.BandSound.of_same ?_ (withdrawLost_sameBand _)
  split_ifs
  · exact S.resetEngine.arbitrate
  · exact S.arbitrate

theorem State.BandSound.command {s : State} (S : s.BandSound) {f : State → State} (h : (f s).BandSound) :
    (command f s).BandSound := by
  unfold Machine.command
  split_ifs
  · exact h.finish
  · exact S

/-! ### The ends of programs, erases and reads (R146, R151, R153, R158 to R160) -/

theorem State.BandSound.snapshotProgrammed {s : State} (S : s.BandSound) (valid : Bool) :
    (snapshotProgrammed valid s).BandSound := by
  unfold Machine.snapshotProgrammed
  split
  · split_ifs
    · refine State.BandSound.of_same (State.BandSound.retryOwed ?_) (requestCheckpoint_sameBand _ _)
      exact S.updHst (S.stored.put _ rfl) S.written fun _ mem _ => mem
    · unfold snapshotFailed
      dsimp only
      set u := Machine.updHst _ s with hu
      have failed : u.BandSound := S.updHst (by simpa using S.stored.put _ rfl)
        (by simpa [Hst.WrittenValid] using S.written) fun w mem _ => by simpa using mem
      split_ifs
      · exact failed.of_same (failLog_sameBand _)
      · exact failed
  · exact S

theorem State.BandSound.checkpointProgrammed {s : State} (S : s.BandSound) (valid0 valid1 : Bool) :
    (checkpointProgrammed valid0 valid1 s).BandSound := by
  have half (valid : Bool) (n : Fin 2) (c : Checkpoint) : (halfContent valid n c).calendarOk = true := by
    cases valid <;> rfl
  unfold Machine.checkpointProgrammed
  split
  next c position retry _ =>
    have programmed : (Machine.updHst (Hst.programHalves c position valid0 valid1) s).BandSound :=
      S.updHst ((S.stored.put _ (half _ _ _)).put _ (half _ _ _)) S.written fun _ mem _ => mem
    dsimp only
    split_ifs
    · exact (programmed.of_same (by simp [SameBand, SameCalendars])).of_same (judgeRing_sameBand _)
    · exact (programmed.of_same (failCheckpoints_sameBand _)).of_same (judgeRing_sameBand _)
    · exact (programmed.of_same (by simp [SameBand, SameCalendars])).of_same (judgeRing_sameBand _)
  · exact S

theorem State.BandSound.failCalendar {s : State} (S : s.BandSound) : (failCalendar s).BandSound := by
  refine State.BandSound.of_same (S.updHst S.stored ?_ ?_) (raise_sameBand _ _)
  · rintro j ⟨⟩
  · rintro w ⟨⟩

theorem State.BandSound.writeComplete {s : State} (S : s.BandSound) (j : CalJob) : (writeComplete j s).BandSound := by
  have ended : (Machine.updHst (fun h => { h with calJob := none }) s).BandSound :=
    S.updHst S.stored (by rintro j ⟨⟩) fun _ mem _ => mem
  unfold Machine.writeComplete
  dsimp only
  split_ifs
  · exact ended
  all_goals
    refine State.BandSound.of_same (ended.of_same ?_) (requestCheckpoint_sameBand _ _)
    simp [SameBand, SameCalendars]

/-- What the end of a part's program leaves in its slot and of the write (R153, R159). -/
def partWritten (j : CalJob) (valid : Bool) (c : SlotContent) (s : State) : State :=
  updHst (fun h => { h with
    store := Store.put h.store (16 * j.sector + j.slot) c, engine := .idle,
    calJob := some { j with slot := j.slot + 1, next := if valid then j.next + 1 else j.next,
                            failed := j.failed || !valid } }) s

theorem partProgrammed_eq {s : State} {j : CalJob} (engine : s.hst.engine = .part) (job : s.hst.calJob = some j)
    (valid : Bool) :
    partProgrammed valid s =
      if valid then
        if j.next = j.parts then writeComplete j (partWritten j valid (.part j.next j.parts j.content) s)
        else partWritten j valid (.part j.next j.parts j.content) s
      else if j.failed then failCalendar (partWritten j valid .junk s)
      else partWritten j valid .junk s := by
  rw [partProgrammed, engine, job]
  rfl

theorem partProgrammed_absent {s : State} (engine : s.hst.engine ≠ .part ∨ s.hst.calJob = none) (valid : Bool) :
    partProgrammed valid s = s := by
  rw [partProgrammed]
  split
  next part job => rcases engine with h | h <;> simp [part, job] at h
  next => rfl

theorem State.BandSound.partWritten {s : State} (S : s.BandSound) {j : CalJob} (job : s.hst.calJob = some j)
    (valid : Bool) {c : SlotContent} (ok : c.calendarOk = true) : (partWritten j valid c s).BandSound := by
  refine S.updHst (S.stored.put _ ok) (fun k hk => ?_) fun _ mem _ => mem
  obtain rfl := Option.some.inj hk
  exact S.written j job

theorem State.BandSound.partProgrammed {s : State} (S : s.BandSound) (valid : Bool) :
    (partProgrammed valid s).BandSound := by
  by_cases engine : s.hst.engine = .part
  · cases job : s.hst.calJob with
    | none => rwa [partProgrammed_absent (.inr job)]
    | some j =>
      have part := S.partWritten (c := .part j.next j.parts j.content) job valid (S.written j job)
      have junk := S.partWritten (c := .junk) job valid rfl
      rw [partProgrammed_eq engine job]
      split_ifs
      · exact part.writeComplete j
      · exact part
      · exact junk.failCalendar
      · exact junk
  · rwa [partProgrammed_absent (.inl engine)]

theorem State.BandSound.areaLoses {s : State} (S : s.BandSound) (x : Nat) : (areaLoses x s).BandSound := by
  unfold Machine.areaLoses
  split_ifs
  · exact S.of_same (failCheckpoints_sameBand s)
  · exact S.of_same (judgeRing_sameBand s)
  · exact S.of_same (failLog_sameBand s)
  · exact S
  · exact S.failCalendar

theorem State.BandSound.sectorErased {s : State} (S : s.BandSound) (x : Nat) : (sectorErased x s).BandSound := by
  have goesOn : (Machine.updHst (fun h => { h with calJob := h.calJob.map fun j =>
      if j.sector = x then { j with erasing := false } else j }) s).BandSound := by
    refine S.updHst S.stored (fun j hj => ?_) fun _ mem _ => mem
    obtain ⟨k, before, rfl⟩ := Option.map_eq_some_iff.mp hj
    split_ifs
    · exact S.written k before
    · exact S.written k before
  unfold Machine.sectorErased
  refine State.BandSound.of_same ?_ (judgeLogPreErase_sameBand _)
  split_ifs
  · exact goesOn.retryOwed
  · exact goesOn

theorem State.BandSound.retireSector {s : State} (S : s.BandSound) (x : Nat) : (retireSector x s).BandSound := by
  refine State.BandSound.of_same (State.BandSound.areaLoses ?_ x) (judgeLogPreErase_sameBand _)
  exact S.of_same (by simp [SameBand, SameCalendars])

theorem State.BandSound.eraseDone {s : State} (S : s.BandSound) (notBlank : BitVec 16) :
    (eraseDone notBlank s).BandSound := by
  unfold Machine.eraseDone
  split
  next x _ =>
    have erased : (Machine.updHst (fun h => { h with store := Store.erased h.store x notBlank, engine := .idle })
        s).BandSound := S.updHst (S.stored.erased x notBlank) S.written fun _ mem _ => mem
    dsimp only
    split_ifs
    · exact erased.sectorErased x
    · exact erased.retireSector x
  · exact S

theorem answerRead_sameBand (p : Port) (n k : Nat) (s : State) : SameBand s (answerRead p n k s) := by
  unfold answerRead
  split <;> simp [SameBand, SameCalendars]

theorem State.BandSound.readDone {s : State} (S : s.BandSound) (decayed : Bool) : (readDone decayed s).BandSound := by
  unfold Machine.readDone
  split
  next who slot _ =>
    have read : (Machine.updHst (fun h => { h with
        engine := .idle, store := if decayed then Store.put h.store slot .junk else h.store }) s).BandSound := by
      refine S.updHst ?_ S.written fun _ mem _ => mem
      dsimp only
      split_ifs
      · exact S.stored.put _ rfl
      · exact S.stored
    cases who with
    | recovery => exact read.of_same ⟨⟨rfl, rfl, rfl, rfl, rfl, rfl, rfl⟩, rfl, rfl, rfl⟩
    | port p number =>
      refine State.BandSound.of_same (read.of_same ?_) (answerRead_sameBand _ _ _ _)
      exact ⟨⟨rfl, rfl, rfl, rfl, rfl, rfl, rfl⟩, rfl, rfl, rfl⟩
  · exact S

/-! ### Changes of the supply state (R165 to R169) -/

theorem State.BandSound.setSupply {s : State} (S : s.BandSound) (u : Supply) (done : s.sup.stage = .done) :
    (setSupply u s).BandSound :=
  ⟨⟨S.active, S.passive, S.stored, S.written, .inl done⟩, S.band⟩

theorem State.BandSound.enterDown {s : State} (S : s.BandSound) (done : s.sup.stage = .done) :
    (enterDown s).BandSound := by
  have stopped : ({ s with sup := { s.sup with debounce := none } } : State).BandSound :=
    S.of_same ⟨⟨rfl, rfl, rfl, rfl, rfl, rfl, rfl⟩, rfl, rfl, rfl⟩
  exact stopped.setSupply .down done

theorem State.BandSound.enterWarning {s : State} (S : s.BandSound) (done : s.sup.stage = .done) :
    (enterWarning s).BandSound := by
  have stopped : ({ s with
      hst := s.hst.suspendErase
      ulc := s.ulc.stopPolling
      tim := { s.tim with resumeFrom := some s.tim.wall } } : State).BandSound :=
    S.of_same (by simp [SameBand, SameCalendars])
  exact (stopped.setSupply .warning done).of_same (requestCheckpoint_sameBand .powerFail _)

theorem State.BandSound.enterRun {s : State} (S : s.BandSound) (done : s.sup.stage = .done) :
    (enterRun s).BandSound := by
  refine eitherIf_keeps _ ?_ (fun T => T.draws _) (fun t T => ?_) fun _ T => T.stepEvent _ _
  · exact (S.setSupply .run done).of_same (.of_frame rfl rfl rfl rfl)
  · exact T.of_same (.of_frame (by simp) (by simp) (by simp) (by simp))

theorem State.BandSound.rideThrough {s : State} (S : s.BandSound) (done : s.sup.stage = .done) :
    (rideThrough s).BandSound := by
  refine State.BandSound.enterRun (State.BandSound.of_same (S.of_same ?_) (requestCheckpoint_sameBand _ _)) ?_
  · exact ⟨⟨rfl, rfl, rfl, rfl, rfl, rfl, rfl⟩, rfl, rfl, rfl⟩
  · simpa using done

theorem State.BandSound.endSequence {s : State} (S : s.BandSound) (done : s.sup.stage = .done) :
    (endSequence s).BandSound := by
  unfold Machine.endSequence
  split_ifs
  · exact S.resetEngine
  · exact S.enterDown done
  · exact S.rideThrough done

theorem State.BandSound.mainsWarns {s : State} (S : s.BandSound) : (mainsWarns s).BandSound := by
  cases supply : s.sup.supply with
  | run =>
    rw [mainsWarns_run supply]
    refine State.BandSound.enterWarning ?_ (S.done (by simp [supply]))
    exact S.of_same ⟨⟨rfl, rfl, rfl, rfl, rfl, rfl, rfl⟩, rfl, rfl, rfl⟩
  | down =>
    rw [mainsWarns_down supply]
    exact S.of_same ⟨⟨rfl, rfl, rfl, rfl, rfl, rfl, rfl⟩, rfl, rfl, rfl⟩
  | starting | warning =>
    rw [mainsWarns_level (by simp [supply])]
    exact S.of_same ⟨⟨rfl, rfl, rfl, rfl, rfl, rfl, rfl⟩, rfl, rfl, rfl⟩

theorem State.BandSound.mainsClears {s : State} (S : s.BandSound) : (mainsClears s).BandSound := by
  unfold Machine.mainsClears
  dsimp only
  split_ifs <;> exact S.of_same ⟨⟨rfl, rfl, rfl, rfl, rfl, rfl, rfl⟩, rfl, rfl, rfl⟩

theorem State.BandSound.mainsLevel {s : State} (S : s.BandSound) (level : Bool) {f : State → State}
    (h : (f s).BandSound) : (mainsLevel level f s).BandSound := by
  unfold Machine.mainsLevel
  split_ifs
  · exact S
  · exact h.finish
  · exact S.of_same ⟨⟨rfl, rfl, rfl, rfl, rfl, rfl, rfl⟩, rfl, rfl, rfl⟩

theorem State.BandSound.supplySettles {s : State} (S : s.BandSound) : (supplySettles s).BandSound := by
  unfold Machine.supplySettles
  split
  next t down _ => exact State.BandSound.rideThrough (S.of_same (.of_frame rfl rfl rfl rfl)) (S.done (by simp [down]))
  · exact S

/-! ### Recovery (R172 to R179) -/

@[simp] theorem endReads_images (g : Stage) (l : List Nat) (s : State) :
    (endReads g l s).hst.store = s.hst.store ∧ (endReads g l s).hst.calJob = s.hst.calJob ∧
      (endReads g l s).hst.calWaiting = s.hst.calWaiting := by
  simp only [endReads]
  split <;> simp

@[simp] theorem endReads_sup (g : Stage) (l : List Nat) (s : State) :
    (endReads g l s).sup.stage = g ∧ (endReads g l s).sup.supply = s.sup.supply := ⟨rfl, rfl⟩

theorem State.BandSound.scanRing {s : State} (S : s.BandSound) (recovering : s.sup.stage ≠ .done) :
    (scanRing s).BandSound := by
  obtain ⟨starting, noPassive⟩ := S.recovering recovering
  have kept : (Machine.scanRing s).cal.active = s.cal.active ∧ (Machine.scanRing s).cal.band = s.cal.band ∧
      (Machine.scanRing s).cal.passive = s.cal.passive ∧ (Machine.scanRing s).hst.store = s.hst.store ∧
      (Machine.scanRing s).hst.calJob = s.hst.calJob ∧ (Machine.scanRing s).sup.supply = s.sup.supply := by
    unfold Machine.scanRing
    dsimp only
    split
    · simp [loadCheckpoint]
    · split_ifs <;> simp
  obtain ⟨active, band, passive, store, job, supply⟩ := kept
  refine ⟨⟨by rw [active]; exact S.active, fun _ c hc => ?_, by rw [store]; exact S.stored, ?_,
    .inr ⟨supply.trans starting, passive.trans noPassive⟩⟩, by rw [band, active]; exact S.band⟩
  · rw [passive, noPassive] at hc
    cases hc
  · simpa only [Hst.WrittenValid, job] using S.written

/-- Stages 3 to 5 leave the calendars, and the owed close as it was or none. -/
theorem State.BandSound.scanLog {s : State} (S : s.BandSound) (recovering : s.sup.stage ≠ .done) :
    (scanLog s).BandSound := by
  obtain ⟨starting, noPassive⟩ := S.recovering recovering
  have kept : (Machine.scanLog s).hst.store = s.hst.store ∧ (Machine.scanLog s).hst.calJob = s.hst.calJob ∧
      (Machine.scanLog s).sup.supply = s.sup.supply := by
    unfold Machine.scanLog markRecovered reconcile enterErases
    dsimp only
    split <;> simp
  obtain ⟨store, job, supply⟩ := kept
  have cal : (Machine.scanLog s).cal = s.cal := by simp
  refine ⟨⟨by rw [cal]; exact S.active, fun _ c hc => ?_, by rw [store]; exact S.stored, ?_,
    .inr ⟨supply.trans starting, by rw [cal]; exact noPassive⟩⟩, by rw [cal]; exact S.band⟩
  · rw [cal, noPassive] at hc
    cases hc
  · simpa only [Hst.WrittenValid, job] using S.written

/-- The calendar that recovery makes the active one is the built-in one or that of an image. -/
theorem loadActive_valid {s : State} (stored : Store.CalendarsOk s.hst.store) :
    (loadActive s).cal.active.valid = true := by
  unfold loadActive
  split
  · exact builtIn_valid
  · split
    next image => exact imageIn_valid stored image
    next => exact builtIn_valid

/-- The passive calendar that recovery loads is that of an image. -/
theorem loadPassive_valid {s : State} (stored : Store.CalendarsOk s.hst.store) : (loadPassive s).PassiveValid := by
  intro c hc
  unfold loadPassive at hc
  split at hc
  · split at hc
    next d image =>
      obtain rfl := Option.some.inj hc
      exact imageIn_valid stored image
    next => cases hc
  · cases hc

theorem loadPassive_active (s : State) : (loadPassive s).cal.active = s.cal.active := by
  unfold loadPassive
  split
  · split <;> simp
  · rfl

/-- The calendars as recovery has loaded them, before the band is evaluated. -/
theorem loaded_sound {s : State} (S : s.BandSound) :
    (loadPassive (loadActive (endReads .done [] s))).CalendarsSound := by
  have stored : Store.CalendarsOk (endReads .done [] s).hst.store := by simpa using S.stored
  have job := (endReads_images .done [] s).2.1
  refine ⟨?_, fun _ => loadPassive_valid (by simpa using stored), by simpa using stored, ?_, .inl ?_⟩
  · rw [loadPassive_active]
    exact loadActive_valid stored
  · simpa [Hst.WrittenValid, job] using S.written
  · simp

theorem State.CalendarsSound.of_same {s t : State} (S : s.CalendarsSound) (same : SameBand s t) : t.CalendarsSound := by
  obtain ⟨⟨active, -, passive, store, job, stage, supply⟩, activation, owed, waiting⟩ := same
  have committed : t.passiveCommitted = true ↔ s.passiveCommitted = true := by
    simp only [passiveCommitted_iff, activationOwed_iff, activation, owed, waiting]
  refine ⟨by rw [active]; exact S.active, fun c => ?_, by rw [store]; exact S.stored, ?_, ?_⟩
  · simpa only [State.PassiveValid, passive] using S.passive (committed.mp c)
  · simpa only [Hst.WrittenValid, job] using S.written
  · rw [stage, supply, passive]
    exact S.stage

/-- The start-up evaluation puts a band of the loaded calendar into effect. -/
theorem State.CalendarsSound.establish {s : State} (S : s.CalendarsSound) : (establish s).BandSound := by
  refine State.CalendarsSound.evalBand (S.of_same (.of_frame ?_ ?_ ?_ ?_))
  all_goals simp

theorem State.BandSound.leaveStarting {s : State} (S : s.BandSound) (done : s.sup.stage = .done) :
    (leaveStarting s).BandSound := by
  unfold Machine.leaveStarting
  split_ifs
  · exact (S.setSupply .warning done).of_same (requestCheckpoint_sameBand _ _)
  · exact S.enterDown done
  · exact S.enterRun done

theorem State.BandSound.loadCalendars {s : State} (S : s.BandSound) : (loadCalendars s).BandSound := by
  unfold Machine.loadCalendars
  refine State.BandSound.leaveStarting (State.CalendarsSound.establish ((loaded_sound S).of_same ?_)) ?_
  · exact .of_frame rfl rfl rfl rfl
  · simp

theorem State.BandSound.atStage {s : State} (S : s.BandSound) {g : Stage} {f : State → State}
    (h : s.sup.stage = g → (f s).BandSound) : (atStage g f s).BandSound := by
  unfold Machine.atStage
  split_ifs with due
  · exact h due.2
  · exact S

/-! ### The requests on the calendars (R59 to R74) -/

/-- An edited passive calendar is not committed for activation. -/
theorem State.BandSound.passiveEdit {s : State} (S : s.BandSound) (c : Calendar) (done : s.sup.stage = .done) :
    (passiveEdit c s).BandSound := by
  unfold Machine.passiveEdit
  dsimp only
  set u := Machine.updHst _ _ with hu
  have uncommitted : ¬u.passiveCommitted = true := by
    rw [passiveCommitted_iff, activationOwed_iff]
    rintro (activation | ⟨o, owed, flag⟩ | ⟨w, mem, passive⟩)
    · exact activation rfl
    · obtain ⟨o', -, rfl⟩ := Option.map_eq_some_iff.mp owed
      cases flag
    · exact absurd (List.mem_filter.mp mem).2 (by simp [passive])
  have edited : u.BandSound := by
    refine ⟨⟨S.active, fun c => absurd c uncommitted, S.stored, fun j hj => ?_, .inl done⟩, S.band⟩
    obtain ⟨k, before, rfl⟩ := Option.map_eq_some_iff.mp hj
    split_ifs
    · exact S.written k before
    · exact S.written k before
  split_ifs
  · exact edited.of_same (requestCheckpoint_sameBand _ _)
  · exact edited

theorem State.BandSound.edit {s : State} (S : s.BandSound) (fault : Option CalFault) (f : Calendar → Calendar)
    (done : s.sup.stage = .done) : (edit fault f s).1.BandSound := by
  unfold Machine.edit
  split
  · exact S
  · split
    · exact S
    · exact S.passiveEdit _ done

/-- An image write is requested of a valid passive calendar. -/
theorem State.BandSound.requestImage {s : State} (S : s.BandSound) (valid : s.PassiveValid) :
    (requestImage s).BandSound := by
  refine S.recommit ?_ fun _ => .inr valid
  unfold Machine.requestImage
  dsimp only
  split_ifs <;> simp [SameCalendars]

theorem requestImage_passive (s : State) : (requestImage s).cal.passive = s.cal.passive := by
  unfold requestImage
  dsimp only
  split_ifs <;> simp

theorem State.BandSound.scheduleImage {s : State} (S : s.BandSound) (valid : s.PassiveValid) :
    (scheduleImage s).BandSound := by
  unfold Machine.scheduleImage
  split_ifs
  · exact S.of_same (requestCheckpoint_sameBand _ _)
  · exact S.requestImage valid

theorem passiveValid_of_validate {s : State} {c : Calendar} (passive : s.cal.passive = some c)
    (pass : c.validate = none) : s.PassiveValid := by
  intro d hd
  obtain rfl := Option.some.inj (passive.symm.trans hd)
  rw [Calendar.valid, pass]
  rfl

theorem State.BandSound.ownPassiveActivateAt {s : State} (S : s.BandSound) (t : RawDateTime) :
    (ownPassiveActivateAt t s).1.BandSound := by
  unfold Machine.ownPassiveActivateAt
  split_ifs
  · split
    · exact S
    next c passive =>
      split
      · exact S
      next pass =>
        have valid : s.PassiveValid := passiveValid_of_validate passive pass
        dsimp only
        set u := cancelOwedActivation _ with hu
        have timed : u.BandSound := by
          refine S.recommit ?_ fun _ => .inr valid
          simp [hu, SameCalendars]
        refine State.BandSound.checkActivation (State.BandSound.scheduleImage ?_ ?_)
        · split_ifs
          · exact timed.of_same (requestCheckpoint_sameBand _ _)
          · exact timed
        · have passive' : (if s.activationOwed then setting u else u).cal.passive = s.cal.passive := by
            split_ifs <;> simp [hu]
          simpa only [State.PassiveValid, passive'] using valid
  · exact S

theorem State.BandSound.ownPassiveActivateNow {s : State} (S : s.BandSound) :
    (ownPassiveActivateNow s).1.BandSound := by
  unfold Machine.ownPassiveActivateNow
  split
  · exact S
  next c passive =>
    split
    · exact S
    next pass =>
      have valid : s.PassiveValid := passiveValid_of_validate passive pass
      have untimed : ({ s with cal := { s.cal with activation := none } } : State).BandSound :=
        S.recommit ⟨rfl, rfl, rfl, rfl, rfl, rfl, rfl⟩ fun _ => .inr valid
      dsimp only
      set u := (if s.cal.persisted then _ else _ : State) with hu
      have imaged : u.BandSound := by
        rw [hu]
        split_ifs
        · exact untimed
        · exact untimed.requestImage valid
      have passive' : u.cal.passive = s.cal.passive := by
        rw [hu]
        split_ifs
        · rfl
        · exact requestImage_passive _
      have triggered : (Machine.trigger .calendar none u).BandSound :=
        imaged.trigger none fun _ => by simpa only [State.PassiveValid, passive'] using valid
      split_ifs
      · exact triggered
      · exact triggered

theorem State.BandSound.setting {s : State} (S : s.BandSound) : (setting s).BandSound :=
  S.of_same (requestCheckpoint_sameBand _ _)

theorem State.BandSound.ownSetTime {s : State} (S : s.BandSound) (t : Nat) : (ownSetTime t s).1.BandSound := by
  have moved : (raise .time { s with tim := { s.tim with utc := t, subMs := 0, valid := true } }).BandSound :=
    S.of_same (.of_frame rfl rfl rfl rfl)
  by_cases h : timeInRange t = true
  · rw [ownSetTime_inRange s h]
    exact moved.stepEvent _ _
  · rwa [ownSetTime_outOfRange s h]

theorem State.BandSound.ownSetLocalOffset {s : State} (S : s.BandSound) (o : Option Int) :
    (ownSetLocalOffset o s).1.BandSound := by
  cases o with
  | none => exact S
  | some o =>
    have moved : (raise .time { s with tim := { s.tim with offset := o } }).BandSound :=
      S.of_same (.of_frame rfl rfl rfl rfl)
    by_cases h : offsetInRange o = true
    · by_cases stays : o = s.tim.offset
      · subst stays
        rw [ownSetLocalOffset_same s h]
        exact S.setting
      · rw [ownSetLocalOffset_moved h stays]
        exact (moved.stepEvent _ _).setting
    · rwa [ownSetLocalOffset_outOfRange s h]

theorem State.BandSound.ownSetOverrideMap {s : State} (S : s.BandSound) (m : Option (Vector RawMapEntry 4)) :
    (ownSetOverrideMap m s).1.BandSound := by
  unfold Machine.ownSetOverrideMap
  split
  · exact S
  · split
    · exact S
    · refine State.BandSound.setting (State.BandSound.overrideChange ?_)
      exact S.of_same ⟨⟨rfl, rfl, rfl, rfl, rfl, rfl, rfl⟩, rfl, rfl, rfl⟩

theorem State.BandSound.ownSetOverrideSource {s : State} (S : s.BandSound) (line : Nat) (source : Option Nat) :
    (ownSetOverrideSource line source s).1.BandSound := by
  unfold Machine.ownSetOverrideSource
  split
  · exact S
  · exact (S.updLine _ _).setting

theorem State.BandSound.ownSetOverride {s : State} (S : s.BandSound) (line value : Nat) :
    (ownSetOverride line value s).1.BandSound := by
  unfold Machine.ownSetOverride
  split_ifs
  · exact (S.updLine _ _).setting
  · exact S

theorem State.BandSound.ownClosePeriod {s : State} (S : s.BandSound) : (ownClosePeriod s).1.BandSound := by
  have triggered : (Machine.trigger .commanded none s).BandSound := S.trigger none fun h => by cases h
  unfold Machine.ownClosePeriod
  dsimp only
  split
  · exact S
  · split
    · exact triggered
    · exact triggered

/-! ### The requests that leave the calendars alone -/

theorem SameBand.trans {s t u : State} (h : SameBand s t) (h' : SameBand t u) : SameBand s u := by
  simp only [SameBand, SameCalendars] at *
  grind

theorem SameBand.setting {s t : State} (h : SameBand s t) : SameBand s (setting t) :=
  h.trans (requestCheckpoint_sameBand _ _)

theorem ownSetNettingMethod_sameBand (m : Option Nat) (s : State) : SameBand s (ownSetNettingMethod m s).1 := by
  unfold ownSetNettingMethod
  split
  · exact .of_frame rfl rfl rfl rfl
  · exact .setting (.of_frame rfl rfl rfl rfl)

theorem ownSetSettlement_sameBand (mode cap day : Option Nat) (s : State) :
    SameBand s (ownSetSettlement mode cap day s).1 := by
  unfold ownSetSettlement
  split_ifs <;> simp [SameBand, SameCalendars]

theorem setCap_sameBand (src : CapSource) (limit hyst : Nat) (expiry : Option Nat) (s : State) :
    SameBand s (setCap src limit hyst expiry s).1 := by
  unfold setCap
  split_ifs
  · exact .setting (.of_frame (by simp) (by simp) (by simp) (by simp))
  · exact .of_frame rfl rfl rfl rfl

theorem clearCap_sameBand (src : CapSource) (s : State) : SameBand s (clearCap src s).1 := by
  unfold clearCap
  split_ifs
  · exact .setting (.of_frame (by simp) (by simp) (by simp) (by simp))
  · exact .of_frame rfl rfl rfl rfl

theorem ownSetCapControl_sameBand (fsc enable trip hold : Option Nat) (s : State) :
    SameBand s (ownSetCapControl fsc enable trip hold s).1 := by
  unfold ownSetCapControl
  dsimp only
  split_ifs
  · exact .of_frame rfl rfl rfl rfl
  · exact .setting (.of_frame (by simp) (by simp) (by simp) (by simp))
  · exact .of_frame rfl rfl rfl rfl

theorem ownSetUnitConfig_sameBand (unit : Nat) (enable slot maskOff : Option Nat) (s : State) :
    SameBand s (ownSetUnitConfig unit enable slot maskOff s).1 := by
  have unchanged : SameBand s s := .of_frame rfl rfl rfl rfl
  unfold ownSetUnitConfig
  split
  · split
    · exact unchanged
    · split
      · exact unchanged
      · split
        · exact unchanged
        · dsimp only
          split
          · exact unchanged
          · exact .setting (.of_frame (by simp) (by simp) (by simp) (by simp))
  · exact unchanged

theorem ownSetUnitStandby_sameBand (unit : Nat) (standby : Option Nat) (s : State) :
    SameBand s (ownSetUnitStandby unit standby s).1 := by
  have unchanged : SameBand s s := .of_frame rfl rfl rfl rfl
  unfold ownSetUnitStandby
  split_ifs
  · split
    · exact unchanged
    · split
      · exact .setting (.of_frame (by simp) (by simp) (by simp) (by simp))
      · exact unchanged
  · exact unchanged

theorem ownSetProfileWeights_sameBand (w : Vector (Option Nat) 4) (s : State) :
    SameBand s (ownSetProfileWeights w s).1 := by
  unfold ownSetProfileWeights
  dsimp only
  split_ifs
  · exact .of_frame rfl rfl rfl rfl
  · exact .setting (.of_frame (by simp) (by simp) (by simp) (by simp))

theorem ownReadSnapshot_sameBand (p : Port) (key : SnapshotKey) (s : State) :
    SameBand s (ownReadSnapshot p key s).1 := by
  unfold ownReadSnapshot
  split_ifs
  · exact .of_frame rfl rfl rfl rfl
  · split
    · exact .of_frame rfl rfl rfl rfl
    · exact .of_frame rfl rfl rfl rfl
    · simp [SameBand, SameCalendars]

theorem ownArchive_sameBand (on : Bool) (l : SectorList) (s : State) : SameBand s (ownArchive on l s).1 := by
  unfold ownArchive
  split
  · exact .of_frame rfl rfl rfl rfl
  · simp [SameBand, SameCalendars, Hst.setLocks]

theorem ownSetNoticeMask_sameBand (p : Port) (m : Option (BitVec 16)) (s : State) :
    SameBand s (ownSetNoticeMask p m s).1 := by
  unfold ownSetNoticeMask
  split
  · exact .of_frame rfl rfl rfl rfl
  · split_ifs
    · exact .setting (.of_frame (by simp) (by simp) (by simp) (by simp))
    · exact .of_frame rfl rfl rfl rfl

theorem ownLock_sameBand (b : Bool) (s : State) : SameBand s (ownLock b s).1 :=
  .setting (.of_frame rfl rfl rfl rfl)

theorem ownRestart_sameBand (s : State) : SameBand s (ownRestart s).1 := by
  unfold ownRestart
  split_ifs
  · exact .of_frame rfl rfl rfl rfl
  · exact .trans (t := { s with sup := { s.sup with restarting := true } })
      ⟨⟨rfl, rfl, rfl, rfl, rfl, rfl, rfl⟩, rfl, rfl, rfl⟩ (requestCheckpoint_sameBand _ _)

/-! ### Requests -/

/-- Every owner keeps the band sound, once recovery is done. -/
theorem State.BandSound.serve {s : State} (S : s.BandSound) (done : s.sup.stage = .done) (p : Port) (q : Request) :
    (serve p q s).1.BandSound := by
  cases q with
  | setNettingMethod m => exact S.of_same (ownSetNettingMethod_sameBand m s)
  | setTime t => exact S.ownSetTime t
  | setLocalOffset o => exact S.ownSetLocalOffset o
  | setOverrideSource line source => exact S.ownSetOverrideSource line source
  | setOverride line value => exact S.ownSetOverride line value
  | setOverrideMap m => exact S.ownSetOverrideMap m
  | passiveClear name => exact S.passiveEdit (.empty name) done
  | passiveBands nb fb l => exact S.edit _ _ done
  | passiveSeason i x => exact S.edit _ _ done
  | passiveWeek i w => exact S.edit _ _ done
  | passiveDay i d => exact S.edit _ _ done
  | passiveSpecial i x => exact S.edit _ _ done
  | passiveActivateAt t => exact S.ownPassiveActivateAt t
  | passiveActivateNow => exact S.ownPassiveActivateNow
  | setSettlement m k d => exact S.of_same (ownSetSettlement_sameBand m k d s)
  | closePeriod => exact S.ownClosePeriod
  | setUtilityCap l h e => exact S.of_same (setCap_sameBand .utility l h e s)
  | clearUtilityCap => exact S.of_same (clearCap_sameBand .utility s)
  | setPremisesCap l h e => exact S.of_same (setCap_sameBand .premises l h e s)
  | clearPremisesCap => exact S.of_same (clearCap_sameBand .premises s)
  | setCapControl f e t h => exact S.of_same (ownSetCapControl_sameBand f e t h s)
  | setUnitConfig u e slot m => exact S.of_same (ownSetUnitConfig_sameBand u e slot m s)
  | setUnitStandby u r => exact S.of_same (ownSetUnitStandby_sameBand u r s)
  | setProfileWeights w => exact S.of_same (ownSetProfileWeights_sameBand w s)
  | readSnapshot key => exact S.of_same (ownReadSnapshot_sameBand p key s)
  | lockArchive l => exact S.of_same (ownArchive_sameBand true l s)
  | unlockArchive l => exact S.of_same (ownArchive_sameBand false l s)
  | restart => exact S.of_same (ownRestart_sameBand s)
  | setNoticeMask m => exact S.of_same (ownSetNoticeMask_sameBand p m s)
  | lockPremises => exact S.of_same (ownLock_sameBand true s)
  | unlockPremises => exact S.of_same (ownLock_sameBand false s)
  | readCalendar c part i =>
    exact S.of_same (.of_frame (by simp [Machine.serve]) (by simp [Machine.serve]) (by simp [Machine.serve])
      (by simp [Machine.serve]))
  | readRegisters =>
    exact S.of_same (.of_frame (by simp [Machine.serve]) (by simp [Machine.serve]) (by simp [Machine.serve])
      (by simp [Machine.serve]))
  | clearFrameLoss | readTime | readCaps | readUnits | getStatus =>
    exact S.of_same (.of_frame rfl rfl rfl rfl)
  | readNotices | freezeView | releaseView =>
    exact S.of_same (.of_frame (by simp [Machine.serve]) (by simp [Machine.serve]) (by simp [Machine.serve])
      (by simp [Machine.serve]))

theorem respond_sameBand (p : Port) (code : Nat) (st : Status) (a : Answer) (s : State) :
    SameBand s (respond p code st a s) := .of_frame (by simp) (by simp) (by simp) (by simp)

theorem updPort_sameBand (p : Port) (f : PortState → PortState) (s : State) : SameBand s (s.updPort p f) :=
  .of_frame (by simp) (by simp) (by simp) (by simp)

theorem State.BandSound.settleReply {p : Port} {code : Nat} {r : State × Reply} (S : r.1.BandSound) :
    (settleReply p code r).BandSound := by
  unfold Machine.settleReply
  split
  · exact S.of_same (respond_sameBand _ _ _ _ _)
  · exact S

/-- Outside RUN only the code of GET_STATUS reaches an owner (R184). -/
theorem State.BandSound.judge {s : State} (S : s.BandSound) (p : Port) {code : Nat} (held : Bool) {req : Option Request}
    (status : code = 35 → ∀ q ∈ req, q = .getStatus) : (judge p code held req s).BandSound := by
  have answered (st : Status) (a : Answer) : (respond p code st a s).BandSound :=
    S.of_same (respond_sameBand _ _ _ _ _)
  unfold Machine.judge
  split_ifs with _ _ outside
  · exact answered _ _
  · exact answered _ _
  · exact answered _ _
  · exact answered _ _
  · cases req with
    | none => exact answered _ _
    | some q =>
      refine State.BandSound.settleReply ?_
      by_cases run : s.sup.supply = .run
      · exact S.serve (S.done (by simp [run])) p q
      · obtain rfl := status (by tauto) q rfl
        exact S.of_same (.of_frame rfl rfl rfl rfl)

theorem State.BandSound.goodFrame {s : State} (S : s.BandSound) (p : Port) {code : Nat} (held : Bool)
    {req : Option Request} (status : code = 35 → ∀ q ∈ req, q = .getStatus) :
    (goodFrame p code held req s).BandSound := by
  unfold Machine.goodFrame
  split_ifs
  · exact S.of_same (updPort_sameBand _ _ _)
  · exact State.BandSound.judge (S.of_same (updPort_sameBand _ _ _)) p held status

theorem State.BandSound.takeRequest {s : State} (S : s.BandSound) (p : Port) (q : Request) :
    (takeRequest p q s).BandSound := by
  refine S.goodFrame p _ fun code r hr => ?_
  have taken : q = r := by
    split_ifs at hr
    · exact Option.some.inj hr
    · cases hr
  subst taken
  cases q with
  | getStatus => rfl
  | _ => cases code

/-- The payload of GET_STATUS spells that request alone (R197). -/
theorem decodeRequest_getStatus {payload : List Byte} {r : Request} (h : decodeRequest 35 payload = some r) :
    r = .getStatus := by
  have readNone : readNone .getStatus payload = some r := h
  unfold Machine.readNone at readNone
  split_ifs at readNone
  exact (Option.some.inj readNone).symm

theorem State.BandSound.takePayload {s : State} (S : s.BandSound) (p : Port) (code : Nat) (payload : List Byte) :
    (takePayload p code payload s).BandSound := by
  refine S.goodFrame p _ fun h r hr => ?_
  subst h
  exact decodeRequest_getStatus (Option.filter_eq_some_iff.mp hr).1

theorem State.BandSound.endFrame {s : State} (S : s.BandSound) (p : Port) (got : List RxChar) :
    (endFrame p got s).BandSound := by
  unfold Machine.endFrame
  dsimp only
  split_ifs
  · exact S.takePayload _ _ _
  · exact S.of_same (updPort_sameBand _ _ _)

theorem State.BandSound.collectChar {s : State} (S : s.BandSound) (p : Port) (got : List RxChar) :
    (collectChar p got s).BandSound := by
  have receiver (r : RxState) : (s.updPort p fun x => { x with rx := r }).BandSound :=
    S.of_same (updPort_sameBand _ _ _)
  unfold Machine.collectChar
  dsimp only
  split_ifs
  · exact (receiver _).of_same (updPort_sameBand _ _ _)
  · exact (receiver _).endFrame p got
  · exact receiver _

theorem State.BandSound.receive {s : State} (S : s.BandSound) (p : Port) (c : RxChar) : (receive p c s).BandSound := by
  unfold Machine.receive
  split
  · split_ifs
    · exact S.collectChar _ _
    · exact S
  · exact S.collectChar _ _
  · exact S.of_same (updPort_sameBand _ _ _)

theorem State.BandSound.receiveAll {s : State} (S : s.BandSound) (p : Port) (l : List RxChar) :
    (receiveAll p l s).BandSound := by
  induction l generalizing s with
  | nil => exact S
  | cons c l ih => exact ih (S.receive p c)

/-! ### The events of the clock, the lines and the links -/

theorem passTo_sameBand (t : Nat) (s : State) : SameBand s (passTo t s) :=
  .of_frame (by simp) (by simp) (by simp) (by simp)

theorem State.BandSound.lineLevel {s : State} (S : s.BandSound) (i : Fin 2) (level : Bool) :
    (lineLevel i level s).BandSound := by
  unfold Machine.lineLevel
  dsimp only
  split_ifs
  · exact S.of_same ⟨⟨rfl, rfl, rfl, rfl, rfl, rfl, rfl⟩, rfl, rfl, rfl⟩
  · exact S.of_same ⟨⟨rfl, rfl, rfl, rfl, rfl, rfl, rfl⟩, rfl, rfl, rfl⟩

theorem State.BandSound.lineSettles {s : State} (S : s.BandSound) (i : Fin 2) : (lineSettles i s).BandSound := by
  unfold Machine.lineSettles
  split
  · exact State.BandSound.updLine (S.of_same (passTo_sameBand _ _)) _ _
  · exact S

theorem intervalEnds_sameBand (s : State) : SameBand s (intervalEnds s) := by
  unfold intervalEnds
  split_ifs
  · exact .of_frame rfl rfl rfl rfl
  · refine SameBand.trans ?_ (requestCheckpoint_sameBand _ _)
    simp [SameBand, SameCalendars]

theorem backupSecond_sameBand (s : State) : SameBand s (backupSecond s) := by
  unfold backupSecond
  split_ifs <;> exact .of_frame rfl rfl rfl rfl

theorem backupLost_sameBand (s : State) : SameBand s (backupLost s) := by
  unfold backupLost
  split_ifs <;> exact .of_frame rfl rfl rfl rfl

theorem tick_sameBand (s : State) : SameBand s (tick s) :=
  .of_frame (by simp) (by simp) (by simp) (by simp)

/-- A command whose effect leaves alone what the soundness of the band looks at. -/
theorem State.BandSound.command_same {s : State} (S : s.BandSound) {f : State → State} (same : SameBand s (f s)) :
    (Machine.command f s).BandSound := S.command (S.of_same same)

/-! ### Every command -/

/-- A command that carries a request takes it on its port. -/
theorem exec_request {i : Instr} {p : Port} {q : Request} (h : i.request = some (p, q)) (s : State) :
    exec i s = .next (command (takeRequest p q) s) := by
  cases i <;> cases h <;> rfl

/-- A command that carries no request keeps the band sound. -/
theorem State.BandSound.exec_event {s : State} (S : s.BandSound) {i : Instr} (event : i.request = none) :
    ∃ t, exec i s = .next t ∧ t.BandSound := by
  have frames {t : State} (cal : t.cal = s.cal) (set : t.set = s.set) (hst : t.hst = s.hst) (sup : t.sup = s.sup) :
      t.BandSound := S.of_same (.of_frame cal set hst sup)
  cases i with
  | phaseFrame run => exact ⟨_, rfl, S.command (frames (by simp) (by simp) (by simp) (by simp))⟩
  | silence500 => exact ⟨_, rfl, S.command (frames (by simp) (by simp) (by simp) (by simp))⟩
  | silence2000 => exact ⟨_, rfl, S.command (frames (by simp) (by simp) (by simp) (by simp))⟩
  | secondTick =>
    refine ⟨_, rfl, ?_⟩
    split_ifs
    · exact S.secondTick.finish
    · exact S.of_same (backupSecond_sameBand s)
  | backupDomainLoss => exact ⟨_, rfl, S.of_same (backupLost_sameBand s)⟩
  | overrideLineLevelChange line level => exact ⟨_, rfl, S.lineLevel line level⟩
  | overrideDebounceExpiry line => exact ⟨_, rfl, S.command (S.lineSettles line)⟩
  | mainsWarnAssert => exact ⟨_, rfl, S.mainsLevel true S.mainsWarns⟩
  | mainsWarnDeassert => exact ⟨_, rfl, S.mainsLevel false S.mainsClears⟩
  | supplyDebounceExpiry => exact ⟨_, rfl, S.command S.supplySettles⟩
  | writeSequenceEnd =>
    refine ⟨_, rfl, S.command ?_⟩
    split_ifs with ended
    · exact S.endSequence (S.done (by simp [ended.1]))
    · exact S
  | powerOnReset => exact ⟨_, rfl, S.powerOn⟩
  | resetLine => exact ⟨_, rfl, S.command S.resetEngine⟩
  | mainSupplyLoss =>
    refine ⟨_, rfl, ?_⟩
    split_ifs
    · exact S.supplyLost
    · exact S
  | recoveryCheckpointScan => exact ⟨_, rfl, S.command (S.atStage fun due => S.scanRing (by simp [due]))⟩
  | recoveryLogScan => exact ⟨_, rfl, S.command (S.atStage fun due => S.scanLog (by simp [due]))⟩
  | recoveryCalendarLoad => exact ⟨_, rfl, S.command (S.atStage fun _ => S.loadCalendars)⟩
  | periodicCheckpointTimer => exact ⟨_, rfl, S.command_same (intervalEnds_sameBand s)⟩
  | snapshotProgramComplete valid => exact ⟨_, rfl, S.command (S.snapshotProgrammed valid)⟩
  | checkpointProgramComplete valid0 valid1 => exact ⟨_, rfl, S.command (S.checkpointProgrammed valid0 valid1)⟩
  | calendarPartProgramComplete valid => exact ⟨_, rfl, S.command (S.partProgrammed valid)⟩
  | sectorEraseComplete notBlank => exact ⟨_, rfl, S.command (S.eraseDone notBlank)⟩
  | eraseSuspend =>
    refine ⟨_, rfl, S.command ?_⟩
    split_ifs
    · exact S.of_same (by simp [SameBand, SameCalendars])
    · exact S
  | slotReadComplete decayed => exact ⟨_, rfl, S.command (S.readDone decayed)⟩
  | requestFrame port chars => exact ⟨_, rfl, S.command (S.receiveAll port chars)⟩
  | frameLengthOverflow port length => exact ⟨_, rfl, S.command (S.receiveAll port _)⟩
  | frameStall port => exact ⟨_, rfl, S.command (frames (by simp) (by simp) (by simp) (by simp))⟩
  | ignoreIdleExpiry port => exact ⟨_, rfl, S.command (frames (by simp) (by simp) (by simp) (by simp))⟩
  | responseTransmitComplete port => exact ⟨_, rfl, S.command (frames (by simp) (by simp) (by simp) (by simp))⟩
  | viewExpiry port => exact ⟨_, rfl, S.command (frames (by simp) (by simp) (by simp) (by simp))⟩
  | pollCycleStart => exact ⟨_, rfl, S.command (frames (by simp) (by simp) (by simp) (by simp))⟩
  | allowanceSent => exact ⟨_, rfl, S.command (frames (by simp) (by simp) (by simp) (by simp))⟩
  | unitReport chars => exact ⟨_, rfl, S.command (frames (by simp) (by simp) (by simp) (by simp))⟩
  | replyWindowExpiry => exact ⟨_, rfl, S.command (frames (by simp) (by simp) (by simp) (by simp))⟩
  | _ => cases event

/-- Every command keeps the band sound. -/
theorem State.BandSound.exec {s t : State} (S : s.BandSound) {i : Instr} (h : exec i s = .next t) : t.BandSound := by
  cases request : i.request with
  | none =>
    obtain ⟨u, executed, sound⟩ := S.exec_event request
    obtain rfl : u = t := Host.Outcome.next.inj (executed.symm.trans h)
    exact sound
  | some r =>
    obtain rfl : Machine.command (Machine.takeRequest r.1 r.2) s = t :=
      Host.Outcome.next.inj ((exec_request request s).symm.trans h)
    exact S.command (S.takeRequest r.1 r.2)

/-- Settles O60: every effect of a step keeps each part of the soundness, the active calendar with the band, and
whatever may become the active calendar. -/
theorem bandKept : Obligations.BandKept := by
  intro s t sound h
  rw [bandOk_iff] at sound ⊢
  unfold step at h
  split at h
  next => exact Host.Outcome.next.inj h ▸ sound.of_same (tick_sameBand s)
  next c rest _ => exact (sound.of_same (t := { s with pending := rest }) (.of_frame rfl rfl rfl rfl)).exec h

end Sys2Proof.Machine
end

section
/-! PROOFS. The six edits of the passive calendar (R63 to R68): the check each makes, said by what it lets pass and by
the fault it names; the answers; and the common effects of R64. -/
namespace Sys2Proof.Machine
open Sys2Proof.Claim

/-! ### The edits' own checks -/

theorem firstFault_cons (b : Bool) (f : CalFault) (l : List (Bool × CalFault)) :
    firstFault ((b, f) :: l) = if b = true then firstFault l else some f := by
  cases b <;> simp [firstFault]

/-- Two checks of one entry fail with that entry. -/
theorem firstFault_pair (a b : Bool) (f : CalFault) :
    firstFault [(a, f), (b, f)] = if a = true ∧ b = true then none else some f := by
  rw [firstFault_cons, firstFault_cons, ← ite_and]
  rfl

/-- The increasing minutes of PASSIVE_DAY (R67). -/
theorem increasing_iff (l : List RawPoint) : increasing l = true ↔ l.Pairwise fun a b => a.minute < b.minute := by
  induction l using increasing.induct with
  | case1 a b rest ih =>
    rw [increasing, Bool.and_eq_true, decide_eq_true_eq, ih, List.pairwise_cons (a := a)]
    refine ⟨fun ⟨first, rest⟩ => ⟨fun x hx => ?_, rest⟩, fun ⟨first, rest⟩ => ⟨first b List.mem_cons_self, rest⟩⟩
    rcases List.mem_cons.mp hx with rfl | behind
    · exact first
    · exact first.trans ((List.pairwise_cons.mp rest).1 x behind)
  | case2 l short =>
    match l, short with
    | [], _ => simp [increasing]
    | [a], _ => simp [increasing]
    | a :: b :: rest, short => exact absurd rfl (short a b rest)

theorem RawSpecial.dateOk_iff (x : RawSpecial) :
    RawSpecial.dateOk x = true ↔ (x.kind = 0 → validMonthDay x.month x.day = true) ∧
      (x.kind ≠ 0 → 20 ≤ x.year ∧ x.year ≤ 99 ∧ validDate (2000 + x.year) x.month x.day = true) := by
  unfold RawSpecial.dateOk
  split_ifs with recurring <;> simp [recurring, and_assoc]

/-- The fault a passive edit's own checks name. -/
def editFault (q : Request) : Option CalFault :=
  match q with
  | .passiveBands nb fb l => bandsFault nb fb l
  | .passiveSeason i x => seasonFault i x
  | .passiveWeek i w => weekFault i w
  | .passiveDay i d => dayFault i d
  | .passiveSpecial i x => specialFault i x
  | _ => none

open Classical in
/-- An edit of one entry that is outside its limits names that entry of its table. -/
theorem editFault_of_index {q : Request} {k : Nat} (h : editIndex q = some k) :
    editFault q = if editOk q then none else some (Request.code q - 10, k) := by
  cases q with
  | passiveSeason i x =>
    cases h
    refine (firstFault_pair _ _ _).trans (if_congr ?_ rfl rfl)
    cases x <;> simp [editOk]
  | passiveWeek i w =>
    cases h
    refine (firstFault_pair _ _ _).trans (if_congr ?_ rfl rfl)
    cases w <;> simp only [editOk, List.all_eq_true, decide_eq_true_eq, Option.some.injEq, forall_eq', reduceCtorEq,
      false_imp_iff, implies_true]
  | passiveDay i d =>
    cases h
    refine (firstFault_pair _ _ _).trans (if_congr ?_ rfl rfl)
    cases d <;> simp [editOk, increasing_iff, and_assoc]
  | passiveSpecial i x =>
    cases h
    refine (firstFault_pair _ _ _).trans (if_congr ?_ rfl rfl)
    cases x <;> simp [editOk, RawSpecial.dateOk_iff]
  | _ => cases h

/-- The condition on an entry of PASSIVE_BANDS (R65). -/
def bandFine (b : RawBand) : Bool := decide (b.value ≤ 1000) && decide (b.rank ≤ 7)

/-- The entries' own checks, numbered from `n`. -/
def entryChecks (l : List RawBand) (n : Nat) : List (Bool × CalFault) :=
  (l.zipIdx n).map fun (b, i) => (bandFine b, (1, i))

/-- The header comes before the entries, as entry 0 of the table (log 19). -/
theorem bandsFault_eq (nb fb : Nat) (l : List RawBand) : bandsFault nb fb l =
    if 1 ≤ nb ∧ nb ≤ 8 ∧ l.length = nb ∧ fb ≤ 7 then firstFault (entryChecks l 0) else some (1, 0) := by
  simp only [bandsFault, List.cons_append, List.nil_append, firstFault_cons, Bool.and_eq_true, decide_eq_true_eq,
    ite_and]
  split_ifs <;> rfl

theorem firstFault_entryChecks_cons (b : RawBand) (l : List RawBand) (n : Nat) :
    firstFault (entryChecks (b :: l) n) =
      if bandFine b = true then firstFault (entryChecks l (n + 1)) else some (1, n) :=
  firstFault_cons _ _ _

theorem entryChecks_eq_none_iff (l : List RawBand) (n : Nat) :
    firstFault (entryChecks l n) = none ↔ ∀ b ∈ l, bandFine b = true := by
  induction l generalizing n with
  | nil => exact ⟨fun _ _ h => (List.not_mem_nil h).elim, fun _ => rfl⟩
  | cons b l ih =>
    rw [firstFault_entryChecks_cons, List.forall_mem_cons, ← ih (n + 1)]
    split_ifs with fine <;> simp [fine]

/-- The fault of the entries is the first one that is not right. -/
theorem entryChecks_eq_some {l : List RawBand} {k : Nat} (n : Nat) {b : RawBand} (entry : l[k]? = some b)
    (bad : bandFine b = false) (before : ∀ j < k, ∀ c, l[j]? = some c → bandFine c = true) :
    firstFault (entryChecks l n) = some (1, n + k) := by
  induction l generalizing k n with
  | nil => cases entry
  | cons a l ih =>
    rw [firstFault_entryChecks_cons]
    cases k with
    | zero =>
      obtain rfl : a = b := Option.some.inj entry
      simp [bad]
    | succ k =>
      rw [if_pos (before 0 (by omega) a rfl),
        ih (n + 1) entry fun j hj c hc => before (j + 1) (by omega) c hc, Nat.add_right_comm, Nat.add_assoc]

theorem editFault_eq_none_iff {q : Request} (h : isEdit q = true) : editFault q = none ↔ editOk q := by
  cases index : editIndex q with
  | some k =>
    rw [editFault_of_index index]
    split_ifs with ok <;> simp [ok]
  | none =>
    cases q with
    | passiveClear name => simp [editFault, editOk]
    | passiveBands nb fb l =>
      have entries := entryChecks_eq_none_iff l 0
      simp only [bandFine, Bool.and_eq_true, decide_eq_true_eq] at entries
      rw [editFault, bandsFault_eq, editOk]
      split_ifs with header
      · obtain ⟨low, high, length, fallback⟩ := header
        exact entries.trans ⟨fun fine => ⟨low, high, length, fallback, fine⟩, fun ⟨_, _, _, _, fine⟩ => fine⟩
      · simp only [false_iff]
        exact fun ⟨low, high, length, fallback, _⟩ => header ⟨low, high, length, fallback⟩
    | passiveSeason | passiveWeek | passiveDay | passiveSpecial => cases index
    | _ => cases h

/-! ### The six edits -/

theorem passiveClear_of_code {q : Request} (h : Request.code q = 10) : ∃ name, q = .passiveClear name := by
  cases q with
  | passiveClear name => exact ⟨name, rfl⟩
  | _ => cases h

/-- The five edits other than PASSIVE_CLEAR are one edit, with their own check and change (R64 to R68). -/
theorem serve_edit {q : Request} (h : isEdit q = true) (clear : Request.code q ≠ 10) (p : Port) (s : State) :
    serve p q s = edit (editFault q) (edited q) s := by
  cases q with
  | passiveClear name => exact absurd rfl clear
  | passiveBands nb fb l => rfl
  | passiveSeason i x => rfl
  | passiveWeek i w => rfl
  | passiveDay i d => rfl
  | passiveSpecial i x => rfl
  | _ => cases h

theorem edit_absent (fault : Option CalFault) (f : Calendar → Calendar) {s : State} (h : s.cal.passive = none) :
    edit fault f s = bare .state s := by
  rw [edit, h]

theorem edit_refused {c : Calendar} {table index : Nat} (f : Calendar → Calendar) {s : State}
    (h : s.cal.passive = some c) : edit (some (table, index)) f s = rangeAt table index s := by
  rw [edit, h]

theorem edit_accepted {c : Calendar} (f : Calendar → Calendar) {s : State} (h : s.cal.passive = some c) :
    edit none f s = okWith .empty (passiveEdit (f c) s) := by
  rw [edit, h]

theorem editRequests : EditRequests := by
  intro i p q s request isEdit serves
  dsimp only
  have passive : (taken p (Request.code q) s).cal.passive = s.cal.passive := by simp
  have exec_eq {u : State} {st : Status} {a : Answer}
      (owner : serve p q (taken p (Request.code q) s) = (u, some (st, a))) :
      exec i s = .next (answered p (Request.code q) st a u) := by
    rw [exec_request request, command_served serves rfl owner]
  refine ⟨fun clear => ?_, fun notClear absent => ?_, fun c notClear present ok => ?_, fun present outside => ?_⟩
  · obtain ⟨name, rfl⟩ := passiveClear_of_code clear
    exact exec_eq rfl
  · exact exec_eq ((serve_edit isEdit notClear p _).trans (edit_absent _ _ (passive.trans absent)))
  · refine exec_eq ((serve_edit isEdit notClear p _).trans ?_)
    rw [(editFault_eq_none_iff isEdit).mpr ok]
    exact edit_accepted _ (passive.trans present)
  · obtain ⟨c, present⟩ := Option.ne_none_iff_exists'.mp present
    have notClear : Request.code q ≠ 10 := by
      intro clear
      obtain ⟨name, rfl⟩ := passiveClear_of_code clear
      exact outside trivial
    have range {table k : Nat} (fault : editFault q = some (table, k)) :
        exec i s = .next (answered p (Request.code q) .range (.detail table k) (taken p (Request.code q) s)) := by
      refine exec_eq ((serve_edit isEdit notClear p _).trans ?_)
      rw [fault]
      exact edit_refused _ (passive.trans present)
    refine ⟨fun k index => range ?_, fun nb fb l bands => ?_⟩
    · rw [editFault_of_index index, if_neg outside]
    · subst bands
      have fault := bandsFault_eq nb fb l
      refine ⟨fun noHeader => range (fault.trans (if_neg noHeader)), fun k header bad before => range ?_⟩
      obtain ⟨b, entry, wrong⟩ : ∃ b, l[k]? = some b ∧ ¬(b.value ≤ 1000 ∧ b.rank ≤ 7) := by
        simpa using bad
      rw [editFault, fault, if_pos header, entryChecks_eq_some 0 entry, Nat.zero_add]
      · rfl
      · simpa [bandFine] using wrong
      · simpa [bandFine] using before

/-! ### The common effects (R64) -/

/-- Whether a cancelled activation differs from what is owed. -/
theorem cancelled_owed_eq_iff (s : State) :
    s.set.owed = s.set.owed.map (fun o => { o with calFlag := false }) ↔ s.activationOwed = false := by
  cases owed : s.set.owed with
  | none => simp [State.activationOwed, owed]
  | some o =>
    cases o
    simp [State.activationOwed, owed]

theorem passiveEditEffects : PassiveEditEffects := by
  intro c s
  dsimp only
  constructor
  · rintro ⟨activation, persisted, owed⟩
    have changed := (cancelled_owed_eq_iff s).mp owed
    simp only [passiveEdit, activation, persisted, changed]
    rfl
  · intro changed
    have changed : (s.cal.activation.isSome || s.activationOwed || s.cal.persisted) = true := by
      rw [ne_eq, ne_eq, cancelled_owed_eq_iff] at changed
      simpa [Option.isSome_iff_ne_none, or_assoc, or_comm, or_left_comm] using changed
    simp only [passiveEdit, changed]
    rfl

/-- Settles O23: the five edits with a check are one edit, whose check is their limits (R65 to R68). -/
theorem passiveEdits : Obligations.PassiveEdits := ⟨editRequests, passiveEditEffects⟩

end Sys2Proof.Machine
end

section
/-! PROOFS. The store engine's choice (R154) and what each choice begins: the arbiter once per item of its order, then
the statement. -/
namespace Sys2Proof.Machine
open Sys2Proof.Claim

/-! ### What is eligible -/

theorem snapEligible_eq_false_iff (h : Hst) : h.snapEligible = false ↔ h.queue = [] ∨ h.logFailed = true := by
  simp [Hst.snapEligible, or_iff_not_imp_left]

theorem ckptEligible_eq_false_iff (h : Hst) : h.ckptEligible = false ↔
    h.ckptFailed = true ∨ h.nextPosition = none ∨ h.ckptRetry = none ∧ h.ckptReq = none := by
  simp only [Hst.ckptEligible, Bool.and_eq_false_iff, Bool.or_eq_false_iff, Bool.not_eq_false',
    Option.isSome_eq_false_iff, Option.isNone_iff_eq_none]
  tauto

theorem waitingRead_eq_none_iff (s : State) : waitingRead s = none ↔ s.sup.unread = [] ∧ s.hst.reads = [] := by
  unfold waitingRead
  split
  next unread => simp [unread]
  next unread =>
    split
    next reads => simp [reads]
    next reads => simp [unread, reads]

/-- Only a log sector carries a lock, its own (R149). -/
theorem locked_log (h : Hst) (i : Fin 6) : h.locked (4 + i) = h.locks[i] := by
  have log : 4 ≤ 4 + i.val ∧ 4 + i.val < 10 := by omega
  simp [Hst.locked, log]

theorem locked_other (h : Hst) {x : Nat} (other : x < 4 ∨ 10 ≤ x) : h.locked x = false :=
  dif_neg (by omega)

/-! ### The arbiter, item by item -/

theorem grantCheckpoint_retry {s : State} {c : Checkpoint} (p : Nat) (retry : s.hst.ckptRetry = some c) :
    grantCheckpoint p s = updHst (fun h => { h with ckptRetry := none, engine := .checkpoint c p true }) s := by
  simp [grantCheckpoint, retry]

theorem grantCheckpoint_request {s : State} {causes : CauseSet} (p : Nat) (retry : s.hst.ckptRetry = none)
    (request : s.hst.ckptReq = some causes) : grantCheckpoint p s =
      updHst (fun h => { h with ckptReq := none, engine := .checkpoint (captureNow causes s) p false }) s := by
  simp [grantCheckpoint, retry, request]

theorem arbitrate_busy {s : State} (h : ¬(s.hst.engine = .idle ∧ s.sup.supply ≠ .down)) : arbitrate s = s :=
  if_pos (by tauto)

section Free
variable {s : State} (free : s.hst.engine = .idle ∧ s.sup.supply ≠ .down)
include free

theorem arbitrate_read {r : Reader} {k : Nat} (read : waitingRead s = some (r, k)) :
    arbitrate s = updHst (fun h => { h with engine := .read r k }) s := by
  simp [arbitrate, free, read]

variable (noRead : waitingRead s = none)
include noRead

theorem arbitrate_snapshot (snap : s.hst.snapEligible = true) :
    arbitrate s = updHst (fun h => { h with engine := .snapshot }) s := by
  simp [arbitrate, free, noRead, snap]

variable (noSnap : s.hst.snapEligible = false)
include noSnap

theorem arbitrate_checkpoint {p : Nat} (ckpt : s.hst.ckptEligible = true) (position : s.hst.nextPosition = some p) :
    arbitrate s = grantCheckpoint p s := by
  simp [arbitrate, free, noRead, noSnap, ckpt, position]

theorem arbitrate_rest (noCkpt : s.hst.ckptEligible = false) :
    arbitrate s = if s.sup.supply = .run then arbitrateRun s else s := by
  simp [arbitrate, free, noRead, noSnap, noCkpt]

end Free

theorem engineFirst : EngineFirst := by
  intro s
  dsimp only
  refine ⟨arbitrate_busy, fun k rest free unread => ?_, fun p n k rest free unread reads => ?_,
    fun free noRead snap => ?_,
    fun p free noRead noSnap running position => ⟨fun c retry => ?_, fun causes retry request => ?_⟩⟩
  · exact arbitrate_read free (by simp [waitingRead, unread])
  · exact arbitrate_read free (by simp [waitingRead, unread, reads])
  · refine arbitrate_snapshot free ((waitingRead_eq_none_iff s).mpr noRead) ?_
    rwa [← snapEligible_eq_false_iff, Bool.not_eq_false] at snap
  · rw [arbitrate_checkpoint free ((waitingRead_eq_none_iff s).mpr noRead) ((snapEligible_eq_false_iff _).mpr noSnap)
      (by simp [Hst.ckptEligible, running, position, retry]) position, grantCheckpoint_retry p retry]
    rfl
  · rw [arbitrate_checkpoint free ((waitingRead_eq_none_iff s).mpr noRead) ((snapEligible_eq_false_iff _).mpr noSnap)
      (by simp [Hst.ckptEligible, running, position, request]) position, grantCheckpoint_request p retry request]
    rfl

/-! ### Items 4 to 6, in RUN -/

theorem arbitrateRun_suspended {s : State} {x : Nat} (h : s.hst.suspended = some x) :
    arbitrateRun s = updHst (fun h => { h with suspended := none, engine := .erase x }) s := by
  simp [arbitrateRun, h]

theorem arbitrateRun_part {s : State} {j : CalJob} (suspended : s.hst.suspended = none) (job : s.hst.calJob = some j)
    (programming : j.erasing = false) : arbitrateRun s = updHst (fun h => { h with engine := .part }) s := by
  simp [arbitrateRun, suspended, job, programming]

theorem arbitrateRun_write {s : State} {w : CalWrite} {rest : List CalWrite} (suspended : s.hst.suspended = none)
    (job : s.hst.calJob = none) (waiting : s.hst.calWaiting = w :: rest) : arbitrateRun s = grantWrite w rest s := by
  simp [arbitrateRun, suspended, job, waiting]

theorem arbitrateRun_list {s : State} (suspended : s.hst.suspended = none)
    (none : s.hst.calJob = none ∧ s.hst.calWaiting = [] ∨ ∃ j, s.hst.calJob = some j ∧ j.erasing = true) :
    arbitrateRun s = updHst Hst.nextErase s := by
  rcases none with ⟨job, waiting⟩ | ⟨j, job, erasing⟩
  · simp [arbitrateRun, suspended, job, waiting]
  · simp [arbitrateRun, suspended, job, erasing]

theorem nextErase_first {h : Hst} {pre post : List Nat} {x : Nat} (list : h.eraseList = pre ++ x :: post)
    (locked : ∀ y ∈ pre, h.locked y = true) (free : h.locked x = false) : h.nextErase = h.beginErase x := by
  have found : h.eraseList.find? (fun y => !h.locked y) = some x := by
    rw [List.find?_eq_some_iff_append]
    exact ⟨by simp [free], pre, post, list, fun y hy => by simp [locked y hy]⟩
  rw [Hst.nextErase, found]

theorem nextErase_none {h : Hst} (locked : ∀ y ∈ h.eraseList, h.locked y = true) : h.nextErase = h := by
  have found : h.eraseList.find? (fun y => !h.locked y) = none := by
    rw [List.find?_eq_none]
    exact fun y hy => by simp [locked y hy]
  rw [Hst.nextErase, found]

theorem engineRunWork : EngineRunWork := by
  intro s idle unread reads noSnap noCkpt
  dsimp only
  have rest (notDown : s.sup.supply ≠ .down) : arbitrate s = if s.sup.supply = .run then arbitrateRun s else s :=
    arbitrate_rest ⟨idle, notDown⟩ ((waitingRead_eq_none_iff s).mpr ⟨unread, reads⟩)
      ((snapEligible_eq_false_iff _).mpr noSnap) ((ckptEligible_eq_false_iff _).mpr noCkpt)
  have run (supply : s.sup.supply = .run) : arbitrate s = arbitrateRun s := by
    rw [rest (by simp [supply]), if_pos supply]
  refine ⟨fun notRun => ?_, fun x supply suspended => ?_, fun j supply suspended job programming => ?_,
    fun w waiting supply suspended job write => ?_, fun pre x post supply list erases locked free => ?_,
    fun supply list locked => ?_, locked_log _, fun x => locked_other _⟩
  · by_cases down : s.sup.supply = .down
    · exact arbitrate_busy fun free => free.2 down
    · rw [rest down, if_neg notRun]
  · rw [run supply, arbitrateRun_suspended suspended]
    rfl
  · rw [run supply, arbitrateRun_part suspended job programming]
    rfl
  · rw [run supply, arbitrateRun_write suspended job write]
    rfl
  · rw [run supply, arbitrateRun_list list.1 list.2, updHst, nextErase_first erases locked free]
    rfl
  · rw [run supply, arbitrateRun_list list.1 list.2, updHst, nextErase_none locked]

/-- Settles O6: the arbiter's items one by one, the work of RUN among them. -/
theorem engineOrder : Obligations.EngineOrder := ⟨engineFirst, engineRunWork⟩

end Sys2Proof.Machine
end

section
/-! PROOFS. The override lines (R59 to R62): their level changes and debounces, when a change evaluates the band, and
the three requests on them. -/
namespace Sys2Proof.Machine
open Sys2Proof.Claim

/-! ### Level changes and debounces (R60) -/

theorem levelTo_same (now : Nat) {level : Bool} {l : OvLine} (h : level = l.level) : l.levelTo now level = l :=
  if_pos h

theorem levelTo_changed (now : Nat) {level : Bool} {l : OvLine} (h : level ≠ l.level) : l.levelTo now level =
    { l with level := level, timer := if level = l.debounced then none else some (now + 200) } :=
  if_neg h

/-- A level change with main supply present writes the line alone. -/
theorem exec_lineLevel (i : Fin 2) (level : Bool) {s : State} (powered : s.sup.powered = true) :
    exec (.overrideLineLevelChange i level) s = .next { s with cal := { s.cal with
      lines := s.cal.lines.set i (s.cal.lines[i].levelTo s.tim.runMs level) } } :=
  congrArg Host.Outcome.next (if_pos powered)

theorem exec_lineSettles (i : Fin 2) {s : State} (powered : s.sup.powered = true) :
    exec (.overrideDebounceExpiry i) s = .next (finish (lineSettles i s)) :=
  congrArg Host.Outcome.next (command_powered _ powered)

theorem lineEvents : LineEvents := by
  intro i level s powered
  dsimp only
  rw [exec_lineLevel i level powered, exec_lineSettles i powered]
  refine ⟨fun same => ?_, fun changed back => ?_, fun changed differs => ?_, fun stopped => ?_, fun t running => ?_⟩
  · rw [levelTo_same _ same, Fin.getElem_fin, Vector.set_getElem_self]
  · rw [levelTo_changed _ changed, if_pos back]
  · rw [levelTo_changed _ changed, if_neg differs]
  · simp only [lineSettles, stopped]
  · simp only [lineSettles, running]

/-! ### When a change evaluates the band (R55, R59) -/

theorem overrideChange_eq : OverrideChange := by
  intro i f s
  refine ⟨fun unchanged => ?_, fun changed supply => ?_, fun pin => ?_, fun virt => ?_⟩
  · rcases unchanged with same | starting
    · exact if_neg (not_not.mpr same)
    · unfold updLine
      dsimp only
      split_ifs with changed
      · exact if_pos starting
      · rfl
  · exact (if_pos changed).trans (if_neg supply)
  · rw [OvLine.effective, pin]
  · rw [OvLine.effective, virt]

/-! ### The requests (R59, R61, R62) -/

/-- A map entry that SET_OVERRIDE_MAP refuses: FORCE with a band above 7 (R62, log 45). -/
def mapEntryBad (e : RawMapEntry) : Bool := e.kind == 1 && decide (7 < e.band)

theorem mapEntryBad_eq_false_iff (e : RawMapEntry) : mapEntryBad e = false ↔ (e.kind = 1 → e.band ≤ 7) := by
  simp [mapEntryBad]

/-- Whether the entry at a position is refused. -/
def badAt (m : Vector RawMapEntry 4) (i : Nat) : Bool :=
  match m.toList[i]? with
  | some e => mapEntryBad e
  | none => false

theorem badAt_val (m : Vector RawMapEntry 4) (i : Fin 4) : badAt m i.val = mapEntryBad m[i] := by
  have entry : m.toList[i.val]? = some m[i] := by simp
  rw [badAt, entry]

theorem badMapEntry_eq (m : Vector RawMapEntry 4) : badMapEntry m = (List.range 4).find? (badAt m) := rfl

theorem badMapEntry_eq_none {m : Vector RawMapEntry 4} (fine : ∀ i : Fin 4, mapEntryBad m[i] = false) :
    badMapEntry m = none := by
  rw [badMapEntry_eq, List.find?_range_eq_none]
  intro i hi
  rw [badAt_val m ⟨i, hi⟩, fine]
  rfl

theorem badMapEntry_eq_some {m : Vector RawMapEntry 4} {i : Fin 4} (bad : mapEntryBad m[i] = true)
    (before : ∀ j < i, mapEntryBad m[j] = false) : badMapEntry m = some i.val := by
  rw [badMapEntry_eq, List.find?_range_eq_some]
  refine ⟨(badAt_val m i).trans bad, List.mem_range.mpr i.isLt, fun j hj => ?_⟩
  rw [badAt_val m ⟨j, hj.trans i.isLt⟩, before ⟨j, hj.trans i.isLt⟩ hj]
  rfl

theorem line_ofNat (i : Fin 2) : Fin.ofNat 2 i.val = i := Fin.ofNat_val_eq_self i

theorem overrideRequests : OverrideRequests := by
  intro p s
  have lines (n : Nat) : (taken p n s).cal = s.cal := by simp
  refine ⟨fun i serves => ?_, fun i c serves => ?_, fun i v serves => ?_, fun i v serves above => ?_, fun serves => ?_,
    fun m serves => ⟨fun fine => ?_, fun i kind band before => ?_⟩⟩
  · refine congrArg Host.Outcome.next (command_served serves rfl ?_)
    simp only [serve, ownSetOverrideSource, line_ofNat, lines]
    rfl
  · refine congrArg Host.Outcome.next (command_served serves rfl ?_)
    simp only [serve, ownSetOverrideSource, line_ofNat]
    rfl
  · refine congrArg Host.Outcome.next (command_served serves rfl ?_)
    have flag : v.toNat ≤ 1 ∧ (v.toNat == 1) = v := by cases v <;> decide
    simp only [serve, ownSetOverride, line_ofNat, flag, if_true]
    rfl
  · refine congrArg Host.Outcome.next (command_served serves rfl ?_)
    simp only [serve, ownSetOverride, if_neg (Nat.not_le.mpr above)]
    rfl
  · refine congrArg Host.Outcome.next (command_served serves rfl ?_)
    simp only [serve, ownSetOverrideMap, lines]
    rfl
  · refine congrArg Host.Outcome.next (command_served serves rfl ?_)
    have none := badMapEntry_eq_none fun i => (mapEntryBad_eq_false_iff _).mpr (fine i)
    simp only [serve, ownSetOverrideMap, none, lines]
    rfl
  · refine congrArg Host.Outcome.next (command_served serves rfl ?_)
    have bad : mapEntryBad m[i] = true := Bool.and_eq_true_iff.mpr ⟨beq_iff_eq.mpr kind, decide_eq_true band⟩
    have first : badMapEntry m = some i.val :=
      badMapEntry_eq_some bad fun j hj => (mapEntryBad_eq_false_iff _).mpr (before j hj)
    simp only [serve, ownSetOverrideMap, first]
    rfl

/-- Settles O22: the events on the lines, the change that evaluates the band, and the owners of the three requests. -/
theorem overrideLines : Obligations.OverrideLines := ⟨lineEvents, overrideChange_eq, overrideRequests⟩

end Sys2Proof.Machine
end

section
/-! PROOFS. Activation (R69 to R76): the request of an image write, the activation check, the swap within a close, and
the two requests. -/
namespace Sys2Proof.Machine
open Sys2Proof.Claim

/-! ### The activation check (R72, R74) -/

theorem activationDue_iff (s : State) : activationDue s = true ↔ s.tim.valid = true ∧ ∃ a, s.cal.activation = some a ∧
    a.day * 1440 + a.minute ≤ s.tim.localSec / 60 := by
  unfold activationDue
  split
  next a time => simp [time]
  next time => simp [time]

theorem activationCheck : ActivationCheck :=
  fun s => ⟨activationDue_iff s, checkActivation_of_not_due, fun due => if_pos due⟩

/-! ### The request of an image write (R71, R153) -/

/-- The waiting writes with a write of the passive calendar into sector `k` asked for: it replaces one waiting for that
sector, else joins the list. -/
def joinWrite (k : Nat) (l : List CalWrite) : List CalWrite :=
  let w : CalWrite := { sector := k, ofActive := false }
  if l.any (·.sector == k) then l.map fun x => if x.sector = k then w else x else l ++ [w]

theorem joinWrite_absent {k : Nat} {l : List CalWrite} (h : ∀ x ∈ l, x.sector ≠ k) :
    joinWrite k l = l ++ [{ sector := k, ofActive := false }] :=
  if_neg (by simpa using h)

theorem replaceWrite_absent {k : Nat} {l : List CalWrite} (w : CalWrite) (h : ∀ x ∈ l, x.sector ≠ k) :
    (l.map fun x => if x.sector = k then w else x) = l :=
  (List.map_congr_left fun x hx => if_neg (h x hx)).trans l.map_id'

theorem joinWrite_replaces {k : Nat} {pre post : List CalWrite} {x : CalWrite} (hx : x.sector = k)
    (h : ∀ y ∈ pre ++ post, y.sector ≠ k) :
    joinWrite k (pre ++ x :: post) = pre ++ { sector := k, ofActive := false } :: post := by
  refine (if_pos (by simp [hx])).trans ?_
  rw [List.map_append, List.map_cons, if_pos hx, replaceWrite_absent _ fun y hy => h y (List.mem_append_left _ hy),
    replaceWrite_absent _ fun y hy => h y (List.mem_append_right _ hy)]

theorem imageRequest : ImageRequest := by
  intro s
  dsimp only
  have request (running : s.hst.calFailed = false) : requestImage s = { s with
      cal := { s.cal with passiveAt := s.cal.writeSector }
      hst := { s.hst with calWaiting := joinWrite s.cal.writeSector s.hst.calWaiting } } :=
    if_neg (by simp [running])
  rw [← Cal.writeSector]
  refine ⟨fun failed => if_pos failed, fun running absent => ?_, fun pre x post running waiting hx others => ?_⟩
  · rw [request running, joinWrite_absent absent]
  · rw [request running, waiting, joinWrite_replaces hx others]

/-! ### The activation within a close (R75, R76) -/

theorem activate_absent {s : State} (h : s.cal.passive = none) : activate s = s := by
  rw [activate, h]

theorem activationSwaps : ActivationSwaps := by
  refine fun s => ⟨activate_absent, fun c passive => ?_⟩
  unfold activate
  split
  next absent => cases passive.symm.trans absent
  next d present =>
    obtain rfl := Option.some.inj (present.symm.trans passive)
    rfl

/-- After an activation there is no passive calendar. -/
theorem activate_passive (s : State) : (activate s).cal.passive = none := by
  cases passive : s.cal.passive with
  | none => rwa [activate_absent passive]
  | some c =>
    rw [(activationSwaps s).2 c passive]
    simp [evalBand_cal, raise]

theorem closeEnded_passive (o : CloseOrder) (s : State) : (closeEnded o s).cal.passive = s.cal.passive := by
  simp [closeEnded, ite_fields]

/-- A CALENDAR trigger with a passive calendar activates it in a close performed, or leaves both owed (R73, R85). -/
theorem trigger_calendar_cases {s : State} {c : Calendar} (passive : s.cal.passive = some c) :
    let w := trigger .calendar none s
    w.set.owed = none ∧ w.cal.passive = none ∨ w.set.owed ≠ none ∧ w.cal.passive = some c := by
  unfold trigger
  split
  · exact .inr ⟨by simp, passive⟩
  · split
    · refine .inl ⟨rfl, ?_⟩
      rw [performClose_eq, closeEnded_passive]
      exact activate_passive _
    · exact .inr ⟨by simp, passive⟩

/-! ### PASSIVE_ACTIVATE_AT (R70) -/

theorem RawDateTime.ok_iff (t : RawDateTime) : RawDateTime.ok t = true ↔ 20 ≤ t.year ∧ t.year ≤ 99 ∧
    validDate (2000 + t.year) t.month t.day = true ∧ t.minute < 1440 := by
  simp [RawDateTime.ok, and_assoc]

theorem ownPassiveActivateAt_absent {t : RawDateTime} {s : State} (ok : RawDateTime.ok t = true)
    (passive : s.cal.passive = none) : ownPassiveActivateAt t s = bare .state s := by
  simp [ownPassiveActivateAt, ok, passive]

theorem ownPassiveActivateAt_invalid {t : RawDateTime} {s : State} {c : Calendar} {table index : Nat}
    (ok : RawDateTime.ok t = true) (passive : s.cal.passive = some c) (invalid : c.validate = some (table, index)) :
    ownPassiveActivateAt t s = rangeAt table index s := by
  simp [ownPassiveActivateAt, ok, passive, invalid]

/-- An activation time set: where an activation was owed, its cancelling is saved (R70). -/
def timeSet (t : RawDateTime) (s : State) : State :=
  let u := cancelOwedActivation { s with cal := { s.cal with activation := some (RawDateTime.time t) } }
  if s.activationOwed then setting u else u

theorem ownPassiveActivateAt_accepted {t : RawDateTime} {s : State} {c : Calendar} (ok : RawDateTime.ok t = true)
    (passive : s.cal.passive = some c) (valid : c.validate = none) :
    ownPassiveActivateAt t s = okWith .empty (checkActivation (scheduleImage (timeSet t s))) := by
  simp only [ownPassiveActivateAt, ok, passive, valid, if_true, timeSet]

theorem timeSet_none (t : RawDateTime) {s : State} (owed : s.activationOwed = false) :
    timeSet t s = { s with cal := { s.cal with activation := some (RawDateTime.time t) } } := by
  have kept := ((cancelled_owed_eq_iff s).mpr owed).symm
  simp only [timeSet, owed, cancelOwedActivation, kept]
  rfl

theorem timeSet_cancels (t : RawDateTime) {s : State} {o : Owed} (owed : s.set.owed = some o)
    (flag : o.calFlag = true) :
    timeSet t s = requestCheckpoint .config { s with
      cal := { s.cal with activation := some (RawDateTime.time t) }
      set := { s.set with owed := some { o with calFlag := false } } } := by
  have activation : s.activationOwed = true := (activationOwed_iff s).mpr ⟨o, owed, flag⟩
  simp only [timeSet, activation, cancelOwedActivation, owed, if_true]
  rfl

theorem timeSet_persisted (t : RawDateTime) (s : State) : (timeSet t s).cal.persisted = s.cal.persisted := by
  simp [timeSet, ite_fields]

theorem passiveActivateAt : PassiveActivateAt := by
  intro p t s serves
  dsimp only
  have cal : (taken p 16 s).cal = s.cal := by simp
  have set : (taken p 16 s).set = s.set := by simp
  have exec_eq {u : State} {st : Status} {a : Answer}
      (owner : ownPassiveActivateAt t (taken p 16 s) = (u, some (st, a))) :
      exec (.passiveActivateAt p t) s = .next (answered p 16 st a u) :=
    congrArg Host.Outcome.next (command_served serves rfl owner)
  have accepted {c : Calendar} (ok : RawDateTime.ok t = true) (passive : s.cal.passive = some c)
      (valid : c.validate = none) {v : State} (timed : timeSet t (taken p 16 s) = v) :
      exec (.passiveActivateAt p t) s = .next (answered p 16 .ok .empty (checkActivation
        (if s.cal.persisted then requestCheckpoint .config v else requestImage v))) := by
    have persisted : v.cal.persisted = s.cal.persisted := by rw [← timed, timeSet_persisted, cal]
    rw [← persisted]
    subst timed
    exact exec_eq (ownPassiveActivateAt_accepted ok (cal ▸ passive) valid)
  refine ⟨RawDateTime.ok_iff t, fun bad => ?_, fun ok passive => ?_, fun c table index ok passive invalid => ?_,
    fun c ok passive valid owed => ?_, fun c o ok passive valid owed flag => ?_⟩
  · exact exec_eq (if_neg (by simp [bad]))
  · exact exec_eq (ownPassiveActivateAt_absent ok (cal ▸ passive))
  · exact exec_eq (ownPassiveActivateAt_invalid ok (cal ▸ passive) invalid)
  · refine accepted ok passive valid ?_
    rw [timeSet_none t (by simpa [State.activationOwed, set] using owed), cal]
    rfl
  · refine accepted ok passive valid ?_
    rw [timeSet_cancels t (set ▸ owed) flag, cal, set]
    rfl

/-! ### PASSIVE_ACTIVATE_NOW (R73) -/

/-- An activation asked for at once: the activation time is cleared, and an image is written where none was (R73). -/
def readied (s : State) : State :=
  let u := { s with cal := { s.cal with activation := none } }
  if s.cal.persisted then u else requestImage u

theorem readied_passive (s : State) : (readied s).cal.passive = s.cal.passive := by
  unfold readied
  split_ifs
  · rfl
  · exact requestImage_passive _

theorem ownPassiveActivateNow_absent {s : State} (passive : s.cal.passive = none) :
    ownPassiveActivateNow s = bare .state s := by
  simp [ownPassiveActivateNow, passive]

theorem ownPassiveActivateNow_invalid {s : State} {c : Calendar} {table index : Nat} (passive : s.cal.passive = some c)
    (invalid : c.validate = some (table, index)) : ownPassiveActivateNow s = rangeAt table index s := by
  simp [ownPassiveActivateNow, passive, invalid]

theorem ownPassiveActivateNow_accepted {s : State} {c : Calendar} (passive : s.cal.passive = some c)
    (valid : c.validate = none) :
    let w := trigger .calendar none (readied s)
    ownPassiveActivateNow s = if w.set.owed = none then okWith .empty w else bare .deferred w := by
  have answer : ownPassiveActivateNow s =
      if (trigger .calendar none (readied s)).cal.passive.isNone then okWith .empty (trigger .calendar none (readied s))
      else bare .deferred (trigger .calendar none (readied s)) := by
    unfold ownPassiveActivateNow
    split
    next absent => cases passive.symm.trans absent
    next d present =>
      obtain rfl := Option.some.inj (present.symm.trans passive)
      rw [valid]
      rfl
  rcases trigger_calendar_cases ((readied_passive s).trans passive) with ⟨done, gone⟩ | ⟨owed, waits⟩
  · rw [answer, gone]
    exact (if_pos done).symm
  · rw [answer, waits]
    exact (if_neg owed).symm

theorem passiveActivateNow : PassiveActivateNow := by
  intro p s serves
  dsimp only
  have cal : (taken p 17 s).cal = s.cal := by simp
  have exec_eq {u : State} {st : Status} {a : Answer}
      (owner : ownPassiveActivateNow (taken p 17 s) = (u, some (st, a))) :
      exec (.passiveActivateNow p) s = .next (answered p 17 st a u) :=
    congrArg Host.Outcome.next (command_served serves rfl owner)
  refine ⟨fun passive => ?_, fun c table index passive invalid => ?_, fun c passive valid => ?_⟩
  · exact exec_eq (ownPassiveActivateNow_absent (cal ▸ passive))
  · exact exec_eq (ownPassiveActivateNow_invalid (cal ▸ passive) invalid)
  · have accepted := ownPassiveActivateNow_accepted (s := taken p 17 s) (cal ▸ passive) valid
    rw [readied, cal] at accepted
    exact ⟨fun done => exec_eq (accepted.trans (if_pos done)), fun owed => exec_eq (accepted.trans (if_neg owed))⟩

/-- Settles O24: the two requests rest on the check, the image request and the swap; an activation at once is
performed exactly where no close stays owed. -/
theorem calendarActivation : Obligations.CalendarActivation :=
  ⟨passiveActivateAt, passiveActivateNow, activationCheck, imageRequest, activationSwaps⟩

end Sys2Proof.Machine
end

section
/-! PROOFS. Checkpoints (R151, R152, R159, R163, R164, R174): requests, the next record position and the judgement of
the ring, each by its cases; what a checkpoint captures; the end of its program; and the interval. -/
namespace Sys2Proof.Machine
open Sys2Proof.Claim

/-! ### Requests and the interval (R152, R164) -/

theorem checkpointRequest : CheckpointRequest := by
  refine fun c s => ⟨fun failed => if_pos failed, fun running request => ?_, fun set running request => ?_⟩
  · rw [requestCheckpoint, if_neg (by simp [running]), request, Option.getD_none,
      show 0 ||| c.bit = c.bit from BitVec.zero_or]
  · rw [requestCheckpoint, if_neg (by simp [running]), request, Option.getD_some]

theorem periodicTimer : PeriodicTimer := by
  intro s powered
  have exec_eq {t : State} (ends : intervalEnds s = t) : exec .periodicCheckpointTimer s = .next (finish t) := by
    rw [← ends]
    exact congrArg Host.Outcome.next (command_powered _ powered)
  refine ⟨fun waits running => exec_eq ?_, fun stopped => exec_eq (if_pos (by simpa using stopped))⟩
  exact if_neg (by simp [waits, running])

/-! ### The next record position (R151) -/

theorem positionUsed_eq_false_iff (h : Hst) (p : Nat) :
    h.positionUsed p = false ↔ Store.at h.store (2 * p) = none ∧ Store.at h.store (2 * p + 1) = none := by
  simp [Hst.positionUsed, Store.blank]

/-- The position of the current sector behind the last one written. -/
def Hst.nextFrom (h : Hst) : Nat :=
  match h.ckptLast with
  | some p => p + 1
  | none => 0

/-- A position of the current sector that a checkpoint may take. -/
def Hst.positionOpen (h : Hst) (p : Nat) : Bool := decide (h.nextFrom ≤ p) && !h.positionUsed (8 * h.ckptSector + p)

/-- The position in the next sector, where that is another one and all BLANK. -/
def Hst.nextSectorPosition (h : Hst) : Option Nat :=
  if h.nextRing h.ckptSector != h.ckptSector && Store.sectorBlank h.store (h.nextRing h.ckptSector) then
    some (8 * h.nextRing h.ckptSector)
  else none

theorem nextPosition_eq (h : Hst) : h.nextPosition =
    match (List.range 8).find? h.positionOpen with
    | some p => some (8 * h.ckptSector + p)
    | none => h.nextSectorPosition := by
  have cases : h.nextPosition = match (List.range 8).filter h.positionOpen with
    | p :: _ => some (8 * h.ckptSector + p)
    | [] => h.nextSectorPosition := rfl
  rw [cases, ← List.head?_filter]
  cases (List.range 8).filter h.positionOpen <;> rfl

theorem recordPosition : RecordPosition := by
  intro h
  dsimp only
  have isOpen (q : Nat) : h.positionOpen q = true ↔ h.nextFrom ≤ q ∧
      Store.at h.store (2 * (8 * h.ckptSector + q)) = none ∧
      Store.at h.store (2 * (8 * h.ckptSector + q) + 1) = none := by
    simp only [Hst.positionOpen, Bool.and_eq_true, decide_eq_true_eq, Bool.not_eq_true', positionUsed_eq_false_iff]
  refine ⟨fun p behind low unused before => ?_, fun used another blank => ?_, fun used nowhere => ?_⟩
  · have first : (List.range 8).find? h.positionOpen = some p := by
      rw [List.find?_range_eq_some]
      refine ⟨(isOpen p).mpr ⟨behind, unused⟩, List.mem_range.mpr low, fun q hq => ?_⟩
      rw [Bool.not_eq_true', ← Bool.not_eq_true, isOpen]
      exact fun ⟨fromHere, unused⟩ => before q fromHere hq unused
    rw [nextPosition_eq, first]
  all_goals
    have none : (List.range 8).find? h.positionOpen = none := by
      rw [List.find?_range_eq_none]
      intro q hq
      rw [Bool.not_eq_true', ← Bool.not_eq_true, isOpen]
      exact fun ⟨fromHere, unused⟩ => used q fromHere hq unused
    rw [nextPosition_eq, none]
  · exact if_pos (by simp [another, blank])
  · refine if_neg ?_
    rcases nowhere with same | full
    · simp [same]
    · simp [full]

/-! ### The judgement of the ring (R151) -/

/-- The used positions of the current sector. -/
def Hst.ringUsed (h : Hst) : Nat := ((List.range 8).filter fun p => h.positionUsed (8 * h.ckptSector + p)).length

theorem enterErase_enters {h : Hst} {x : Nat} (listed : x ∉ h.eraseList) (suspended : h.suspended ≠ some x)
    (erasing : h.engine ≠ .erase x) : h.enterErase x = { h with eraseList := h.eraseList ++ [x] } :=
  if_neg (by simp [Hst.underErase, listed, suspended, erasing])

theorem enterErase_stays {h : Hst} {x : Nat} (there : x ∈ h.eraseList ∨ h.suspended = some x ∨ h.engine = .erase x) :
    h.enterErase x = h :=
  if_pos (by simpa [Hst.underErase] using there)

section Judged
variable {s : State}

theorem judgeRing_alone (alone : s.hst.nextRing s.hst.ckptSector = s.hst.ckptSector) :
    judgeRing s = if s.hst.ringUsed = 8 ∧ s.hst.ckptFailed = false then failCheckpoints s else s := by
  have judged : s.hst.judgeRingPreErase = (s.hst, s.hst.ringUsed == 8) := if_pos (by simp [alone])
  rw [judgeRing, judged]
  simp

theorem judgeRing_goesOn (another : s.hst.nextRing s.hst.ckptSector ≠ s.hst.ckptSector) :
    judgeRing s =
      if 4 ≤ s.hst.ringUsed ∧ Store.sectorBlank s.hst.store (s.hst.nextRing s.hst.ckptSector) = false then
        updHst (Hst.enterErase (s.hst.nextRing s.hst.ckptSector)) s
      else s := by
  have judged : s.hst.judgeRingPreErase =
      (if 4 ≤ s.hst.ringUsed ∧ Store.sectorBlank s.hst.store (s.hst.nextRing s.hst.ckptSector) = false then
        s.hst.enterErase (s.hst.nextRing s.hst.ckptSector) else s.hst, false) := by
    refine (if_neg (by simp [another])).trans ?_
    rw [apply_ite (·, false)]
    exact if_congr (by simp [Hst.ringUsed]) rfl rfl
  rw [judgeRing, judged]
  split_ifs <;> rfl

end Judged

theorem ringJudgement : RingJudgement := by
  intro s
  have usedPositions : (List.range 8).filter (fun p => (Store.at s.hst.store (2 * (8 * s.hst.ckptSector + p))).isSome ||
      (Store.at s.hst.store (2 * (8 * s.hst.ckptSector + p) + 1)).isSome) =
      (List.range 8).filter fun p => s.hst.positionUsed (8 * s.hst.ckptSector + p) := by
    simp [Hst.positionUsed, Store.blank]
  dsimp only
  rw [usedPositions, ← Hst.ringUsed]
  refine ⟨fun ⟨another, half, full, listed, suspended, erasing⟩ => ?_, fun ⟨alone, used, running⟩ => ?_,
    fun noEntry noFailure => ?_⟩
  · rw [judgeRing_goesOn another, if_pos ⟨half, full⟩, updHst, enterErase_enters listed suspended erasing]
  · rw [judgeRing_alone alone, if_pos ⟨used, running⟩]
    rfl
  · by_cases alone : s.hst.nextRing s.hst.ckptSector = s.hst.ckptSector
    · rw [judgeRing_alone alone, if_neg fun ⟨used, running⟩ => noFailure ⟨alone, used, running⟩]
    · rw [judgeRing_goesOn alone]
      split_ifs with entered
      · rw [updHst, enterErase_stays]
        by_contra there
        simp only [not_or] at there
        exact noEntry ⟨alone, entered.1, entered.2, there⟩
      · rfl

/-! ### What a checkpoint captures (R163, R174) -/

theorem captureComesBack : CaptureComesBack := by
  intro causes s r
  refine ⟨fun first => ?_, fun n newest => ?_, rfl, rfl, rfl, rfl, rfl, rfl, rfl, rfl, rfl, rfl, rfl, rfl, rfl,
    fun i => ?_, rfl, fun i => ?_, rfl, rfl, rfl, rfl⟩
  · simp [captureNow, Hst.nextSeq, first]
  · simp [captureNow, Hst.nextSeq, newest]
  · simp [loadCheckpoint, captureNow, Cal.saved]
  · simp [loadCheckpoint, captureNow]

/-! ### The end of a checkpoint program (R151, R152, R159) -/

theorem checkpointProgrammed_absent {s : State} (engine : ∀ c p r, s.hst.engine ≠ .checkpoint c p r) (v0 v1 : Bool) :
    checkpointProgrammed v0 v1 s = s := by
  rw [checkpointProgrammed]
  split
  next c p r checkpoint => exact absurd checkpoint (engine c p r)
  next => rfl

theorem checkpointProgrammed_eq {s : State} {c : Checkpoint} {p : Nat} {r : Bool}
    (engine : s.hst.engine = .checkpoint c p r) (v0 v1 : Bool) :
    let t := updHst (Hst.programHalves c p v0 v1) s
    checkpointProgrammed v0 v1 s =
      if v0 && v1 then
        judgeRing (updHst (fun h => { h with
          newestSeq := some c.seq, periodicFrom := s.tim.runMs, periodicFired := false }) t)
      else if r then judgeRing (failCheckpoints t)
      else judgeRing (updHst (fun h => { h with ckptRetry := some c }) t) := by
  rw [checkpointProgrammed, engine]
  rfl

theorem checkpointProgramComplete : CheckpointProgramComplete := by
  intro v0 v1 s powered
  have exec_eq {t : State} (ends : checkpointProgrammed v0 v1 s = t) :
      exec (.checkpointProgramComplete v0 v1) s = .next (finish t) := by
    rw [← ends]
    exact congrArg Host.Outcome.next (command_powered _ powered)
  refine ⟨fun engine => exec_eq (checkpointProgrammed_absent engine v0 v1), fun c p r engine => ?_⟩
  have programmed := checkpointProgrammed_eq engine v0 v1
  refine ⟨fun valid => exec_eq ?_, fun invalid first => exec_eq ?_, fun invalid retry => exec_eq ?_⟩
  · rw [programmed, if_pos valid]
    rfl
  · rw [programmed, if_neg (by simp [invalid]), if_neg (by simp [first])]
    rfl
  · rw [programmed, if_neg (by simp [invalid]), if_pos retry]
    rfl

/-- Settles O41: the position and the judgement from the first open position and the used count of the ring. -/
theorem checkpoints : Obligations.Checkpoints :=
  ⟨checkpointRequest, recordPosition, captureComesBack, checkpointProgramComplete, ringJudgement, periodicTimer⟩

end Sys2Proof.Machine
end

section
/-! PROOFS. The ends of calendar part programs and of sector erases, and the suspension of an erase (R142, R148, R153,
R155, R159, R160): what an erase leaves in the memory, slot by slot, and each end by its cases. -/
namespace Sys2Proof.Machine
open Sys2Proof.Claim

/-! ### The end of a calendar part program (R71, R76, R153, R159) -/

theorem partWritten_valid (j : CalJob) (c : SlotContent) (s : State) :
    partWritten j true c s = updHst (fun h => { h with
      store := Store.put h.store (16 * j.sector + j.slot) c, engine := .idle,
      calJob := some { j with slot := j.slot + 1, next := j.next + 1 } }) s := by
  simp [partWritten]

theorem partWritten_invalid (j : CalJob) (c : SlotContent) (s : State) :
    partWritten j false c s = updHst (fun h => { h with
      store := Store.put h.store (16 * j.sector + j.slot) c, engine := .idle,
      calJob := some { j with slot := j.slot + 1, failed := true } }) s := by
  simp [partWritten]

/-- A write whose every part is VALID has ended. -/
def writeEnded (s : State) : State := updHst (fun h => { h with calJob := none }) s

theorem writeComplete_stale {j : CalJob} (s : State) (edited : j.edited = true) : writeComplete j s = writeEnded s :=
  if_pos edited

theorem writeComplete_passive {j : CalJob} (s : State) (kept : j.edited = false) (ofPassive : j.ofActive = false) :
    writeComplete j s = requestCheckpoint .calendar { writeEnded s with cal := { s.cal with persisted := true } } :=
  (if_neg (by simp [kept])).trans (if_neg (by simp [ofPassive]))

theorem holdsActive_iff (j : CalJob) (c : Cal) :
    j.holdsActive c = true ↔ c.designation = some j.sector ∧ j.content = c.active := by
  simp [CalJob.holdsActive]

theorem writeComplete_active {j : CalJob} (s : State) (kept : j.edited = false) (ofActive : j.ofActive = true) :
    writeComplete j s = requestCheckpoint .calendar
      (if s.cal.designation = some j.sector ∧ j.content = s.cal.active then
        { writeEnded s with cal := { s.cal with imageHeld := true } }
      else writeEnded s) := by
  refine (if_neg (by simp [kept])).trans ((if_pos ofActive).trans ?_)
  exact congrArg _ (if_congr (holdsActive_iff j s.cal) rfl rfl)

theorem partProgramComplete : PartProgramComplete := by
  intro s powered
  have exec_eq {valid : Bool} {t : State} (ends : partProgrammed valid s = t) :
      exec (.calendarPartProgramComplete valid) s = .next (finish t) := by
    rw [← ends]
    exact congrArg Host.Outcome.next (command_powered _ powered)
  refine ⟨fun valid engine => exec_eq (partProgrammed_absent (.inl engine) valid), fun j engine job => ?_⟩
  have good := partProgrammed_eq engine job true
  have bad := partProgrammed_eq engine job false
  rw [if_pos rfl] at good
  rw [if_neg Bool.false_ne_true] at bad
  have last (ends : j.next = j.parts) {t : State}
      (complete : writeComplete j (partWritten j true (.part j.next j.parts j.content) s) = t) :
      exec (.calendarPartProgramComplete true) s = .next (finish t) :=
    exec_eq ((good.trans (if_pos ends)).trans complete)
  refine ⟨fun more => exec_eq ?_, fun ends edited => last ends ?_, fun ends kept ofPassive => last ends ?_,
    fun ends kept ofActive => ⟨fun holds => last ends ?_, fun other => last ends ?_⟩, fun first => exec_eq ?_,
    fun again => exec_eq ?_⟩
  · rw [good, if_neg more, partWritten_valid]
    rfl
  · rw [writeComplete_stale _ edited]
    rfl
  · rw [writeComplete_passive _ kept ofPassive]
    rfl
  · rw [writeComplete_active _ kept ofActive]
    exact congrArg _ (if_pos holds)
  · rw [writeComplete_active _ kept ofActive]
    exact congrArg _ (if_neg other)
  · rw [bad, if_neg (by simp [first]), partWritten_invalid]
    rfl
  · rw [bad, if_pos again]
    rfl

/-! ### What an erase leaves (R142, R160) -/

theorem Store.at_filter_sector (m : Store) (x k : Nat) :
    Store.at (m.filter fun e => e.1 / 16 != x) k = if k / 16 = x then none else Store.at m k := by
  induction m with
  | nil => simp [Store.at]
  | cons e m ih =>
    obtain ⟨j, c⟩ := e
    by_cases gone : j / 16 = x
    · rw [List.filter_cons_of_neg (by simp [gone]), ih, Store.at]
      split_ifs with inSector same
      · rfl
      · subst same
        exact absurd gone inSector
      · rfl
    · rw [List.filter_cons_of_pos (by simp [gone]), Store.at, Store.at, ih]
      split_ifs with same inSector
      · subst same
        exact absurd inSector gone
      all_goals rfl

theorem Store.at_junked (m : Store) (x k : Nat) (l : List Nat) :
    Store.at (l.foldl (fun m i => Store.put m (16 * x + i) .junk) m) k =
      if ∃ i ∈ l, 16 * x + i = k then some .junk else Store.at m k := by
  induction l generalizing m with
  | nil => simp
  | cons a l ih =>
    rw [List.foldl_cons, ih]
    by_cases here : 16 * x + a = k
    · subst here
      simp [Store.at_put_self]
    · simp [here, Store.at_put_of_ne m _ (Ne.symm here)]

/-- The slots named INVALID, the others of the sector BLANK, and every other slot as it was. -/
theorem Store.at_erased (m : Store) (x : Nat) (b : BitVec 16) (k : Nat) : Store.at (Store.erased m x b) k =
    if k / 16 = x then (if b.getLsbD (k % 16) then some .junk else none) else Store.at m k := by
  have named : (∃ i ∈ (List.range 16).filter fun i => b.getLsbD i, 16 * x + i = k) ↔
      k / 16 = x ∧ b.getLsbD (k % 16) = true := by
    simp only [List.mem_filter, List.mem_range]
    constructor
    · rintro ⟨i, ⟨low, bit⟩, rfl⟩
      have sector : (16 * x + i) / 16 = x := by omega
      have slot : (16 * x + i) % 16 = i := by omega
      exact ⟨sector, slot.symm ▸ bit⟩
    · rintro ⟨sector, bit⟩
      exact ⟨k % 16, ⟨by omega, bit⟩, by omega⟩
  rw [Store.erased, Store.at_junked, Store.at_filter_sector]
  simp only [named]
  by_cases sector : k / 16 = x
  · simp [sector]
  · simp [sector]

/-! ### The end of an erase and its suspension (R148, R155, R160) -/

theorem eraseDone_absent {s : State} (engine : ∀ x, s.hst.engine ≠ .erase x) (b : BitVec 16) : eraseDone b s = s := by
  rw [eraseDone]
  split
  next x erase => exact absurd erase (engine x)
  next => rfl

/-- The memory and the engine at the end of an erase. -/
def erasedHst (x : Nat) (b : BitVec 16) (s : State) : State :=
  updHst (fun h => { h with store := Store.erased h.store x b, engine := .idle }) s

theorem eraseDone_eq {s : State} {x : Nat} (engine : s.hst.engine = .erase x) (b : BitVec 16) :
    eraseDone b s = if b = 0 then sectorErased x (erasedHst x b s) else retireSector x (erasedHst x b s) := by
  rw [eraseDone, engine]
  rfl

theorem allRetired_iff (h : Hst) (first len : Nat) :
    h.allRetired first len = true ↔ ∀ i : Fin len, first + i.val ∈ h.retired := by
  simp [Hst.allRetired, Fin.forall_iff]

theorem areaLoses_ring {x : Nat} {s : State} (ring : x < 4) :
    areaLoses x s = if s.hst.allRetired 0 4 then failCheckpoints s else judgeRing s :=
  if_pos ring

theorem areaLoses_log {x : Nat} {s : State} (low : 4 ≤ x) (high : x < 10) :
    areaLoses x s = if s.hst.allRetired 4 6 then failLog s else s :=
  (if_neg (by omega)).trans (if_pos high)

theorem areaLoses_images {x : Nat} {s : State} (high : 10 ≤ x) : areaLoses x s = failCalendar s :=
  (if_neg (by omega)).trans (if_neg (by omega))

theorem suspendErase_erasing {h : Hst} {x : Nat} (engine : h.engine = .erase x) :
    h.suspendErase = { h with engine := .idle, suspended := some x } := by
  rw [Hst.suspendErase, engine]

theorem suspendErase_other {h : Hst} (engine : ∀ x, h.engine ≠ .erase x) : h.suspendErase = h := by
  rw [Hst.suspendErase]
  split
  next x erase => exact absurd erase (engine x)
  next => rfl

theorem suspendDue_iff (s : State) : suspendDue s = true ↔ s.hst.reads ≠ [] ∨
    s.hst.queue ≠ [] ∧ s.hst.logFailed = false ∨
    s.hst.ckptFailed = false ∧ (s.hst.ckptRetry ≠ none ∨ s.hst.ckptReq ≠ none) ∧ s.hst.nextPosition ≠ none := by
  simp [suspendDue, Hst.snapEligible, Hst.ckptEligible, Option.isSome_iff_ne_none, or_assoc, and_assoc]

theorem eraseEvents : EraseEvents := by
  intro b s powered
  have done_eq {t : State} (ends : eraseDone b s = t) : exec (.sectorEraseComplete b) s = .next (finish t) := by
    rw [← ends]
    exact congrArg Host.Outcome.next (command_powered _ powered)
  have suspend_eq {t : State} (ends : (if suspendDue s then updHst Hst.suspendErase s else s) = t) :
      exec .eraseSuspend s = .next (finish t) := by
    rw [← ends]
    exact congrArg Host.Outcome.next (command_powered _ powered)
  refine ⟨fun engine => ⟨done_eq (eraseDone_absent engine b), suspend_eq ?_⟩, fun x engine => ?_⟩
  · rw [updHst, suspendErase_other engine, ite_self]
  have ended := eraseDone_eq engine b
  have areaJudged (dirty : b ≠ 0) {t : State} (loses : areaLoses x (raise .storeFault (updHst (fun h => { h with
      retired := h.retired ++ [x] }) (erasedHst x b s))) = t) :
      exec (.sectorEraseComplete b) s = .next (finish (updHst Hst.judgeLogPreErase t)) := by
    rw [← loses]
    exact done_eq (ended.trans (if_neg dirty))
  refine ⟨Store.at_erased _ _ _, fun clean => ⟨fun log => done_eq ?_, fun other => done_eq ?_⟩,
    fun dirty => ⟨fun ring left => ?_, fun ring gone => ?_, fun low high left => ?_, fun low high gone => ?_,
      fun high => ?_⟩, fun due => suspend_eq ?_, fun notDue => suspend_eq (if_neg (by simp [notDue])), suspendDue_iff s⟩
  · rw [ended, if_pos clean, sectorErased]
    exact congrArg _ (if_pos log)
  · rw [ended, if_pos clean, sectorErased]
    exact congrArg _ (if_neg (by omega))
  · refine areaJudged dirty ((areaLoses_ring ring).trans (if_neg ?_))
    simp only [allRetired_iff, Nat.zero_add]
    exact left
  · refine areaJudged dirty ((areaLoses_ring ring).trans (if_pos ?_))
    simp only [allRetired_iff, Nat.zero_add]
    exact gone
  · refine areaJudged dirty ((areaLoses_log low high).trans (if_neg ?_))
    rw [allRetired_iff]
    exact left
  · refine areaJudged dirty ((areaLoses_log low high).trans (if_pos ?_))
    rw [allRetired_iff]
    exact gone
  · exact areaJudged dirty (areaLoses_images high)
  · rw [if_pos due, updHst, suspendErase_erasing engine]

/-- Settles O42: the end of a part by what it leaves of the write, the end of an erase by what it leaves in the memory
and of its area. -/
theorem partsAndErases : Obligations.PartsAndErases := ⟨partProgramComplete, eraseEvents⟩

end Sys2Proof.Machine
end

section
/-! PROOFS. Settlement arithmetic (R94 to R98): what the pool gives to bands taken in turn, the rank order as the bands
sorted by rank, and the figures of the two modes. -/
namespace Sys2Proof.Machine
open Sys2Proof.Claim

/-! ### The pool that is applied to bands in turn (R94, R97, R98) -/

/-- The net import of a band, 0 where the band has surplus. -/
def netImport (imp exp : Vector Nat 8) (b : Fin 8) : Nat := imp[b] - exp[b]

section Pool
variable (imp exp : Vector Nat 8)

theorem applyPool_conserves (l : List (Fin 8)) (pool : Nat) :
    (applyPool imp exp l pool).1 + ((applyPool imp exp l pool).2.map (·.2)).sum = pool := by
  induction l generalizing pool with
  | nil => simp [applyPool]
  | cons b rest ih =>
    have := ih (pool - min pool (imp[b] - exp[b]))
    simp only [applyPool, List.map_cons, List.sum_cons]
    omega

theorem applyPool_applied (l : List (Fin 8)) (pool : Nat) :
    ((applyPool imp exp l pool).2.map (·.2)).sum = min pool ((l.map (netImport imp exp)).sum) := by
  induction l generalizing pool with
  | nil => simp [applyPool]
  | cons b rest ih =>
    simp only [applyPool, List.map_cons, List.sum_cons, ih, netImport]
    omega

theorem appliedTo_cons (x b : Fin 8) (a : Nat) (l : List (Fin 8 × Nat)) :
    appliedTo ((x, a) :: l) b = (if x = b then a else 0) + appliedTo l b := by
  by_cases h : x = b <;> simp [appliedTo, h]

theorem appliedTo_applyPool_of_not_mem {l : List (Fin 8)} {b : Fin 8} (h : b ∉ l) (pool : Nat) :
    appliedTo (applyPool imp exp l pool).2 b = 0 := by
  induction l generalizing pool with
  | nil => rfl
  | cons x rest ih =>
    obtain ⟨other, absent⟩ := List.ne_and_not_mem_of_not_mem_cons h
    rw [applyPool, appliedTo_cons, if_neg other.symm, ih absent]

/-- In bands of ascending rank, each takes what the pool holds beyond the net imports of the lower ranks. -/
theorem appliedTo_applyPool {rank : Fin 8 → Nat} {l : List (Fin 8)} (ascending : l.Pairwise fun a b => rank a < rank b)
    {b : Fin 8} (mem : b ∈ l) (pool : Nat) :
    appliedTo (applyPool imp exp l pool).2 b = min (netImport imp exp b)
      (pool - ((l.filter fun k => decide (rank k < rank b)).map (netImport imp exp)).sum) := by
  induction l generalizing pool with
  | nil => cases mem
  | cons x rest ih =>
    obtain ⟨first, ascending⟩ := List.pairwise_cons.mp ascending
    rw [applyPool, appliedTo_cons]
    rcases List.mem_cons.mp mem with rfl | later
    · have noneLower : (b :: rest).filter (fun k => decide (rank k < rank b)) = [] := by
        simpa using fun k hk => (first k hk).le
      have absent : b ∉ rest := fun again => lt_irrefl _ (first b again)
      rw [noneLower, appliedTo_applyPool_of_not_mem imp exp absent, if_pos rfl]
      simp [netImport, min_comm]
    · have lower := first b later
      have other : x ≠ b := fun same => lt_irrefl _ (same ▸ lower)
      rw [if_neg other, ih ascending later, List.filter_cons_of_pos (by simpa using lower), List.map_cons,
        List.sum_cons]
      simp only [netImport]
      omega

end Pool

/-! ### The bands in rank order (R97) -/

/-- The offset rank of a band, 8 where the table has no such band. -/
def rankOf (entries : List BandEntry) (b : Fin 8) : Nat :=
  match entries[b.val]? with
  | some e => e.rank.val
  | none => 8

theorem bandsBelow_eq (nb : Nat) : bandsBelow nb = (List.finRange 8).filter fun b => decide (b.val < nb) := rfl

theorem bandsBelow_nodup (nb : Nat) : (bandsBelow nb).Nodup := (List.nodup_finRange 8).filter _

theorem mem_bandsBelow {nb : Nat} {b : Fin 8} : b ∈ bandsBelow nb ↔ b.val < nb := by simp [bandsBelow_eq]

section Ranks
variable (entries : List BandEntry)

theorem rankOf_lt_iff (b : Fin 8) : rankOf entries b < 8 ↔ b.val < entries.length := by
  cases entry : entries[b.val]? with
  | none => simpa [rankOf, entry] using List.getElem?_eq_none_iff.mp entry
  | some e =>
    obtain ⟨below, -⟩ := List.getElem?_eq_some_iff.mp entry
    simp [rankOf, below]

/-- With no rank twice, a band below nb is told by its rank. -/
theorem rankOf_inj {entries : List BandEntry} (distinct : (entries.map BandEntry.rank).Nodup) {a b : Fin 8}
    (below : a.val < entries.length) (same : rankOf entries a = rankOf entries b) : a = b := by
  have belowB : b.val < entries.length := by rwa [← rankOf_lt_iff, ← same, rankOf_lt_iff]
  have ranks : entries[a.val].rank = entries[b.val].rank := by
    simpa [rankOf, below, belowB, Fin.val_inj] using same
  refine Fin.ext ((List.getElem?_inj (by simpa using below) distinct).mp ?_)
  simp [below, belowB, ranks]

theorem rankOrder_eq : rankOrder entries = (List.finRange 8).flatMap fun r =>
    (bandsBelow entries.length).filter fun b => decide (rankOf entries b = r.val) := by
  change (List.finRange 8).flatMap _ = _
  congr 1
  funext r
  refine List.filter_congr fun b _ => ?_
  cases entry : entries[b.val]? with
  | none => simp [rankOf, entry, r.isLt.ne']
  | some e => simp [rankOf, entry, Fin.val_inj, beq_eq_decide]

theorem mem_rankOrder (b : Fin 8) : b ∈ rankOrder entries ↔ b ∈ bandsBelow entries.length := by
  rw [rankOrder_eq]
  simp only [List.mem_flatMap, List.mem_finRange, List.mem_filter, decide_eq_true_eq, true_and]
  constructor
  · rintro ⟨-, below, -⟩
    exact below
  · exact fun below => ⟨⟨rankOf entries b, (rankOf_lt_iff entries b).mpr (mem_bandsBelow.mp below)⟩, below, rfl⟩

/-- With no rank twice, the rank order ascends strictly. -/
theorem rankOrder_ascending {entries : List BandEntry} (distinct : (entries.map BandEntry.rank).Nodup) :
    (rankOrder entries).Pairwise fun a b => rankOf entries a < rankOf entries b := by
  rw [rankOrder_eq, List.pairwise_flatMap]
  refine ⟨fun r _ => ?_, ?_⟩
  · refine ((bandsBelow_nodup _).filter _).imp_of_mem fun {a b} memA memB differ => absurd ?_ differ
    simp only [List.mem_filter, decide_eq_true_eq] at memA memB
    obtain ⟨below, rankA⟩ := memA
    obtain ⟨-, rankB⟩ := memB
    exact rankOf_inj distinct (mem_bandsBelow.mp below) (rankA.trans rankB.symm)
  · refine (List.pairwise_lt_finRange 8).imp fun {r q} lower a memA b memB => ?_
    simp only [List.mem_filter, decide_eq_true_eq] at memA memB
    obtain ⟨-, rankA⟩ := memA
    obtain ⟨-, rankB⟩ := memB
    rwa [rankA, rankB]

theorem rankOrder_perm {entries : List BandEntry} (distinct : (entries.map BandEntry.rank).Nodup) :
    (rankOrder entries).Perm (bandsBelow entries.length) := by
  have nodup : (rankOrder entries).Nodup :=
    (rankOrder_ascending distinct).imp fun {_ _} lower => ne_of_apply_ne (rankOf entries) lower.ne
  exact (List.perm_ext_iff_of_nodup nodup (bandsBelow_nodup _)).mpr (mem_rankOrder entries)

end Ranks

/-! ### The two modes (R94 to R98) -/

theorem settle_total (c : Calendar) (imp exp : Vector Nat 8) (credit cap : Nat) :
    settle .total c imp exp credit cap = settleTotal c.nb imp exp credit cap := rfl

theorem settle_banded (c : Calendar) (imp exp : Vector Nat 8) (credit cap : Nat) :
    settle .banded c imp exp credit cap = settleBanded c.entries imp exp credit cap := rfl

/-- Settles O25: neither mode applies more than the pool holds, and what is left is divided at the cap. -/
theorem settlementBalances : Obligations.SettlementBalances := by
  intro mode c imp exp credit cap
  cases mode with
  | total =>
    simp only [settle_total, settleTotal]
    omega
  | banded =>
    have conserved := applyPool_conserves imp exp (rankOrder c.entries)
      (credit + (settleBanded c.entries imp exp credit cap).earned)
    simp only [settle_banded, settleBanded] at conserved ⊢
    omega

/-- Settles O26: with N of either sign, the truncated differences of the sums are its figures. -/
theorem totalModeFigures : Obligations.TotalModeFigures := by
  intro c imp exp C K
  simp only [settle_total, settleTotal, ← bandsBelow_eq, true_and]
  refine ⟨fun importing => ?_, fun surplus => ?_⟩
  · omega
  · omega

/-- What a band is applied of the pool in BANDED mode, in closed form. -/
theorem appliedTo_rankOrder {entries : List BandEntry} (distinct : (entries.map BandEntry.rank).Nodup)
    (imp exp : Vector Nat 8) (pool : Nat) {b : Fin 8} (below : b ∈ bandsBelow entries.length) :
    appliedTo (applyPool imp exp (rankOrder entries) pool).2 b = min (netImport imp exp b)
      (pool - (((bandsBelow entries.length).filter fun k => decide (rankOf entries k < rankOf entries b)).map
        (netImport imp exp)).sum) := by
  rw [appliedTo_applyPool imp exp (rankOrder_ascending distinct) ((mem_rankOrder entries b).mpr below),
    (((rankOrder_perm distinct).filter _).map _).sum_eq]

/-- Settles O27: the rank order is the bands sorted by rank, so what each band is applied is known from the net imports
of the lower ranks. -/
theorem bandedModeFigures : Obligations.BandedModeFigures := by
  intro c t imp exp C K table _ distinct bands rank net earn pool before billable x
  have entries : c.entries = t.entries := by rw [Calendar.entries, table]
  have settled : x = settleBanded t.entries imp exp C K := by rw [← entries]; rfl
  have billed : ∀ b ∈ bands, imp[b] - exp[b] - appliedTo (applyPool imp exp (rankOrder t.entries) pool).2 b =
      billable b := fun b below => congrArg (net b - ·) (appliedTo_rankOrder distinct imp exp pool below)
  have applied : x.applied = min pool ((bands.map net).sum) := by
    have ordered : ((rankOrder t.entries).map net).sum = (bands.map net).sum :=
      ((rankOrder_perm distinct).map net).sum_eq
    rw [← ordered, settled]
    exact applyPool_applied imp exp _ pool
  have remains : (applyPool imp exp (rankOrder t.entries) pool).1 = pool - x.applied := by
    have conserved := applyPool_conserves imp exp (rankOrder t.entries) pool
    rw [settled]
    exact Nat.eq_sub_of_add_eq conserved
  refine ⟨by rw [settled]; rfl, ?_, ?_, applied, ?_, ?_⟩
  · rw [settled]
    exact List.map_congr_left fun b below => by rw [← billed b below]; rfl
  · rw [settled]
    exact congrArg List.sum (List.map_congr_left billed)
  · rw [← remains, settled]
    rfl
  · rw [← remains, settled]
    rfl

end Sys2Proof.Machine
end

section
/-! PROOFS. Closes (R79 to R92, R99): triggers, the retry of an owed close and the local midnight, each by its cases; the
eight stages of a close; and the two requests, by what their owner answers. -/
namespace Sys2Proof.Machine
open Sys2Proof.Claim

/-! ### Triggers and retries of a close (R85 to R88) -/

theorem closeSlot_eq_some_iff (s : State) (k : Nat) : closeSlot s = some k ↔ closable k s := by
  simp [closeSlot, and_assoc]

theorem closeSlot_eq_none_iff (s : State) : closeSlot s = none ↔ ∀ k, ¬closable k s := by
  simp only [Option.eq_none_iff_forall_ne_some, ne_eq, closeSlot_eq_some_iff]

/-- A trigger's owed-close record where none was owed (R86). -/
def newOwed (r : Reason) (date : Option Nat) : Owed :=
  { first := r, count := 1, calFlag := decide (r = .calendar), date := date }

/-- A trigger that is not performed leaves an owed-close record and says so (R86, R87). -/
def closeDeferred (o : Owed) (s : State) : State :=
  raise .closeDeferred { s with set := { s.set with owed := some o } }

section Triggers
variable {s : State}

theorem trigger_merges {o : Owed} (r : Reason) (date : Option Nat) (owed : s.set.owed = some o) :
    trigger r date s = closeDeferred (o.merge r date) s := by
  simp only [trigger, owed, closeDeferred]

theorem trigger_performs {k : Nat} (r : Reason) (date : Option Nat) (owed : s.set.owed = none) (can : closable k s) :
    trigger r date s = performClose (triggerOrder r date) k s := by
  simp only [trigger, owed, (closeSlot_eq_some_iff s k).mpr can]

theorem trigger_defers (r : Reason) (date : Option Nat) (owed : s.set.owed = none) (cannot : ∀ k, ¬closable k s) :
    trigger r date s = closeDeferred (newOwed r date) s := by
  simp only [trigger, owed, (closeSlot_eq_none_iff s).mpr cannot, closeDeferred, newOwed, beq_eq_decide]

theorem retryOwed_performs {o : Owed} {k : Nat} (owed : s.set.owed = some o) (can : closable k s) :
    retryOwed s = performClose o.order k s := by
  simp only [retryOwed, owed, (closeSlot_eq_some_iff s k).mpr can]

theorem retryOwed_waits (h : s.set.owed = none ∨ ∀ k, ¬closable k s) : retryOwed s = s := by
  cases owed : s.set.owed with
  | none => simp only [retryOwed, owed]
  | some o =>
    have cannot := (closeSlot_eq_none_iff s).mpr (h.resolve_left (by simp [owed]))
    simp only [retryOwed, owed, cannot]

end Triggers

theorem triggerOrder_eq (r : Reason) (date : Option Nat) :
    triggerOrder r date = { reason := r, merged := 1, date := date, activates := decide (r = .calendar) } := by
  rw [triggerOrder, beq_eq_decide]

theorem Owed.merge_eq (r : Reason) (date : Option Nat) (o : Owed) :
    o.merge r date = { o with
      count := min 65535 (o.count + 1)
      calFlag := o.calFlag || decide (r = .calendar)
      date := laterDate o.date date } := by
  rw [Owed.merge, beq_eq_decide]

theorem triggerRule : TriggerRule := by
  intro r date s
  refine ⟨fun k owed can => ?_, fun owed cannot => trigger_defers r date owed cannot, fun o owed => ?_⟩
  · rw [trigger_performs r date owed can, triggerOrder_eq]
  · rw [trigger_merges r date owed, Owed.merge_eq]
    rfl

theorem retryRule : RetryRule := fun _ => ⟨retryOwed_waits, fun _ _ owed can => retryOwed_performs owed can⟩

/-! ### A local midnight (R81, R88) -/

theorem scheduledDue_iff (s : State) (d : Nat) : scheduledDue s d = true ↔ s.set.day ≠ 0 ∧ (dateOf d).day = s.set.day ∧
    (∀ l, s.tim.lastClose = some l → l < d) ∧ ∀ o, s.set.owed = some o → o.date ≠ some d := by
  simp [scheduledDue, isBillingDate, alreadyClosed_eq_false_iff, alreadyOwed_eq_false_iff, and_assoc]

theorem midnightRule : MidnightRule := by
  intro s
  dsimp only
  rw [← scheduledDue_iff]
  exact ⟨fun due => congrArg retryOwed (if_pos due), fun notDue => congrArg retryOwed (if_neg notDue)⟩

/-- Settles O29: a trigger by the close that is owed and the slot a close would take, the retry by the same two, the
midnight by what it finds due. -/
theorem triggersAndRetries : Obligations.TriggersAndRetries := ⟨triggerRule, retryRule, midnightRule⟩

/-! ### The eight stages of a close (R91, R92, R99) -/

theorem closeEnded_eq (o : CloseOrder) (s : State) : closeEnded o s = raise .periodClosed { s with
    tim := if o.reason = .scheduled then { s.tim with lastClose := o.date } else s.tim
    set := { s.set with owed := none } } := by
  unfold closeEnded
  split_ifs <;> rfl

theorem billingDate_eq (o : CloseOrder) : o.billingDate = if o.reason = .scheduled then o.date else none := by
  cases reason : o.reason <;> simp [CloseOrder.billingDate, reason]

/-- The four stages before the activation leave the clock, and the Settlement Unit's own record. -/
theorem periodOpened_tim_set (o : CloseOrder) (k : Nat) (s : State) :
    (periodOpened o k s).tim = s.tim ∧ (periodOpened o k s).set = s.set := by
  simp [periodOpened]

/-- Settles O30: the stages before the activation as they stand, and those behind it on a state whose clock and
settlement record the activation left alone. -/
theorem closeEffects : Obligations.CloseEffects := by
  intro o k s x now snap queued opened t
  have snapped : snapshotNow o s = snap := by
    simp only [snapshotNow, billingDate_eq]
    rfl
  have stages : periodOpened o k s = opened := by
    rw [periodOpened, snapped]
    rfl
  have before : t.tim = s.tim ∧ t.set = s.set := by
    have := periodOpened_tim_set o k s
    simp only [t, ← stages]
    split_ifs <;> simpa using this
  obtain ⟨tim, set⟩ := before
  rw [performClose_eq, stages]
  refine (closeEnded_eq o t).trans ?_
  rw [tim, set]

/-! ### CLOSE_PERIOD (R83, R85 to R87) -/

theorem ownClosePeriod_last {s : State} (last : s.reg.period = periodMax) : ownClosePeriod s = rangeAt 0 0 s :=
  if_pos last

theorem ownClosePeriod_performs {s : State} {k : Nat} (owed : s.set.owed = none) (can : closable k s) :
    ownClosePeriod s = okWith (.closed s.reg.period) (performClose (triggerOrder .commanded none) k s) := by
  have ⟨_, _, below, _⟩ := can
  rw [ownClosePeriod, if_neg below.ne, trigger_performs .commanded none owed can]
  rfl

/-- A trigger that is deferred is answered with the owed-close record it leaves. -/
theorem ownClosePeriod_defers {s : State} {o : Owed} (below : s.reg.period ≠ periodMax)
    (deferred : trigger .commanded none s = closeDeferred o s) :
    ownClosePeriod s = (closeDeferred o s, some (.deferred, .owedClose o)) := by
  rw [ownClosePeriod, if_neg below, deferred]
  rfl

theorem merge_commanded (o : Owed) : o.merge .commanded none = { o with count := min 65535 (o.count + 1) } := by
  cases date : o.date <;> simp [Owed.merge_eq, laterDate, date]

theorem closePeriod : ClosePeriod := by
  intro p s serves
  have ⟨_, supply, _⟩ := serves
  have frame : (taken p 20 s).reg = s.reg ∧ (taken p 20 s).set = s.set ∧ (taken p 20 s).sup = s.sup ∧
      (taken p 20 s).hst = s.hst := by simp
  obtain ⟨reg, set, sup, hst⟩ := frame
  have exec_eq {u : State} {st : Status} {a : Answer} (owner : ownClosePeriod (taken p 20 s) = (u, some (st, a))) :
      exec (.closePeriod p) s = .next (answered p 20 st a u) :=
    congrArg Host.Outcome.next (command_served serves rfl owner)
  have closable_iff (k : Nat) : closable k (taken p 20 s) ↔ closable k s := by
    simp only [closable, reg, sup, hst]
  refine ⟨fun last => ?_, fun k below running owed granted => ?_, fun below owed cannot => ?_, fun o below owed => ?_⟩
  · exact exec_eq (ownClosePeriod_last (reg ▸ last))
  · rw [← reg]
    exact exec_eq (ownClosePeriod_performs (set ▸ owed) ((closable_iff k).mpr ⟨supply, running, below, granted⟩))
  · have deferred : trigger .commanded none (taken p 20 s) = closeDeferred (newOwed .commanded none) (taken p 20 s) := by
      refine trigger_defers _ _ (set ▸ owed) fun k can => ?_
      obtain ⟨-, running, -, granted⟩ := (closable_iff k).mp can
      rcases cannot with restarting | noSlot
      · simp [running] at restarting
      · simp [granted] at noSlot
    rw [← set]
    exact exec_eq (ownClosePeriod_defers (reg ▸ below.ne) deferred)
  · have deferred := trigger_merges (s := taken p 20 s) .commanded none (set ▸ owed)
    rw [merge_commanded] at deferred
    rw [← set]
    exact exec_eq (ownClosePeriod_defers (reg ▸ below) deferred)

/-! ### SET_SETTLEMENT (R79) -/

/-- The settlement settings with each field that is present taken over. -/
def SetUnit.updated (mode cap day : Option Nat) (x : SetUnit) : SetUnit :=
  { x with
    mode := match mode with
      | some m => if m = 1 then .banded else .total
      | none => x.mode
    cap := cap.getD x.cap
    day := day.getD x.day }

/-- An absent field is judged as 0, which lies within every bound. -/
theorem getD_le {a : Option Nat} {bound : Nat} (h : ∀ x, a = some x → x ≤ bound) : a.getD 0 ≤ bound := by
  cases a with
  | none => exact bound.zero_le
  | some x => exact h x rfl

section Setting
variable {mode cap day : Option Nat} {s : State}

theorem ownSetSettlement_capHigh {c : Nat} (present : cap = some c) (high : 999999999 < c) :
    ownSetSettlement mode cap day s = rangeAt 2 0 s := by
  subst present
  exact if_pos high

theorem ownSetSettlement_dayHigh {d : Nat} (capOk : ∀ c, cap = some c → c ≤ 999999999) (present : day = some d)
    (high : 28 < d) : ownSetSettlement mode cap day s = rangeAt 3 0 s := by
  subst present
  exact (if_neg (getD_le capOk).not_gt).trans (if_pos high)

theorem ownSetSettlement_read :
    ownSetSettlement none none none s = okWith (.settlement s.set.mode s.set.cap s.set.day) s :=
  rfl

theorem ownSetSettlement_stores (capOk : ∀ c, cap = some c → c ≤ 999999999) (dayOk : ∀ d, day = some d → d ≤ 28)
    (present : mode ≠ none ∨ cap ≠ none ∨ day ≠ none) :
    let x := s.set.updated mode cap day
    ownSetSettlement mode cap day s = okWith (.settlement x.mode x.cap x.day) (setting { s with set := x }) := by
  have some_field : (mode.isNone && cap.isNone && day.isNone) = false := by
    by_contra absent
    obtain ⟨rfl, rfl, rfl⟩ : mode = none ∧ cap = none ∧ day = none := by simpa using absent
    simp at present
  refine (if_neg (getD_le capOk).not_gt).trans ((if_neg (getD_le dayOk).not_gt).trans ?_)
  rw [some_field]
  rfl

end Setting

theorem setSettlement : SetSettlement := by
  intro p mode cap day s serves
  have set : (taken p 19 s).set = s.set := by simp
  have exec_eq {u : State} {st : Status} {a : Answer}
      (owner : ownSetSettlement mode cap day (taken p 19 s) = (u, some (st, a))) :
      exec (.setSettlement p mode cap day) s = .next (answered p 19 st a u) :=
    congrArg Host.Outcome.next (command_served serves rfl owner)
  dsimp only
  refine ⟨fun c present high => ?_, fun d capOk present high => ?_, fun capOk dayOk => ⟨?_, fun present => ?_⟩⟩
  · exact exec_eq (ownSetSettlement_capHigh present high)
  · exact exec_eq (ownSetSettlement_dayHigh capOk present high)
  · rintro ⟨rfl, rfl, rfl⟩
    rw [← set]
    exact exec_eq ownSetSettlement_read
  · rw [← set]
    exact exec_eq (ownSetSettlement_stores capOk dayOk present)

/-- Settles O31: each request by its owner's answer. -/
theorem settlementRequests : Obligations.SettlementRequests := ⟨closePeriod, setSettlement⟩

end Sys2Proof.Machine
end

section
/-! PROOFS. Export cap control (chapter 6): the arithmetic of the cap, the curtailment states at an accepted frame and
at a change of frame health. First what each operation of the Export Cap Controller writes, said once. -/
namespace Sys2Proof.Machine
open Sys2Proof.Claim

/-! ### The arithmetic (R106, R109, R110) -/

theorem exportPower_of_nonpos {S : Int} (h : S ≤ 0) : exportPower S = -S * 144 / 10 :=
  Int.tdiv_eq_ediv_of_nonneg (by omega)

theorem exportPower_of_nonneg {S : Int} (h : 0 ≤ S) : exportPower S = -(S * 144 / 10) := by
  rw [exportPower, Int.neg_mul, Int.neg_tdiv, Int.tdiv_eq_ediv_of_nonneg (by omega)]

theorem exportPower_bounds {S : Int} (low : -6141 ≤ S) (high : S ≤ 6141) :
    -88430 ≤ exportPower S ∧ exportPower S ≤ 88430 := by
  rcases le_total S 0 with h | h
  · rw [exportPower_of_nonpos h]
    omega
  · rw [exportPower_of_nonneg h]
    omega

theorem exportPower_claim : ExportPower :=
  ⟨fun _ => exportPower_of_nonpos, fun _ => exportPower_of_nonneg, fun _ => exportPower_bounds,
    by decide, by decide, by decide, by decide, by decide, by decide⟩

section Qualify
variable {xs : Int} {limit hyst trip q : Nat}

theorem qualify_above (h : (limit : Int) < xs) : qualify xs limit hyst trip q = min trip (q + 1) := if_pos h

theorem qualify_within (low : (limit : Int) - hyst ≤ xs) (high : xs ≤ limit) : qualify xs limit hyst trip q = q :=
  (if_neg high.not_gt).trans (if_neg low.not_gt)

theorem qualify_below (h : xs < (limit : Int) - hyst) : qualify xs limit hyst trip q = q - 1 :=
  (if_neg (by omega)).trans (if_pos h)

theorem qualify_le_trip (h : q ≤ trip) : qualify xs limit hyst trip q ≤ trip := by
  unfold qualify
  split_ifs <;> omega

end Qualify

theorem qualification : Qualification := fun _ _ _ _ _ h =>
  ⟨qualify_above, qualify_within, qualify_below, qualify_le_trip h⟩

theorem ceff_of_both {c : CapSettings} {u p : CapRecord} (util : c.util = some u) (prem : c.prem = some p) :
    c.ceff = some (min u.limit p.limit,
      if u.limit = p.limit then max u.hyst p.hyst else if u.limit < p.limit then u.hyst else p.hyst) := by
  rcases lt_trichotomy u.limit p.limit with h | h | h
  · simp [CapSettings.ceff, util, prem, h, h.ne, h.le]
  · simp [CapSettings.ceff, util, prem, h]
  · simp [CapSettings.ceff, util, prem, h, h.ne', h.le, h.not_gt]

theorem effectiveCap : EffectiveCap := by
  refine fun c => ⟨?_, ?_, fun u p => ceff_of_both⟩
  · rintro ⟨util, prem⟩
    simp [CapSettings.ceff, util, prem]
  · rintro r (⟨util, prem⟩ | ⟨util, prem⟩) <;> simp [CapSettings.ceff, util, prem]

/-- Settles O32: the export power by the sign of the site sum, the counter and the cap by their cases. -/
theorem capArithmetic : Obligations.CapArithmetic := ⟨exportPower_claim, qualification, effectiveCap⟩

/-! ### Changes of the curtailment state (R114, R115, R117, R120) -/

@[simp] theorem changeCurt_xcc (x : Xcc) (s : State) : (changeCurt x s).xcc = x := rfl

/-- Entry to FAILSAFE is due: fail-safe is enabled, a cap is present, and the state is NORMAL or CURTAILING (R114). -/
def FailsafeDue (s : State) : Prop :=
  s.xcc.cfg.fsEnable = true ∧ s.xcc.cfg.ceff ≠ none ∧ (s.xcc.state = .normal ∨ s.xcc.state = .curtailing)

theorem failsafeIfDue_of_due {s : State} (h : FailsafeDue s) : failsafeIfDue s = changeCurt s.xcc.toFailsafe s := by
  obtain ⟨enabled, cap, state⟩ := h
  exact if_pos (by simp [enabled, Option.isSome_iff_ne_none.mpr cap, state])

theorem failsafeIfDue_of_not_due {s : State} (h : ¬FailsafeDue s) : failsafeIfDue s = s :=
  if_neg (by simpa [FailsafeDue, Option.isSome_iff_ne_none, and_assoc] using h)

theorem capHealth_lost (s : State) : capHealth .lost s = failsafeIfDue s := rfl

theorem capHealth_locked_failsafe {s : State} (h : s.xcc.state = .failsafe) :
    capHealth .locked s = changeCurt (s.xcc.leaveFailsafe s.tim.runMs) s := if_pos h

theorem capHealth_locked {s : State} (h : s.xcc.state ≠ .failsafe) : capHealth .locked s = s := if_neg h

theorem failsafeEntryAndEnd : FailsafeEntryAndEnd := by
  refine fun s => ⟨fun enabled cap state => failsafeIfDue_of_due ⟨enabled, cap, state⟩, fun h => ?_,
    capHealth_locked_failsafe, capHealth_locked⟩
  refine failsafeIfDue_of_not_due ?_
  rintro ⟨enabled, cap, state⟩
  rcases h with disabled | absent | uncapped | failsafe
  · simp [enabled] at disabled
  · exact cap absent
  · simp [uncapped] at state
  · simp [failsafe] at state

/-! ### An accepted frame (R109 to R112, R118) -/

/-- What a unit counts with in G: its last reported output, if it is enabled and ONLINE or OFFLINE (R118). -/
def UnitEntry.countedOutput (u : UnitEntry) : Nat :=
  match u.last with
  | some r => if u.cfg.enable = true ∧ (u.link = .online ∨ u.link = .offline) then r.output else 0
  | none => 0

theorem UnitEntry.countedOutput_eq (u : UnitEntry) :
    (if u.cfg.enable && (u.link == .online || u.link == .offline) then u.output else 0) = u.countedOutput := by
  cases last : u.last <;> simp [UnitEntry.output, UnitEntry.countedOutput, last]

theorem sum_map_filter_eq (p : Fin 4 → Bool) (f : Fin 4 → Nat) (l : List (Fin 4)) :
    ((l.filter p).map f).sum = (l.map fun i => if p i then f i else 0).sum := by
  induction l with
  | nil => rfl
  | cons i l ih => cases h : p i <;> simp [h, ih]

theorem generation_eq (l : Ulc) :
    l.generation = l.units[(0 : Fin 4)].countedOutput + l.units[(1 : Fin 4)].countedOutput +
      l.units[(2 : Fin 4)].countedOutput + l.units[(3 : Fin 4)].countedOutput := by
  rw [Ulc.generation, sum_map_filter_eq, List.map_congr_left fun i _ => UnitEntry.countedOutput_eq l.units[i]]
  simp [add_assoc]

section Frame
variable {S : Int} {s : State} {limit hyst : Nat}

theorem capFrame_keeps_state (h : s.xcc.state = .uncapped ∨ s.xcc.state = .failsafe) :
    capFrame S s = { s with xcc := { s.xcc with lastXs := some (exportPower S) } } := by
  rcases h with h | h <;> simp [capFrame, h]

/-- In NORMAL the counter moves, and reaching T it leads to CURTAILING. -/
theorem capFrame_normal (state : s.xcc.state = .normal) (cap : s.xcc.cfg.ceff = some (limit, hyst)) :
    let xs := exportPower S
    let q := qualify xs limit hyst s.xcc.cfg.trip s.xcc.q
    let x := { s.xcc with lastXs := some xs, q := q }
    capFrame S s = if q = s.xcc.cfg.trip then
      changeCurt
        ({ x with state := .curtailing, holdEnd := some (s.tim.runMs + 1000 * s.xcc.cfg.hold) }.formAllowance xs limit
          s.ulc.generation) { s with xcc := { s.xcc with lastXs := some xs } }
      else { s with xcc := x } := by
  simp [capFrame, state, cap]

/-- In CURTAILING the counter moves; with the hold over and the counter at 0 the state is NORMAL, else the allowance is
formed. -/
theorem capFrame_curtailing (state : s.xcc.state = .curtailing) (cap : s.xcc.cfg.ceff = some (limit, hyst)) :
    let xs := exportPower S
    let q := qualify xs limit hyst s.xcc.cfg.trip s.xcc.q
    let x := { s.xcc with lastXs := some xs, q := q }
    capFrame S s = if holdExpired s.tim.runMs s.xcc.holdEnd = true ∧ q = 0 then
      changeCurt x.toNormal { s with xcc := { s.xcc with lastXs := some xs } }
      else handOn { s with xcc := x.formAllowance xs limit s.ulc.generation } := by
  simp [capFrame, state, cap]

end Frame

theorem holdExpired_some (now t : Nat) : holdExpired now (some t) = true ↔ t ≤ now := decide_eq_true_iff

theorem capFrame_claim : CapFrame := by
  intro S s xs x output load
  have load_eq : loadEstimate s.ulc.generation xs = load := by
    rw [loadEstimate, generation_eq]
    rfl
  refine ⟨capFrame_keeps_state, fun limit hyst cap => ?_⟩
  intro q a
  refine ⟨fun state below => ?_, fun state reached => ?_, fun t state hold stays => ?_,
    fun t state hold ended zero => ?_⟩
  · exact (capFrame_normal state cap).trans (if_neg below)
  · refine ((capFrame_normal state cap).trans (if_pos reached)).trans ?_
    rw [Xcc.formAllowance, load_eq]
    rfl
  · refine ((capFrame_curtailing state cap).trans (if_neg ?_)).trans ?_
    · rw [hold, holdExpired_some]
      rintro ⟨ended, zero⟩
      exact stays.elim ended.not_gt fun h => h zero
    · rw [Xcc.formAllowance, load_eq]
  · refine ((capFrame_curtailing state cap).trans (if_pos ⟨?_, zero⟩)).trans rfl
    rwa [hold, holdExpired_some]

/-- Settles O33: the states at a frame and at a change of health, each by the state it finds. -/
theorem curtailmentTransitions : Obligations.CurtailmentTransitions := ⟨capFrame_claim, failsafeEntryAndEnd⟩

end Sys2Proof.Machine
end

section
/-! PROOFS. The five requests on the caps (R102 to R108, R113): the two records set and cleared, and the control
settings. -/
namespace Sys2Proof.Machine
open Sys2Proof.Claim

/-! ### Values brought into range (R102, R107, R188) -/

theorem clampTo_zero (hi n : Nat) : clampTo 0 hi n = min hi n := Nat.zero_max _

theorem clamped_zero (hi n : Nat) : clamped 0 hi n = decide (hi < n) := by
  rw [Bool.eq_iff_iff, clamped, clampTo_zero]
  simp

theorem clamped_iff {lo hi : Nat} (h : lo ≤ hi) (n : Nat) : clamped lo hi n = true ↔ n < lo ∨ hi < n := by
  simp only [clamped, clampTo, bne_iff_ne, ne_eq]
  omega

theorem optClamp_zero (hi : Nat) (n : Option Nat) : optClamp 0 hi n = n.map (min hi) := by
  cases n <;> simp [optClamp, clampTo_zero]

theorem optClamped_zero (hi : Nat) (n : Option Nat) : optClamped 0 hi n = decide (hi < n.getD 0) := by
  cases n <;> simp [optClamped, clamped_zero]

/-- An absent field is not clamped, as a value within the bounds is not. -/
theorem optClamped_eq {lo hi default : Nat} (low : lo ≤ default) (high : default ≤ hi) (n : Option Nat) :
    optClamped lo hi n = decide (n.getD default < lo ∨ hi < n.getD default) := by
  rw [Bool.eq_iff_iff, decide_eq_true_iff]
  cases n with
  | none => simp [optClamped, low, high]
  | some n => exact clamped_iff (low.trans high) n

theorem expiryOk_iff (t : Tim) (expiry : Option Nat) :
    expiryOk t expiry = true ↔
      ∀ e, expiry = some e → 631152000 ≤ e ∧ e ≤ 3155759999 ∧ (t.valid = true → t.utc < e) := by
  cases expiry with
  | none => simp [expiryOk]
  | some e => cases h : t.valid <;> simp [expiryOk, timeInRange, h, and_assoc]

/-! ### The records (R102 to R106) -/

theorem setCapRecords_apply (f : CapSettings → CapSettings) (s : State) :
    setCapRecords f s = recordsSet (f s.xcc.cfg) s :=
  setCapRecords_eq (f s.xcc.cfg) s

theorem newRecord_eq (limit hyst : Nat) (expiry : Option Nat) (t : Tim) :
    newRecord limit hyst expiry t =
      { limit := min 60000 limit, hyst := min 5000 hyst, expiry := expiry,
        setTime := if t.valid then some t.utc else none } := by
  rw [newRecord, clampTo_zero, clampTo_zero]
  rfl

section Record
variable {s : State} {expiry : Option Nat}

theorem setCap_stores (src : CapSource) (limit hyst : Nat) (ok : expiryOk s.tim expiry = true) :
    setCap src limit hyst expiry s =
      okWith (.capRecord (newRecord limit hyst expiry s.tim) (decide (60000 < limit)) (decide (5000 < hyst)))
        (setting (recordsSet (s.xcc.cfg.setRecord src (some (newRecord limit hyst expiry s.tim))) s)) := by
  simp only [setCap, if_pos ok, setCapRecords_apply, clamped_zero]

theorem setCap_refuses (src : CapSource) (limit hyst : Nat) (bad : ¬expiryOk s.tim expiry = true) :
    setCap src limit hyst expiry s = rangeAt 3 0 s := if_neg bad

theorem clearCap_absent {src : CapSource} (h : s.xcc.cfg.record src = none) :
    clearCap src s = okWith (.capCleared true) s := if_neg (by simp [h])

theorem clearCap_removes {src : CapSource} (h : s.xcc.cfg.record src ≠ none) :
    clearCap src s = okWith (.capCleared false) (setting (recordsSet (s.xcc.cfg.setRecord src none) s)) := by
  rw [clearCap, if_pos (Option.isSome_iff_ne_none.mpr h), setCapRecords_apply]

end Record

theorem capRecordRequests : CapRecordRequests := by
  intro p limit hyst expiry s r a good set
  have tim (n : Nat) : (taken p n s).tim = s.tim := by simp
  have xcc (n : Nat) : (taken p n s).xcc = s.xcc := by simp
  have record (n : Nat) : newRecord limit hyst expiry (taken p n s).tim = r := by rw [tim, newRecord_eq]
  have judged (n : Nat) : expiryOk (taken p n s).tim expiry = true ↔ good := by rw [tim]; exact expiryOk_iff _ _
  have stores (src : CapSource) (n : Nat) (ok : good) :
      setCap src limit hyst expiry (taken p n s) = (set (s.xcc.cfg.setRecord src (some r)) n, some (.ok, a)) := by
    rw [setCap_stores src limit hyst ((judged n).mpr ok), record, xcc]
    rfl
  have refuses (src : CapSource) (n : Nat) (bad : ¬good) :
      setCap src limit hyst expiry (taken p n s) = (taken p n s, some (.range, .detail 3 0)) :=
    setCap_refuses src limit hyst fun ok => bad ((judged n).mp ok)
  have clears (src : CapSource) (n : Nat) (h : s.xcc.cfg.record src ≠ none) :
      clearCap src (taken p n s) = (set (s.xcc.cfg.setRecord src none) n, some (.ok, .capCleared false)) := by
    rw [clearCap_removes (xcc n ▸ h), xcc]
    rfl
  have absent (src : CapSource) (n : Nat) (h : s.xcc.cfg.record src = none) :
      clearCap src (taken p n s) = (taken p n s, some (.ok, .capCleared true)) := clearCap_absent (xcc n ▸ h)
  refine ⟨fun serves => ⟨fun ok => ?_, fun bad => ?_⟩, fun serves => ⟨fun ok => ?_, fun bad => ?_⟩,
    fun serves => ⟨fun none => ?_, fun some => ?_⟩, fun serves => ⟨fun none => ?_, fun some => ?_⟩⟩
  all_goals refine congrArg Host.Outcome.next (command_served serves rfl ?_)
  · exact stores .utility 21 ok
  · exact refuses .utility 21 bad
  · exact stores .premises 23 ok
  · exact refuses .premises 23 bad
  · exact absent .utility 22 none
  · exact clears .utility 22 some
  · exact absent .premises 24 none
  · exact clears .premises 24 some

/-! ### The control settings (R107, R108, R113) -/

/-- The control settings with each field that is present taken over. -/
def CapSettings.updated (fsc : Option Nat) (enable : Option Bool) (trip hold : Option Nat) (c : CapSettings) :
    CapSettings :=
  { c with
    fsc := fsc.getD c.fsc, fsEnable := enable.getD c.fsEnable, trip := trip.getD c.trip, hold := hold.getD c.hold }

/-- Control settings are stored, Q brought down to T (R108). -/
def controlStored (cfg : CapSettings) (s : State) : State :=
  { s with xcc := { s.xcc with cfg := cfg, q := min s.xcc.q cfg.trip } }

/-- Fail-safe switched on in LOST is judged at once (R108). -/
def judgeSwitchOn (old cfg : CapSettings) (s : State) : State :=
  if cfg.fsEnable && !old.fsEnable && s.frx.health == .lost then failsafeIfDue s else s

theorem judgeSwitchOn_eq (old cfg : CapSettings) (s : State) :
    judgeSwitchOn old cfg s =
      if cfg.fsEnable = true ∧ old.fsEnable = false ∧ s.frx.health = .lost then failsafeIfDue s else s := by
  simp [judgeSwitchOn, and_assoc]

theorem judgeSwitchOn_failsafe {old cfg : CapSettings} {s : State} (h : s.xcc.state = .failsafe) :
    judgeSwitchOn old cfg s = s := by
  rw [judgeSwitchOn, failsafeIfDue_of_not_due, ite_self]
  rintro ⟨-, -, state⟩
  simp [h] at state

theorem setCapControl_unfold (fsc : Option Nat) (enable : Option Bool) (trip hold : Option Nat) (s : State) :
    let cfg := s.xcc.cfg.updated fsc enable trip hold
    let stored := controlStored cfg s
    setCapControl fsc enable trip hold s = judgeSwitchOn s.xcc.cfg cfg
      (if s.xcc.state = .failsafe ∧ cfg.fsc ≠ s.xcc.cfg.fsc then
        handOn { stored with xcc := { stored.xcc with allowance := some cfg.fsc } }
      else stored) :=
  rfl

/-- Control settings reach the running state: a changed fail-safe cap is handed on in FAILSAFE, and fail-safe switched
on in LOST is judged at once (R108, R113). In FAILSAFE the second does nothing. -/
theorem setCapControl_eq (fsc : Option Nat) (enable : Option Bool) (trip hold : Option Nat) (s : State) :
    let cfg := s.xcc.cfg.updated fsc enable trip hold
    let stored := controlStored cfg s
    setCapControl fsc enable trip hold s =
      if s.xcc.state = .failsafe ∧ cfg.fsc ≠ s.xcc.cfg.fsc then
        handOn { stored with xcc := { stored.xcc with allowance := some cfg.fsc } }
      else if cfg.fsEnable = true ∧ s.xcc.cfg.fsEnable = false ∧ s.frx.health = .lost then failsafeIfDue stored
      else stored := by
  intro cfg stored
  refine (setCapControl_unfold fsc enable trip hold s).trans ?_
  by_cases failsafe : s.xcc.state = .failsafe ∧ cfg.fsc ≠ s.xcc.cfg.fsc
  · rw [if_pos failsafe, if_pos failsafe]
    exact judgeSwitchOn_failsafe failsafe.1
  · rw [if_neg failsafe, if_neg failsafe]
    exact judgeSwitchOn_eq s.xcc.cfg cfg stored

@[simp] theorem failsafeIfDue_cfg (s : State) : (failsafeIfDue s).xcc.cfg = s.xcc.cfg := by
  by_cases h : FailsafeDue s
  · rw [failsafeIfDue_of_due h]
    rfl
  · rw [failsafeIfDue_of_not_due h]

@[simp] theorem setCapControl_cfg (fsc : Option Nat) (enable : Option Bool) (trip hold : Option Nat) (s : State) :
    (setCapControl fsc enable trip hold s).xcc.cfg = s.xcc.cfg.updated fsc enable trip hold := by
  rw [setCapControl_eq]
  split_ifs
  · simp [controlStored]
  · simp [controlStored]
  · rfl

theorem optFlagOk_iff (n : Option Nat) : optFlagOk n = true ↔ ∀ x, n = some x → x % 2 = 0 ∨ x = 1 := by
  cases n with
  | none => simp [optFlagOk]
  | some n =>
    by_cases clear : n % 2 = 0
    · simp [optFlagOk, flagOf, clear]
    · by_cases set : n = 1 <;> simp [optFlagOk, flagOf, clear, set]

/-- The value of a flag in its range is whether it is set. -/
theorem optFlag_getD (n : Option Nat) (old : Bool) :
    optFlagOk n = true → (optFlag n).getD old = match n with
      | some x => x == 1
      | none => old := by
  intro ok
  cases n with
  | none => rfl
  | some x =>
    rcases (optFlagOk_iff _).mp ok x rfl with clear | rfl
    · have ne : x ≠ 1 := by omega
      simp [optFlag, flagOf, clear, ne]
    · rfl

section Control
variable {fsc enable trip hold : Option Nat} {s : State}

theorem ownSetCapControl_refuses (bad : ¬optFlagOk enable = true) :
    ownSetCapControl fsc enable trip hold s = rangeAt 2 0 s := if_neg bad

theorem ownSetCapControl_read :
    ownSetCapControl none none none none s = okWith
      (.capControl s.xcc.cfg.fsc s.xcc.cfg.fsEnable s.xcc.cfg.trip s.xcc.cfg.hold false false false) s := rfl

theorem ownSetCapControl_stores (ok : optFlagOk enable = true)
    (present : ¬(fsc = none ∧ enable = none ∧ trip = none ∧ hold = none)) :
    let cfg := s.xcc.cfg.updated (optClamp 0 60000 fsc) (optFlag enable) (optClamp 1 255 trip) (optClamp 0 3600 hold)
    ownSetCapControl fsc enable trip hold s = okWith
      (.capControl cfg.fsc cfg.fsEnable cfg.trip cfg.hold (decide (60000 < fsc.getD 0))
        (decide (trip.getD 1 < 1 ∨ 255 < trip.getD 1)) (decide (3600 < hold.getD 0)))
      (setting
        (setCapControl (optClamp 0 60000 fsc) (optFlag enable) (optClamp 1 255 trip) (optClamp 0 3600 hold) s)) := by
  have some_field : ¬(fsc.isNone && enable.isNone && trip.isNone && hold.isNone) = true := by
    simpa [and_assoc] using present
  rw [ownSetCapControl, if_pos ok, if_neg some_field, optClamped_zero, optClamped_zero,
    optClamped_eq (le_refl 1) (by decide)]
  simp

end Control

theorem setCapControl_claim : SetCapControl := by
  intro p fsc enable trip hold s serves u old cfg stored moved
  have xcc : u.xcc = s.xcc := by simp [u]
  have frx : u.frx = s.frx := by simp [u]
  have exec_eq {t : State} {st : Status} {a : Answer}
      (owner : ownSetCapControl fsc enable trip hold u = (t, some (st, a))) :
      exec (.setCapControl p fsc enable trip hold) s = .next (answered p 25 st a t) :=
    congrArg Host.Outcome.next (command_served serves rfl owner)
  refine ⟨fun n present odd ne => ?_, ?_, fun present flags => ?_⟩
  · refine exec_eq (ownSetCapControl_refuses fun ok => ?_)
    rcases (optFlagOk_iff _).mp ok n present with clear | set
    · omega
    · exact ne set
  · rintro ⟨rfl, rfl, rfl, rfl⟩
    refine exec_eq (ownSetCapControl_read.trans ?_)
    rw [xcc]
    rfl
  · have ok : optFlagOk enable = true := (optFlagOk_iff _).mpr flags
    have settings : u.xcc.cfg.updated (optClamp 0 60000 fsc) (optFlag enable) (optClamp 1 255 trip)
        (optClamp 0 3600 hold) = cfg := by
      rw [xcc, CapSettings.updated, optFlag_getD _ _ ok, optClamp_zero, optClamp_zero]
      rfl
    have reached : setCapControl (optClamp 0 60000 fsc) (optFlag enable) (optClamp 1 255 trip) (optClamp 0 3600 hold)
        u = moved := by
      rw [setCapControl_eq, settings, xcc, frx]
      simp only [controlStored, xcc]
      rfl
    refine exec_eq ((ownSetCapControl_stores ok present).trans ?_)
    rw [settings, reached]
    rfl

/-- Settles O34: each request by its owner's answer. -/
theorem capRequests : Obligations.CapRequests := ⟨capRecordRequests, setCapControl_claim⟩

end Sys2Proof.Machine
end

section
/-! PROOFS. The Unit Link's exchanges (chapter 7): the poll cycle, the reply window, the end of an exchange, and what
the Export Cap Controller hands on. -/
namespace Sys2Proof.Machine
open Sys2Proof.Claim

/-! ### Messages and the poll cycle (R127, R128) -/

theorem nextSeq_eq (u : UnitEntry) :
    u.nextSeq = match u.lastSent with
      | some a => if a = u.allowance then u.seq else u.seq + 1
      | none => u.seq := by
  cases h : u.lastSent <;> simp [UnitEntry.nextSeq, h]

theorem sendAllowance_eq (i : Fin 4) (l : Ulc) : l.sendAllowance i = sending i l := by
  rw [Ulc.sendAllowance, nextSeq_eq]
  simp only [Ulc.updUnit, nextSeq_eq]
  rfl

theorem nextExchange_last {l : Ulc} (h : l.rest = []) : l.nextExchange = { l with exchange := .none } := by
  simp [Ulc.nextExchange, h]

theorem nextExchange_next {l : Ulc} {i : Fin 4} {rest : List (Fin 4)} (h : l.rest = i :: rest) :
    l.nextExchange = sending i { l with rest := rest } := by
  simp [Ulc.nextExchange, h, sendAllowance_eq]

/-- The units enabled, ascending. -/
def Ulc.enabledUnits (l : Ulc) : List (Fin 4) := unitNumbers.filter fun i => l.units[i].cfg.enable

theorem beginCycle_none {s : State} (h : s.ulc.enabledUnits = []) :
    beginCycle s = { s with ulc := { s.ulc with nextCycle := s.tim.runMs + 250, rest := [], exchange := .none } } := by
  rw [beginCycle, Ulc.beginCycle, nextExchange_last h]
  congr 2

theorem beginCycle_some {s : State} {i : Fin 4} {rest : List (Fin 4)} (h : s.ulc.enabledUnits = i :: rest) :
    beginCycle s = { s with ulc := sending i { s.ulc with nextCycle := s.tim.runMs + 250, rest := rest } } := by
  rw [beginCycle, Ulc.beginCycle, nextExchange_next h]

theorem cycleBegins : CycleBegins := fun _ => ⟨beginCycle_none, fun _ _ => beginCycle_some, rfl⟩

theorem pollDue_idle {s : State} (h : s.sup.supply ≠ .run ∨ s.ulc.exchange ≠ .none) : pollDue s = s :=
  if_neg fun due => h.elim (fun supply => supply due.1) fun exchange => exchange due.2

theorem pollDue_begins {s : State} (run : s.sup.supply = .run) (idle : s.ulc.exchange = .none) :
    pollDue s = beginCycle (passTo s.ulc.nextCycle s) := if_pos ⟨run, idle⟩

theorem allowanceOut_sending {s : State} {m : AllowanceMsg} (h : s.ulc.exchange = .sending m) :
    allowanceOut s = { s with ulc := { s.ulc with exchange := .window m (s.tim.runMs + 40) [] } } := by
  rw [allowanceOut, h]

theorem allowanceOut_idle {s : State} (h : ∀ m, s.ulc.exchange ≠ .sending m) : allowanceOut s = s := by
  unfold allowanceOut
  split
  next m sending => exact absurd sending (h m)
  next => rfl

/-! ### The reply window (R129) -/

section Window
variable {s : State} {m : AllowanceMsg} {closes : Nat} {got chars : List RxChar}

theorem windowCloses_window (h : s.ulc.exchange = .window m closes got) :
    windowCloses s = endExchange m.unit UnitEntry.missed (passTo closes s) := by
  rw [windowCloses, h]

theorem windowCloses_idle (h : ∀ m closes got, s.ulc.exchange ≠ .window m closes got) : windowCloses s = s := by
  unfold windowCloses
  split
  next m closes got window => exact absurd window (h m closes got)
  next => rfl

theorem replyChars_idle (h : ∀ m closes got, s.ulc.exchange ≠ .window m closes got) : replyChars chars s = s := by
  unfold replyChars
  split
  next m closes got window => exact absurd window (h m closes got)
  next => rfl

theorem replyChars_collects (h : s.ulc.exchange = .window m closes got) (short : (got ++ chars).length < 7) :
    replyChars chars s = { s with ulc := { s.ulc with exchange := .window m closes (got ++ chars) } } := by
  rw [replyChars, h]
  dsimp only
  rw [List.take_of_length_le short.le, if_neg short.ne]

theorem replyChars_ends (h : s.ulc.exchange = .window m closes got) (full : 7 ≤ (got ++ chars).length) :
    replyChars chars s = judgeReply m ((got ++ chars).take 7) s := by
  rw [replyChars, h]
  exact if_pos (List.length_take_of_le full)

theorem judgeReply_valid {r : Report} (h : parseReport m.unit chars = some r) :
    judgeReply m chars s = endExchange m.unit (UnitEntry.reported r m.seq) s := by
  rw [judgeReply, h]

theorem judgeReply_miss (h : parseReport m.unit chars = none) :
    judgeReply m chars s = endExchange m.unit UnitEntry.missed s := by
  rw [judgeReply, h]

end Window

/-- With main supply a command whose effect is known ends in the state its effect leaves. -/
theorem command_ends {f : State → State} {s u : State} (powered : s.sup.powered = true) (h : f s = u) :
    command f s = finish u :=
  (command_powered f powered).trans (congrArg finish h)

theorem pollCycle : PollCycle := by
  intro s powered enabled now t
  refine ⟨fun h => ?_, fun run idle none => ?_, fun i rest run idle some => ?_, fun m h => ?_, fun h => ?_,
    fun m closes got h => ?_, fun h => ?_⟩
  all_goals refine congrArg Host.Outcome.next (command_ends powered ?_)
  · exact pollDue_idle h
  · refine ((pollDue_begins run idle).trans (beginCycle_none none)).trans ?_
    rw [← idle]
    rfl
  · exact (pollDue_begins run idle).trans (beginCycle_some some)
  · exact allowanceOut_sending h
  · exact allowanceOut_idle h
  · exact windowCloses_window h
  · exact windowCloses_idle h

theorem unitReport : UnitReport := by
  intro chars s powered
  refine ⟨fun h => ?_, fun m closes got h short => ?_, fun m closes got r h full valid => ?_,
    fun m closes got h full invalid => ?_⟩
  all_goals refine congrArg Host.Outcome.next (command_ends powered ?_)
  · exact replyChars_idle h
  · exact replyChars_collects h short
  · exact (replyChars_ends h full).trans (judgeReply_valid valid)
  · exact (replyChars_ends h full).trans (judgeReply_miss invalid)

/-! ### What the Export Cap Controller hands on (R119, R120, R135, R137) -/

theorem activeSetChanged_failsafe {s : State} (h : s.xcc.state = .failsafe) :
    activeSetChanged s = handOn { s with xcc := { s.xcc with allowance := some s.xcc.cfg.fsc } } := if_pos h

theorem activeSetChanged_share {s : State} (h : s.xcc.state ≠ .failsafe) : activeSetChanged s = share s := if_neg h

theorem handedOn : HandedOn := fun _ => ⟨rfl, rfl, activeSetChanged_failsafe, activeSetChanged_share⟩

/-! ### The end of an exchange (R127, R131, R134, R135, R137) -/

@[simp] theorem updUnit_self (i : Fin 4) (f : UnitEntry → UnitEntry) (l : Ulc) :
    (l.updUnit i f).units[i] = f l.units[i] := by
  simp [Ulc.updUnit]

theorem updUnit_of_ne {i j : Fin 4} (h : j ≠ i) (f : UnitEntry → UnitEntry) (l : Ulc) :
    (l.updUnit i f).units[j] = l.units[j] := by
  have ne : i.val ≠ j.val := fun e => h (Fin.ext e.symm)
  simp [Ulc.updUnit, ne]

/-- A set of units, picked by what each entry is, changes with an update of one unit exactly where that unit enters or
leaves it. -/
theorem filter_updUnit_eq_iff (P : UnitEntry → Bool) (i : Fin 4) (f : UnitEntry → UnitEntry) (l : Ulc) :
    (unitNumbers.filter fun j => P (l.updUnit i f).units[j]) = (unitNumbers.filter fun j => P l.units[j]) ↔
      P (f l.units[i]) = P l.units[i] := by
  have mem : ∀ j : Fin 4, j ∈ unitNumbers := by decide
  constructor
  · intro same
    have member : i ∈ (unitNumbers.filter fun j => P (l.updUnit i f).units[j]) ↔
        i ∈ unitNumbers.filter fun j => P l.units[j] := by rw [same]
    rw [List.mem_filter, List.mem_filter, updUnit_self] at member
    simpa [mem i, ← Bool.eq_iff_iff] using member
  · intro same
    refine List.filter_congr fun j _ => ?_
    by_cases h : j = i
    · rw [h, updUnit_self, same]
    · rw [updUnit_of_ne h]

section Changed
variable {i : Fin 4} {f : UnitEntry → UnitEntry} {l : Ulc}

theorem activeSet_updUnit_eq_iff :
    (l.updUnit i f).activeSet = l.activeSet ↔ (f l.units[i]).isActive = l.units[i].isActive :=
  filter_updUnit_eq_iff UnitEntry.isActive i f l

theorem offlineSet_updUnit_eq_iff :
    (l.updUnit i f).offlineSet = l.offlineSet ↔
      ((f l.units[i]).cfg.enable && (f l.units[i]).link == .offline) =
        (l.units[i].cfg.enable && l.units[i].link == .offline) :=
  filter_updUnit_eq_iff (fun u => u.cfg.enable && u.link == .offline) i f l

theorem onlineSet_updUnit_eq_iff :
    (l.updUnit i f).onlineSet = l.onlineSet ↔
      ((f l.units[i]).cfg.enable && (f l.units[i]).link == .online) =
        (l.units[i].cfg.enable && l.units[i].link == .online) :=
  filter_updUnit_eq_iff (fun u => u.cfg.enable && u.link == .online) i f l

/-- An enabled unit enters or leaves OFFLINE or ONLINE exactly where its link state changes and one of the two states
is one of these. -/
theorem linkSets_updUnit_ne_iff (cfg : (f l.units[i]).cfg = l.units[i].cfg) :
    (l.updUnit i f).offlineSet ≠ l.offlineSet ∨ (l.updUnit i f).onlineSet ≠ l.onlineSet ↔
      l.units[i].cfg.enable = true ∧ (f l.units[i]).link ≠ l.units[i].link ∧
        (((f l.units[i]).link = .online ∨ (f l.units[i]).link = .offline) ∨
          (l.units[i].link = .online ∨ l.units[i].link = .offline)) := by
  rw [ne_eq, ne_eq, offlineSet_updUnit_eq_iff, onlineSet_updUnit_eq_iff, cfg]
  generalize l.units[i].cfg.enable = enable
  generalize (f l.units[i]).link = after
  generalize l.units[i].link = before
  cases enable with
  | false => simp
  | true => cases after <;> cases before <;> simp

end Changed

section ShareIfChanged
variable {before : Ulc} {s : State}

theorem shareIfChanged_active (h : s.ulc.activeSet ≠ before.activeSet) :
    shareIfChanged before s = activeSetChanged s := if_pos h

theorem shareIfChanged_link (active : s.ulc.activeSet = before.activeSet)
    (h : s.ulc.offlineSet ≠ before.offlineSet ∨ s.ulc.onlineSet ≠ before.onlineSet) :
    shareIfChanged before s = share s := (if_neg (not_not.mpr active)).trans (if_pos h)

theorem shareIfChanged_same (active : s.ulc.activeSet = before.activeSet)
    (h : ¬(s.ulc.offlineSet ≠ before.offlineSet ∨ s.ulc.onlineSet ≠ before.onlineSet)) :
    shareIfChanged before s = s := (if_neg (not_not.mpr active)).trans (if_neg h)

end ShareIfChanged

/-- Unit `i`'s entry takes its update, and UNIT is raised where the link state or not-following changes (R134). -/
def exchangeTold (i : Fin 4) (f : UnitEntry → UnitEntry) (s : State) : State :=
  if (f s.ulc.units[i]).link ≠ s.ulc.units[i].link ∨ (f s.ulc.units[i]).notFollowing ≠ s.ulc.units[i].notFollowing then
    raise .unit { s with ulc := s.ulc.updUnit i f }
  else { s with ulc := s.ulc.updUnit i f }

@[simp] theorem exchangeTold_frame (i : Fin 4) (f : UnitEntry → UnitEntry) (s : State) :
    (exchangeTold i f s).ulc = s.ulc.updUnit i f ∧ (exchangeTold i f s).xcc = s.xcc ∧
      (exchangeTold i f s).sup = s.sup := by
  simp [exchangeTold, ite_fields]

/-- The end of an exchange: the update, the sharing, and the next exchange. -/
theorem endExchange_eq (i : Fin 4) (f : UnitEntry → UnitEntry) (s : State) :
    let t := shareIfChanged s.ulc (exchangeTold i f s)
    endExchange i f s = { t with ulc := t.ulc.nextExchange } :=
  rfl

theorem exchangeEnd : ExchangeEnd := by
  intro i f s u w cfg moved told counts next
  have next_eq (t : State) : { t with ulc := t.ulc.nextExchange } = next t := by
    cases rest : t.ulc.rest with
    | nil => simp only [nextExchange_last rest, next, rest]
    | cons k l => simp only [nextExchange_next rest, next, rest]
  have ulc : told.ulc = s.ulc.updUnit i f := (exchangeTold_frame i f s).1
  have ends {t : State} (h : shareIfChanged s.ulc told = t) : endExchange i f s = next t := by
    rw [← h, ← next_eq]
    exact endExchange_eq i f s
  have active : told.ulc.activeSet = s.ulc.activeSet ↔ w.isActive = u.isActive := by
    rw [ulc]
    exact activeSet_updUnit_eq_iff
  have link : told.ulc.offlineSet ≠ s.ulc.offlineSet ∨ told.ulc.onlineSet ≠ s.ulc.onlineSet ↔
      u.cfg.enable = true ∧ w.link ≠ u.link ∧ (counts w.link ∨ counts u.link) := by
    rw [ulc]
    exact linkSets_updUnit_ne_iff cfg
  refine ⟨fun changed => ?_, fun same enabled changed counted => ?_, fun same uncounted => ?_⟩
  · exact ends (shareIfChanged_active fun h => changed (active.mp h))
  · exact ends (shareIfChanged_link (active.mpr same) (link.mpr ⟨enabled, changed, counted⟩))
  · refine ends (shareIfChanged_same (active.mpr same) fun h => ?_)
    obtain ⟨enabled, changed, counted⟩ := link.mp h
    obtain ⟨after, before⟩ := uncounted enabled changed
    exact counted.elim after before

/-- Settles O36: the poll cycle and the reply window by their occasions, the end of an exchange by the sets of units
that change, and the handing on by its definition. -/
theorem unitLinkExchanges : Obligations.UnitLinkExchanges :=
  ⟨pollCycle, cycleBegins, unitReport, exchangeEnd, handedOn⟩

end Sys2Proof.Machine
end

section
/-! PROOFS. What the ports keep: a property that every owner in RUN keeps, and that does not look at the ports, is kept
by whatever reaches a port (R180 to R187). -/
namespace Sys2Proof.Machine

/-- A property that no update of a port touches, and that every owner keeps in RUN. -/
structure KeptByOwners (P : State → Prop) : Prop where
  port : ∀ {s : State} (p : Port) (f : PortState → PortState), P s → P (s.updPort p f)
  serve : ∀ {s : State} (p : Port) (q : Request), s.sup.supply = .run → P s → P (serve p q s).1

section
variable {P : State → Prop} {s : State}

theorem KeptByOwners.respond (K : KeptByOwners P) (p : Port) (code : Nat) (st : Status) (a : Answer) (h : P s) :
    P (respond p code st a s) := K.port p _ h

theorem KeptByOwners.settleReply (K : KeptByOwners P) (p : Port) (code : Nat) {r : State × Reply} (h : P r.1) :
    P (settleReply p code r) := by
  unfold Machine.settleReply
  split
  · exact K.respond _ _ _ _ h
  · exact h

/-- Outside RUN only the code of GET_STATUS reaches an owner, which answers and changes nothing (R184, R195). -/
theorem KeptByOwners.judge (K : KeptByOwners P) (p : Port) {code : Nat} (held : Bool) {req : Option Request}
    (status : code = 35 → ∀ q ∈ req, q = .getStatus) (h : P s) : P (judge p code held req s) := by
  unfold Machine.judge
  split_ifs with _ _ outside
  · exact K.respond _ _ _ _ h
  · exact K.respond _ _ _ _ h
  · exact K.respond _ _ _ _ h
  · exact K.respond _ _ _ _ h
  · cases req with
    | none => exact K.respond _ _ _ _ h
    | some q =>
      refine K.settleReply _ _ ?_
      by_cases run : s.sup.supply = .run
      · exact K.serve p q run h
      · obtain rfl := status (by tauto) q rfl
        exact h

theorem KeptByOwners.goodFrame (K : KeptByOwners P) (p : Port) {code : Nat} (held : Bool) {req : Option Request}
    (status : code = 35 → ∀ q ∈ req, q = .getStatus) (h : P s) : P (goodFrame p code held req s) := by
  unfold Machine.goodFrame
  split_ifs
  · exact K.port _ _ h
  · exact K.judge p held status (K.port _ _ h)

theorem KeptByOwners.takeRequest (K : KeptByOwners P) (p : Port) (q : Request) (h : P s) : P (takeRequest p q s) := by
  refine K.goodFrame p _ (fun code r hr => ?_) h
  have taken : q = r := by
    split_ifs at hr
    · exact Option.some.inj hr
    · cases hr
  subst taken
  cases q with
  | getStatus => rfl
  | _ => cases code

theorem KeptByOwners.takePayload (K : KeptByOwners P) (p : Port) (code : Nat) (payload : List Byte) (h : P s) :
    P (takePayload p code payload s) := by
  refine K.goodFrame p _ (fun status r hr => ?_) h
  subst status
  exact decodeRequest_getStatus (Option.filter_eq_some_iff.mp hr).1

theorem KeptByOwners.endFrame (K : KeptByOwners P) (p : Port) (got : List RxChar) (h : P s) : P (endFrame p got s) := by
  unfold Machine.endFrame
  dsimp only
  split_ifs
  · exact K.takePayload _ _ _ h
  · exact K.port _ _ h

theorem KeptByOwners.collectChar (K : KeptByOwners P) (p : Port) (got : List RxChar) (h : P s) :
    P (collectChar p got s) := by
  unfold Machine.collectChar
  dsimp only
  split_ifs
  · exact K.port _ _ (K.port _ _ h)
  · exact K.endFrame _ _ (K.port _ _ h)
  · exact K.port _ _ h

theorem KeptByOwners.receive (K : KeptByOwners P) (p : Port) (c : RxChar) (h : P s) : P (receive p c s) := by
  unfold Machine.receive
  split
  · split_ifs
    · exact K.collectChar _ _ h
    · exact h
  · exact K.collectChar _ _ h
  · exact K.port _ _ h

theorem KeptByOwners.receiveAll (K : KeptByOwners P) (p : Port) (l : List RxChar) (h : P s) : P (receiveAll p l s) := by
  induction l generalizing s with
  | nil => exact h
  | cons c l ih => exact ih (K.receive p c h)

end

end Sys2Proof.Machine
end

section
/-! PROOFS. The curtailment table (section 6.6): every step keeps it. The rows first, then the changes of state between
them, then what each operation of the Export Cap Controller and of the Unit Link does to the table, then the step. -/
namespace Sys2Proof.Machine
open Sys2Proof.Claim

/-! ### The rows of the table -/

/-- UNCAPPED with Q 0 and nothing formed, whatever the records say (R122). -/
structure Xcc.Quiet (x : Xcc) : Prop where
  state : x.state = .uncapped
  q : x.q = 0
  hold : x.holdEnd = none
  load : x.load = none
  allowance : x.allowance = none

section Rows
variable {x : Xcc}

theorem tableOk_uncapped (h : x.state = .uncapped) : x.tableOk = true ↔ x.cfg.ceff = none ∧ x.Quiet := by
  simp only [Xcc.tableOk, h, Bool.and_eq_true, decide_eq_true_eq, Option.isNone_iff_eq_none, beq_iff_eq]
  constructor
  · rintro ⟨-, ⟨⟨⟨cap, q⟩, hold⟩, load⟩, allowance⟩
    exact ⟨cap, h, q, hold, load, allowance⟩
  · rintro ⟨cap, -, q, hold, load, allowance⟩
    exact ⟨by omega, ⟨⟨⟨cap, q⟩, hold⟩, load⟩, allowance⟩

theorem tableOk_normal (h : x.state = .normal) :
    x.tableOk = true ↔
      x.q ≤ x.cfg.trip ∧ x.cfg.ceff ≠ none ∧ x.holdEnd = none ∧ x.load = none ∧ x.allowance = none := by
  simp [Xcc.tableOk, h, Option.isSome_iff_ne_none, and_assoc]

theorem tableOk_curtailing (h : x.state = .curtailing) :
    x.tableOk = true ↔ x.q ≤ x.cfg.trip ∧ x.cfg.ceff ≠ none ∧ x.holdEnd ≠ none ∧ x.allowance ≠ none := by
  simp [Xcc.tableOk, h, Option.isSome_iff_ne_none, and_assoc]

theorem tableOk_failsafe (h : x.state = .failsafe) :
    x.tableOk = true ↔
      x.q ≤ x.cfg.trip ∧ x.cfg.ceff ≠ none ∧ x.holdEnd = none ∧ x.load = none ∧ x.allowance = some x.cfg.fsc := by
  simp [Xcc.tableOk, h, Option.isSome_iff_ne_none, and_assoc]

theorem q_le_trip_of_tableOk (h : x.tableOk = true) : x.q ≤ x.cfg.trip := by
  simp only [Xcc.tableOk, Bool.and_eq_true, decide_eq_true_eq] at h
  exact h.1

/-- An effective cap is present outside UNCAPPED, and only there (R106). -/
theorem ceff_eq_none_iff_of_tableOk (h : x.tableOk = true) : x.cfg.ceff = none ↔ x.state = .uncapped := by
  cases state : x.state with
  | uncapped => simp [((tableOk_uncapped state).mp h).1]
  | normal => simp [((tableOk_normal state).mp h).2.1]
  | curtailing => simp [((tableOk_curtailing state).mp h).2.1]
  | failsafe => simp [((tableOk_failsafe state).mp h).2.1]

theorem tableOk_toUncapped (cap : x.cfg.ceff = none) : x.toUncapped.tableOk = true :=
  (tableOk_uncapped rfl).mpr ⟨cap, rfl, rfl, rfl, rfl, rfl⟩

theorem tableOk_toNormal (cap : x.cfg.ceff ≠ none) : x.toNormal.tableOk = true :=
  (tableOk_normal rfl).mpr ⟨Nat.zero_le _, cap, rfl, rfl, rfl⟩

theorem tableOk_toFailsafe (q : x.q ≤ x.cfg.trip) (cap : x.cfg.ceff ≠ none) : x.toFailsafe.tableOk = true :=
  (tableOk_failsafe rfl).mpr ⟨q, cap, rfl, rfl, rfl⟩

/-- FAILSAFE left for CURTAILING: the allowance in force stands. -/
theorem tableOk_leaveFailsafe (now : Nat) (h : x.tableOk = true) (state : x.state = .failsafe) :
    (x.leaveFailsafe now).tableOk = true := by
  obtain ⟨-, cap, -, -, allowance⟩ := (tableOk_failsafe state).mp h
  refine (tableOk_curtailing rfl).mpr ⟨le_rfl, cap, Option.some_ne_none _, ?_⟩
  simp [Xcc.leaveFailsafe, allowance]

/-- Other settings and a Q within their T, 0 if it was: the cap is present as before, and in FAILSAFE the fail-safe cap
is the same. -/
theorem tableOk_withSettings {cfg : CapSettings} {q : Nat} (h : x.tableOk = true)
    (cap : cfg.ceff = none ↔ x.cfg.ceff = none) (fits : q ≤ cfg.trip) (zero : x.q = 0 → q = 0)
    (fsc : x.state = .failsafe → cfg.fsc = x.cfg.fsc) :
    ({ x with cfg := cfg, q := q } : Xcc).tableOk = true := by
  cases state : x.state with
  | uncapped =>
    obtain ⟨absent, quiet⟩ := (tableOk_uncapped state).mp h
    exact (tableOk_uncapped rfl).mpr ⟨cap.mpr absent, rfl, zero quiet.q, quiet.hold, quiet.load, quiet.allowance⟩
  | normal =>
    obtain ⟨-, present, row⟩ := (tableOk_normal state).mp h
    exact (tableOk_normal rfl).mpr ⟨fits, cap.not.mpr present, row⟩
  | curtailing =>
    obtain ⟨-, present, row⟩ := (tableOk_curtailing state).mp h
    exact (tableOk_curtailing rfl).mpr ⟨fits, cap.not.mpr present, row⟩
  | failsafe =>
    obtain ⟨-, present, hold, load, allowance⟩ := (tableOk_failsafe state).mp h
    refine (tableOk_failsafe rfl).mpr ⟨fits, cap.not.mpr present, hold, load, ?_⟩
    rw [fsc state]
    exact allowance

end Rows

/-! ### What the Export Cap Controller's operations do to the table -/

theorem failsafeIfDue_tableOk {s : State} (h : s.xcc.tableOk = true) : (failsafeIfDue s).xcc.tableOk = true := by
  by_cases due : FailsafeDue s
  · have ⟨_, cap, _⟩ := due
    rw [failsafeIfDue_of_due due]
    exact tableOk_toFailsafe (q_le_trip_of_tableOk h) cap
  · rwa [failsafeIfDue_of_not_due due]

theorem failsafeIfDue_uncapped {s : State} (h : s.xcc.state = .uncapped) : failsafeIfDue s = s := by
  refine failsafeIfDue_of_not_due ?_
  rintro ⟨-, -, state⟩
  simp [h] at state

theorem capHealth_tableOk (health : Health) {s : State} (h : s.xcc.tableOk = true) :
    (capHealth health s).xcc.tableOk = true := by
  cases health with
  | lost => exact failsafeIfDue_tableOk h
  | locked =>
    by_cases failsafe : s.xcc.state = .failsafe
    · rw [capHealth_locked_failsafe failsafe]
      exact tableOk_leaveFailsafe _ h failsafe
    · rwa [capHealth_locked failsafe]
  | noSignal | gap | relocking => exact h

theorem capHealth_uncapped (health : Health) {s : State} (h : s.xcc.state = .uncapped) : capHealth health s = s := by
  cases health with
  | lost => exact failsafeIfDue_uncapped h
  | locked => exact capHealth_locked (by simp [h])
  | noSignal | gap | relocking => rfl

theorem capFrame_tableOk (S : Int) {s : State} (h : s.xcc.tableOk = true) : (capFrame S s).xcc.tableOk = true := by
  have counted {limit hyst : Nat} :
      qualify (exportPower S) limit hyst s.xcc.cfg.trip s.xcc.q ≤ s.xcc.cfg.trip :=
    qualify_le_trip (q_le_trip_of_tableOk h)
  cases state : s.xcc.state with
  | uncapped =>
    rw [capFrame_keeps_state (.inl state)]
    exact h
  | failsafe =>
    rw [capFrame_keeps_state (.inr state)]
    exact h
  | normal =>
    obtain ⟨-, present, row⟩ := (tableOk_normal state).mp h
    obtain ⟨⟨limit, hyst⟩, cap⟩ := Option.ne_none_iff_exists'.mp present
    rw [capFrame_normal state cap]
    split_ifs
    · exact (tableOk_curtailing rfl).mpr ⟨counted, present, Option.some_ne_none _, Option.some_ne_none _⟩
    · refine (tableOk_normal ?_).mpr ⟨counted, present, row⟩
      exact state
  | curtailing =>
    obtain ⟨-, present, hold, -⟩ := (tableOk_curtailing state).mp h
    obtain ⟨⟨limit, hyst⟩, cap⟩ := Option.ne_none_iff_exists'.mp present
    rw [capFrame_curtailing state cap]
    split_ifs
    · exact tableOk_toNormal present
    · refine (tableOk_curtailing ?_).mpr ⟨counted, present, hold, Option.some_ne_none _⟩
      exact state

/-- A change of the records alone: Ceff appears, stays or becomes absent (R106). -/
theorem recordsSet_tableOk {cfg : CapSettings} {s : State} (h : s.xcc.tableOk = true)
    (fsc : cfg.fsc = s.xcc.cfg.fsc) (trip : cfg.trip = s.xcc.cfg.trip) : (recordsSet cfg s).xcc.tableOk = true := by
  have q : s.xcc.q ≤ cfg.trip := trip ▸ q_le_trip_of_tableOk h
  cases before : s.xcc.cfg.ceff with
  | none =>
    cases after : cfg.ceff with
    | none =>
      simp only [recordsSet, before, after, raise_frame]
      exact tableOk_withSettings h (by simp [before, after]) q id fun _ => fsc
    | some c =>
      simp only [recordsSet, before, after]
      have cap : cfg.ceff ≠ none := by simp [after]
      split_ifs
      · exact tableOk_toFailsafe (x := { s.xcc with cfg := cfg }) q cap
      · exact tableOk_toNormal (x := { s.xcc with cfg := cfg }) cap
  | some c =>
    cases after : cfg.ceff with
    | none =>
      simp only [recordsSet, before, after]
      exact tableOk_toUncapped (x := { s.xcc with cfg := cfg }) after
    | some d =>
      simp only [recordsSet, before, after, raise_frame]
      exact tableOk_withSettings h (by simp [before, after]) q id fun _ => fsc

theorem capExpiry_tableOk {s : State} (h : s.xcc.tableOk = true) : (capExpiry s).xcc.tableOk = true := by
  by_cases due : s.tim.valid = true ∧ s.xcc.cfg.Due s.tim.utc
  · rw [capExpiry_of_due due.1 due.2]
    exact recordsSet_tableOk h rfl rfl
  · rwa [capExpiry_of_not_due (by rwa [not_and_or, Bool.not_eq_true] at due)]

theorem setRecord_keeps (src : CapSource) (r : Option CapRecord) (c : CapSettings) :
    (c.setRecord src r).fsc = c.fsc ∧ (c.setRecord src r).trip = c.trip := by cases src <;> exact ⟨rfl, rfl⟩

/-- Control settings stored leave the records, and bring Q down to T (R108). -/
theorem controlStored_tableOk {s : State} (fsc : Option Nat) (enable : Option Bool) (trip hold : Option Nat)
    (h : s.xcc.tableOk = true) (same : s.xcc.state = .failsafe → fsc.getD s.xcc.cfg.fsc = s.xcc.cfg.fsc) :
    (controlStored (s.xcc.cfg.updated fsc enable trip hold) s).xcc.tableOk = true := by
  refine tableOk_withSettings h Iff.rfl (min_le_right _ _) (fun zero => ?_) same
  rw [zero, Nat.zero_min]

theorem setCapControl_tableOk {s : State} (fsc : Option Nat) (enable : Option Bool) (trip hold : Option Nat)
    (h : s.xcc.tableOk = true) : (setCapControl fsc enable trip hold s).xcc.tableOk = true := by
  rw [setCapControl_eq]
  split_ifs with failsafe switched
  · have ⟨state, _⟩ := failsafe
    obtain ⟨-, cap, hold, load, -⟩ := (tableOk_failsafe state).mp h
    refine (tableOk_failsafe ?_).mpr ⟨min_le_right _ _, cap, hold, load, rfl⟩
    exact state
  all_goals
    have same (state : s.xcc.state = .failsafe) : fsc.getD s.xcc.cfg.fsc = s.xcc.cfg.fsc :=
      not_not.mp fun ne => failsafe ⟨state, ne⟩
    have stored := controlStored_tableOk fsc enable trip hold h same
  · exact failsafeIfDue_tableOk stored
  · exact stored

theorem establishCap_tableOk (s : State) : (establishCap s).xcc.tableOk = true := by
  unfold establishCap
  split_ifs with present
  · exact (tableOk_failsafe rfl).mpr ⟨Nat.zero_le _, Option.isSome_iff_ne_none.mp present, rfl, rfl, rfl⟩
  · exact tableOk_toNormal (Option.isSome_iff_ne_none.mp present)
  · exact tableOk_toUncapped (by simpa using present)

theorem activeSetChanged_tableOk {s : State} (h : s.xcc.tableOk = true) : (activeSetChanged s).xcc.tableOk = true := by
  by_cases failsafe : s.xcc.state = .failsafe
  · obtain ⟨q, cap, hold, load, -⟩ := (tableOk_failsafe failsafe).mp h
    rw [activeSetChanged_failsafe failsafe]
    refine (tableOk_failsafe ?_).mpr ⟨q, cap, hold, load, rfl⟩
    exact failsafe
  · rw [activeSetChanged_share failsafe]
    exact h

end Sys2Proof.Machine
end

section
/-! PROOFS. The curtailment table, continued: its soundness in a state, before and after recovery has established the
running state, and every command and step. -/
namespace Sys2Proof.Machine
open Sys2Proof.Claim

/-! ### Soundness in a state (R122) -/

/-- The table holds once recovery is done; until then, in STARTING, nothing is formed. -/
inductive State.CurtSound (s : State) : Prop
  | running (done : s.sup.stage = .done) (table : s.xcc.tableOk = true)
  | recovering (early : s.sup.stage ≠ .done) (starting : s.sup.supply = .starting) (quiet : s.xcc.Quiet)

theorem curtOk_iff (s : State) : s.curtOk = true ↔ s.CurtSound := by
  unfold State.curtOk
  split_ifs with done
  · refine ⟨.running done, ?_⟩
    rintro (⟨-, table⟩ | ⟨early, -, -⟩)
    · exact table
    · exact absurd done early
  · simp only [Bool.and_eq_true, beq_iff_eq, Option.isNone_iff_eq_none]
    constructor
    · rintro ⟨⟨⟨⟨⟨starting, state⟩, q⟩, hold⟩, load⟩, allowance⟩
      exact .recovering done starting ⟨state, q, hold, load, allowance⟩
    · rintro (⟨h, -⟩ | ⟨-, starting, quiet⟩)
      · exact absurd h done
      · exact ⟨⟨⟨⟨⟨starting, quiet.state⟩, quiet.q⟩, quiet.hold⟩, quiet.load⟩, quiet.allowance⟩

section
variable {s t : State}

/-- A change at the same stage that keeps the table, and keeps what is quiet so. -/
theorem State.CurtSound.of_xcc (S : s.CurtSound) (stage : t.sup.stage = s.sup.stage)
    (supply : t.sup.supply = s.sup.supply) (table : s.xcc.tableOk = true → t.xcc.tableOk = true)
    (quiet : s.xcc.Quiet → t.xcc.Quiet) : t.CurtSound := by
  cases S with
  | running done ok => exact .running (stage.trans done) (table ok)
  | recovering early starting ok => exact .recovering (stage ▸ early) (supply.trans starting) (quiet ok)

theorem State.CurtSound.of_stage (S : s.CurtSound) (xcc : t.xcc = s.xcc) (stage : t.sup.stage = s.sup.stage)
    (supply : t.sup.supply = s.sup.supply) : t.CurtSound :=
  S.of_xcc stage supply (by rw [xcc]; exact id) (by rw [xcc]; exact id)

theorem State.CurtSound.of_same (S : s.CurtSound) (xcc : t.xcc = s.xcc) (sup : t.sup = s.sup) : t.CurtSound :=
  S.of_stage xcc (by rw [sup]) (by rw [sup])

/-- Outside STARTING recovery is done. -/
theorem State.CurtSound.done (S : s.CurtSound) (h : s.sup.supply ≠ .starting) : s.sup.stage = .done := by
  cases S with
  | running done _ => exact done
  | recovering _ starting _ => exact absurd starting h

theorem State.CurtSound.table (S : s.CurtSound) (done : s.sup.stage = .done) : s.xcc.tableOk = true := by
  cases S with
  | running _ table => exact table
  | recovering early _ _ => exact absurd done early

theorem State.CurtSound.quiet (S : s.CurtSound) (early : s.sup.stage ≠ .done) :
    s.sup.supply = .starting ∧ s.xcc.Quiet := by
  cases S with
  | running done _ => exact absurd done early
  | recovering _ starting quiet => exact ⟨starting, quiet⟩

theorem State.CurtSound.draws (S : s.CurtSound) (n : Nat) : ({ s with draws := n } : State).CurtSound :=
  S.of_same rfl rfl

/-! ### Frames and frame health (R109 to R116) -/

theorem State.CurtSound.capHealth (S : s.CurtSound) (health : Health) : (capHealth health s).CurtSound := by
  refine S.of_xcc (by simp) (by simp) (capHealth_tableOk health) fun quiet => ?_
  rwa [capHealth_uncapped health quiet.state]

theorem State.CurtSound.changeHealth (S : s.CurtSound) (health : Health) (relock : Nat) :
    (changeHealth health relock s).CurtSound := by
  unfold Machine.changeHealth
  dsimp only
  split_ifs
  all_goals
    refine State.CurtSound.capHealth ?_ _
    exact S.of_same rfl rfl

theorem State.CurtSound.arrivalHealth (S : s.CurtSound) : (arrivalHealth s).CurtSound := by
  unfold Machine.arrivalHealth
  dsimp only
  split_ifs
  · exact S.of_same rfl rfl
  · exact S.changeHealth _ _

theorem State.CurtSound.acceptFrame (S : s.CurtSound) (f : PhaseFrame) (j : SeqJudge) (done : s.sup.stage = .done) :
    (acceptFrame f j s).CurtSound :=
  .running (by simpa using done) (capFrame_tableOk _ (S.table done))

theorem State.CurtSound.takeArrival (S : s.CurtSound) (f : PhaseFrame) : (takeArrival f s).CurtSound := by
  by_cases run : s.sup.supply = .run
  · cases judged : judgeSeq s.frx.lastSeq f.seq with
    | duplicate =>
      rw [takeArrival_duplicate run judged]
      exact S.of_same rfl rfl
    | normal | missed | resync =>
      rw [takeArrival_accepted run judged (by simp)]
      exact S.acceptFrame f _ (S.done (by simp [run]))
  · rw [takeArrival_discarded f run]
    exact S.of_same rfl rfl

theorem State.CurtSound.runEnded (S : s.CurtSound) (l : List RxChar) : (runEnded l s).CurtSound := by
  unfold Machine.runEnded
  split
  · exact eitherIf_keeps _ (S.of_same rfl rfl) (fun T => T.draws _) (fun _ T => T.arrivalHealth)
      fun _ T => T.takeArrival _
  · exact S.of_same rfl rfl

theorem State.CurtSound.collectRun (S : s.CurtSound) (r : LinkRun) : (collectRun r s).CurtSound := by
  unfold Machine.collectRun
  dsimp only
  split_ifs
  · refine State.CurtSound.runEnded ?_ _
    exact S.of_same rfl rfl
  · exact S.of_same rfl rfl

theorem State.CurtSound.silence500 (S : s.CurtSound) : (silence500 s).CurtSound := by
  have passed : (passTo (silenceAt 500 s) s).CurtSound := S.of_same rfl rfl
  unfold Machine.silence500
  split
  · exact passed.changeHealth _ _
  · exact passed.changeHealth _ _
  · exact S

theorem State.CurtSound.silence2000 (S : s.CurtSound) : (silence2000 s).CurtSound := by
  have passed : (passTo (silenceAt 2000 s) s).CurtSound := S.of_same rfl rfl
  unfold Machine.silence2000
  split
  · exact passed.changeHealth _ _
  · exact passed.changeHealth _ _
  · exact S

/-! ### The clock (R47 to R50, R105) -/

theorem State.CurtSound.capExpiry (S : s.CurtSound) (done : s.sup.stage = .done) : (capExpiry s).CurtSound :=
  .running (by simpa using done) (capExpiry_tableOk (S.table done))

theorem State.CurtSound.stepEvent (S : s.CurtSound) (resume : Bool) (earlier : Option Nat)
    (done : s.sup.stage = .done) : (stepEvent resume earlier s).CurtSound :=
  (S.capExpiry done).of_same (by simp [Machine.stepEvent]) (by simp [Machine.stepEvent])

theorem State.CurtSound.secondEvents (S : s.CurtSound) (done : s.sup.stage = .done) : (secondEvents s).CurtSound := by
  unfold Machine.secondEvents
  dsimp only
  split_ifs
  · exact (S.capExpiry done).of_same (by simp) (by simp)
  · exact S.capExpiry done

theorem State.CurtSound.secondTick (S : s.CurtSound) : (secondTick s).CurtSound := by
  unfold Machine.secondTick
  dsimp only
  set u := markCountEnd _ _ with hu
  have counted : u.CurtSound := S.of_same (by simp [hu]) (by simp [hu])
  split_ifs with run
  · have done := counted.done (by simp [run])
    unfold secondInRun
    split_ifs
    · exact counted.stepEvent _ _ done
    · exact counted.secondEvents done
    · exact counted
  · exact counted

/-! ### The Unit Link (R119, R124, R125, R135, R137) -/

theorem State.CurtSound.activeSetChanged (S : s.CurtSound) : (activeSetChanged s).CurtSound := by
  refine S.of_xcc (by simp) (by simp) activeSetChanged_tableOk fun quiet => ?_
  rw [activeSetChanged_share (by simp [quiet.state])]
  exact quiet

theorem State.CurtSound.share (S : s.CurtSound) : (share s).CurtSound := S.of_same rfl rfl

theorem State.CurtSound.shareAnyway (S : s.CurtSound) (before : Ulc) : (shareAnyway before s).CurtSound := by
  unfold Machine.shareAnyway
  split_ifs
  · exact S.activeSetChanged
  · exact S.share

theorem State.CurtSound.shareIfChanged (S : s.CurtSound) (before : Ulc) : (shareIfChanged before s).CurtSound := by
  unfold Machine.shareIfChanged
  split_ifs
  · exact S.activeSetChanged
  · exact S.share
  · exact S

theorem State.CurtSound.endExchange (S : s.CurtSound) (i : Fin 4) (f : UnitEntry → UnitEntry) :
    (endExchange i f s).CurtSound := by
  have told : (exchangeTold i f s).CurtSound := S.of_same (by simp) (by simp)
  rw [endExchange_eq]
  exact (told.shareIfChanged s.ulc).of_same rfl rfl

theorem State.CurtSound.replyChars (S : s.CurtSound) (l : List RxChar) : (replyChars l s).CurtSound := by
  unfold Machine.replyChars
  split
  · dsimp only
    split_ifs
    · unfold judgeReply
      split <;> exact S.endExchange _ _
    · exact S.of_same rfl rfl
  · exact S

theorem State.CurtSound.windowCloses (S : s.CurtSound) : (windowCloses s).CurtSound := by
  unfold Machine.windowCloses
  split
  · refine State.CurtSound.endExchange ?_ _ _
    exact S.of_same rfl rfl
  · exact S

theorem State.CurtSound.applyUnitConfig (S : s.CurtSound) (i : Fin 4) (enable : Option Bool) (slot : Option Nat)
    (maskOff : Option Bool) : (applyUnitConfig i enable slot maskOff s).CurtSound := by
  unfold Machine.applyUnitConfig
  dsimp only
  split_ifs
  · refine State.CurtSound.shareAnyway ?_ _
    exact S.of_same rfl rfl
  · exact eitherIf_keeps _ (S.of_same rfl rfl) (fun T => T.draws _) (fun _ T => T.shareAnyway _)
      fun _ T => T.of_same rfl rfl
  · exact State.CurtSound.activeSetChanged (S.of_same rfl rfl)
  · exact State.CurtSound.share (S.of_same rfl rfl)
  · exact S.of_same rfl rfl

theorem State.CurtSound.applyStandby (S : s.CurtSound) (i : Fin 4) (b : Bool) : (applyStandby i b s).CurtSound := by
  unfold Machine.applyStandby
  dsimp only
  split_ifs
  · refine State.CurtSound.shareAnyway ?_ _
    exact S.of_same rfl rfl
  · exact S.of_same rfl rfl

/-! ### Requests -/

theorem State.CurtSound.setting (S : s.CurtSound) : (setting s).CurtSound := S.of_same (by simp) (by simp)

theorem recordsSet_sup (cfg : CapSettings) (s : State) : (recordsSet cfg s).sup = s.sup := by
  rw [← setCapRecords_eq]
  simp

theorem State.CurtSound.recordsSet (S : s.CurtSound) {cfg : CapSettings} (done : s.sup.stage = .done)
    (fsc : cfg.fsc = s.xcc.cfg.fsc) (trip : cfg.trip = s.xcc.cfg.trip) : (recordsSet cfg s).CurtSound :=
  .running (by rw [recordsSet_sup, done]) (recordsSet_tableOk (S.table done) fsc trip)

theorem State.CurtSound.setCap (S : s.CurtSound) (src : CapSource) (limit hyst : Nat) (expiry : Option Nat)
    (done : s.sup.stage = .done) : (setCap src limit hyst expiry s).1.CurtSound := by
  by_cases ok : expiryOk s.tim expiry = true
  · obtain ⟨fsc, trip⟩ := setRecord_keeps src (some (newRecord limit hyst expiry s.tim)) s.xcc.cfg
    rw [setCap_stores src limit hyst ok]
    exact (S.recordsSet done fsc trip).setting
  · rw [setCap_refuses src limit hyst ok]
    exact S

theorem State.CurtSound.clearCap (S : s.CurtSound) (src : CapSource) (done : s.sup.stage = .done) :
    (clearCap src s).1.CurtSound := by
  by_cases absent : s.xcc.cfg.record src = none
  · rw [clearCap_absent absent]
    exact S
  · obtain ⟨fsc, trip⟩ := setRecord_keeps src none s.xcc.cfg
    rw [clearCap_removes absent]
    exact (S.recordsSet done fsc trip).setting

theorem State.CurtSound.ownSetCapControl (S : s.CurtSound) (fsc enable trip hold : Option Nat)
    (done : s.sup.stage = .done) : (ownSetCapControl fsc enable trip hold s).1.CurtSound := by
  unfold Machine.ownSetCapControl
  dsimp only
  split_ifs
  · exact S
  · exact State.CurtSound.setting (.running (by simpa using done) (setCapControl_tableOk _ _ _ _ (S.table done)))
  · exact S

theorem State.CurtSound.ownSetTime (S : s.CurtSound) (t : Nat) (done : s.sup.stage = .done) :
    (ownSetTime t s).1.CurtSound := by
  unfold Machine.ownSetTime
  dsimp only
  split_ifs
  · refine State.CurtSound.stepEvent ?_ _ _ done
    exact S.of_same rfl rfl
  · exact S

theorem State.CurtSound.ownSetLocalOffset (S : s.CurtSound) (o : Option Int) (done : s.sup.stage = .done) :
    (ownSetLocalOffset o s).1.CurtSound := by
  unfold Machine.ownSetLocalOffset
  split
  · exact S
  · split_ifs
    · exact State.CurtSound.setting (S.of_same rfl rfl)
    · refine State.CurtSound.setting (State.CurtSound.stepEvent ?_ _ _ done)
      exact S.of_same rfl rfl
    · exact S

theorem State.CurtSound.ownSetUnitConfig (S : s.CurtSound) (unit : Nat) (enable slot maskOff : Option Nat) :
    (ownSetUnitConfig unit enable slot maskOff s).1.CurtSound := by
  unfold Machine.ownSetUnitConfig
  dsimp only
  split_ifs
  · exact S
  · exact S
  · exact S
  · exact S
  · exact (S.applyUnitConfig _ _ _ _).setting
  · exact S

theorem State.CurtSound.ownSetUnitStandby (S : s.CurtSound) (unit : Nat) (standby : Option Nat) :
    (ownSetUnitStandby unit standby s).1.CurtSound := by
  unfold Machine.ownSetUnitStandby
  split_ifs
  · split
    · exact S
    · split
      · exact (S.applyStandby _ _).setting
      · exact S
  · exact S

theorem ownRestart_stage (s : State) :
    (ownRestart s).1.sup.stage = s.sup.stage ∧ (ownRestart s).1.sup.supply = s.sup.supply := by
  unfold ownRestart
  split_ifs <;> simp

/-- Every owner keeps the table, once recovery is done. -/
theorem State.CurtSound.serve (S : s.CurtSound) (done : s.sup.stage = .done) (p : Port) (q : Request) :
    (serve p q s).1.CurtSound := by
  cases q with
  | setTime t => exact S.ownSetTime t done
  | setLocalOffset o => exact S.ownSetLocalOffset o done
  | setUtilityCap l h e => exact S.setCap .utility l h e done
  | clearUtilityCap => exact S.clearCap .utility done
  | setPremisesCap l h e => exact S.setCap .premises l h e done
  | clearPremisesCap => exact S.clearCap .premises done
  | setCapControl f e t h => exact S.ownSetCapControl f e t h done
  | setUnitConfig u e slot m => exact S.ownSetUnitConfig u e slot m
  | setUnitStandby u r => exact S.ownSetUnitStandby u r
  | restart => exact S.of_stage (by simp [Machine.serve]) (ownRestart_stage s).1 (ownRestart_stage s).2
  | _ => exact S.of_same (by simp [Machine.serve]) (by simp [Machine.serve])

end

theorem curtSound_keptByOwners : KeptByOwners State.CurtSound where
  port _ _ S := S.of_same (by simp) (by simp)
  serve p q run S := S.serve (S.done (by simp [run])) p q

section
variable {s : State}

/-! ### Resets and the end of a command (R122, R156, R170, R171) -/

theorem resetWith_curtSound (utc subMs : Nat) (valid : Bool) (s : State) : (resetWith utc subMs valid s).CurtSound :=
  .recovering (fun h => by cases h) rfl ⟨rfl, rfl, rfl, rfl, rfl⟩

theorem resetEngine_curtSound (s : State) : (resetEngine s).CurtSound := resetWith_curtSound _ _ _ s

theorem powerOn_curtSound (s : State) : (powerOn s).CurtSound := by
  unfold powerOn
  split_ifs
  · exact resetEngine_curtSound s
  · exact resetWith_curtSound _ _ _ s

theorem withdrawLost_stage (s : State) :
    (withdrawLost s).sup.stage = s.sup.stage ∧ (withdrawLost s).sup.supply = s.sup.supply := by
  unfold withdrawLost
  split_ifs <;> simp

theorem State.CurtSound.finish (S : s.CurtSound) : (finish s).CurtSound := by
  have reset : (if restartDue s then resetEngine s else s).CurtSound := by
    split_ifs
    · exact resetEngine_curtSound s
    · exact S
  have arbitrated : (arbitrate (if restartDue s then resetEngine s else s)).CurtSound :=
    reset.of_same (by simp) (by simp)
  exact arbitrated.of_stage (by simp [Machine.finish]) (withdrawLost_stage _).1 (withdrawLost_stage _).2

theorem State.CurtSound.command (S : s.CurtSound) {f : State → State} (h : (f s).CurtSound) :
    (command f s).CurtSound := by
  unfold Machine.command
  split_ifs
  · exact h.finish
  · exact S

/-! ### Changes of the supply state (R165 to R169) -/

theorem State.CurtSound.setSupply (S : s.CurtSound) (u : Supply) (done : s.sup.stage = .done) :
    (setSupply u s).CurtSound := .running done (S.table done)

theorem State.CurtSound.enterDown (S : s.CurtSound) (done : s.sup.stage = .done) : (enterDown s).CurtSound :=
  .running done (S.table done)

theorem State.CurtSound.enterWarning (S : s.CurtSound) (done : s.sup.stage = .done) : (enterWarning s).CurtSound :=
  .running (by simpa [Machine.enterWarning, Machine.setSupply] using done) (by simpa using S.table done)

theorem State.CurtSound.enterRun (S : s.CurtSound) (done : s.sup.stage = .done) : (enterRun s).CurtSound := by
  refine (eitherIf_keeps (P := fun t => t.CurtSound ∧ t.sup.stage = .done) _ ?_ (fun T => ⟨T.1.draws _, T.2⟩)
    (fun _ T => ?_) fun _ T => ?_).1
  · exact ⟨.running done (S.table done), done⟩
  · exact ⟨T.1.of_same rfl rfl, T.2⟩
  · exact ⟨T.1.stepEvent _ _ T.2, by simpa using T.2⟩

theorem State.CurtSound.rideThrough (S : s.CurtSound) (done : s.sup.stage = .done) : (rideThrough s).CurtSound :=
  State.CurtSound.enterRun (S.of_stage (by simp) (by simp) (by simp)) (by simpa using done)

theorem State.CurtSound.endSequence (S : s.CurtSound) (done : s.sup.stage = .done) : (endSequence s).CurtSound := by
  unfold Machine.endSequence
  split_ifs
  · exact resetEngine_curtSound s
  · exact S.enterDown done
  · exact S.rideThrough done

theorem State.CurtSound.mainsWarns (S : s.CurtSound) : (mainsWarns s).CurtSound := by
  cases supply : s.sup.supply with
  | run =>
    rw [mainsWarns_run supply]
    exact State.CurtSound.enterWarning (S.of_stage rfl rfl rfl) (S.done (by simp [supply]))
  | down =>
    rw [mainsWarns_down supply]
    exact S.of_stage rfl rfl rfl
  | starting | warning =>
    rw [mainsWarns_level (by simp [supply])]
    exact S.of_stage rfl rfl rfl

theorem State.CurtSound.mainsClears (S : s.CurtSound) : (mainsClears s).CurtSound := by
  unfold Machine.mainsClears
  dsimp only
  split_ifs <;> exact S.of_stage rfl rfl rfl

theorem State.CurtSound.mainsLevel (S : s.CurtSound) (level : Bool) {f : State → State} (h : (f s).CurtSound) :
    (mainsLevel level f s).CurtSound := by
  unfold Machine.mainsLevel
  split_ifs
  · exact S
  · exact h.finish
  · exact S.of_stage rfl rfl rfl

theorem State.CurtSound.supplySettles (S : s.CurtSound) : (supplySettles s).CurtSound := by
  unfold Machine.supplySettles
  split
  next t down _ => exact State.CurtSound.rideThrough (S.of_same rfl rfl) (S.done (by simp [down]))
  · exact S

/-! ### Recovery (R122, R172 to R179) -/

/-- Recovery loads the records, and forms nothing yet. -/
theorem State.CurtSound.scanRing (S : s.CurtSound) (early : s.sup.stage ≠ .done) : (scanRing s).CurtSound := by
  obtain ⟨starting, quiet⟩ := S.quiet early
  unfold Machine.scanRing
  dsimp only
  split
  · exact .recovering (by simp [loadCheckpoint]) (by simp [loadCheckpoint, starting])
      ⟨quiet.state, quiet.q, quiet.hold, quiet.load, quiet.allowance⟩
  · split_ifs
    · exact .recovering (by simp) (by simp [starting]) quiet
    · exact .recovering (by simp) (by simp [starting]) quiet

theorem State.CurtSound.scanLog (S : s.CurtSound) (early : s.sup.stage ≠ .done) : (scanLog s).CurtSound := by
  obtain ⟨starting, quiet⟩ := S.quiet early
  exact .recovering (by simp [Machine.scanLog]) (by simp [Machine.scanLog, starting]) (by simpa using quiet)

theorem State.CurtSound.leaveStarting (S : s.CurtSound) (done : s.sup.stage = .done) : (leaveStarting s).CurtSound := by
  unfold Machine.leaveStarting
  split_ifs
  · exact (S.setSupply .warning done).of_same (by simp) (by simp)
  · exact S.enterDown done
  · exact S.enterRun done

/-- Stage 8 establishes the table, whatever recovery has loaded. -/
theorem loadCalendars_curtSound (s : State) : (loadCalendars s).CurtSound := by
  unfold loadCalendars
  set u := foldActive _ with hu
  have done : (establish u).sup.stage = .done := by simp [hu]
  refine State.CurtSound.leaveStarting (.running done ?_) done
  simpa [establish] using establishCap_tableOk u

theorem State.CurtSound.atStage (S : s.CurtSound) {g : Stage} {f : State → State}
    (h : s.sup.stage = g → (f s).CurtSound) : (atStage g f s).CurtSound := by
  unfold Machine.atStage
  split_ifs with due
  · exact h due.2
  · exact S

theorem readDone_stage (decayed : Bool) (s : State) :
    (readDone decayed s).sup.stage = s.sup.stage ∧ (readDone decayed s).sup.supply = s.sup.supply := by
  unfold readDone
  split
  next who _ _ => cases who <;> simp
  next => simp

/-! ### Every command -/

/-- A command that carries no request keeps the table. -/
theorem State.CurtSound.exec_event (S : s.CurtSound) {i : Instr} (event : i.request = none) :
    ∃ t, exec i s = .next t ∧ t.CurtSound := by
  have same {f : State → State} (xcc : (f s).xcc = s.xcc) (sup : (f s).sup = s.sup) :
      (Machine.command f s).CurtSound := S.command (S.of_same xcc sup)
  cases i with
  | phaseFrame run => exact ⟨_, rfl, S.command (S.collectRun run)⟩
  | silence500 => exact ⟨_, rfl, S.command S.silence500⟩
  | silence2000 => exact ⟨_, rfl, S.command S.silence2000⟩
  | secondTick =>
    refine ⟨_, rfl, ?_⟩
    split_ifs
    · exact S.secondTick.finish
    · exact S.of_same (by simp) (by simp)
  | backupDomainLoss => exact ⟨_, rfl, S.of_same (by simp) (by simp)⟩
  | overrideLineLevelChange line level => exact ⟨_, rfl, S.of_same (by simp) (by simp)⟩
  | overrideDebounceExpiry line => exact ⟨_, rfl, same (by simp) (by simp)⟩
  | mainsWarnAssert => exact ⟨_, rfl, S.mainsLevel true S.mainsWarns⟩
  | mainsWarnDeassert => exact ⟨_, rfl, S.mainsLevel false S.mainsClears⟩
  | supplyDebounceExpiry => exact ⟨_, rfl, S.command S.supplySettles⟩
  | writeSequenceEnd =>
    refine ⟨_, rfl, S.command ?_⟩
    split_ifs with ended
    · exact S.endSequence (S.done (by simp [ended.1]))
    · exact S
  | powerOnReset => exact ⟨_, rfl, powerOn_curtSound s⟩
  | resetLine => exact ⟨_, rfl, S.command (resetEngine_curtSound s)⟩
  | mainSupplyLoss =>
    refine ⟨_, rfl, ?_⟩
    split_ifs
    · exact (resetEngine_curtSound s).of_stage rfl rfl rfl
    · exact S
  | recoveryCheckpointScan => exact ⟨_, rfl, S.command (S.atStage fun due => S.scanRing (by simp [due]))⟩
  | recoveryLogScan => exact ⟨_, rfl, S.command (S.atStage fun due => S.scanLog (by simp [due]))⟩
  | recoveryCalendarLoad => exact ⟨_, rfl, S.command (S.atStage fun _ => loadCalendars_curtSound s)⟩
  | periodicCheckpointTimer => exact ⟨_, rfl, same (by simp) (by simp)⟩
  | snapshotProgramComplete valid => exact ⟨_, rfl, same (by simp) (by simp)⟩
  | checkpointProgramComplete valid0 valid1 => exact ⟨_, rfl, same (by simp) (by simp)⟩
  | calendarPartProgramComplete valid => exact ⟨_, rfl, same (by simp) (by simp)⟩
  | sectorEraseComplete notBlank => exact ⟨_, rfl, same (by simp) (by simp)⟩
  | eraseSuspend => exact ⟨_, rfl, same (by simp [ite_fields]) (by simp [ite_fields])⟩
  | slotReadComplete decayed =>
    exact ⟨_, rfl, S.command (S.of_stage (by simp) (readDone_stage _ s).1 (readDone_stage _ s).2)⟩
  | requestFrame port chars => exact ⟨_, rfl, S.command (curtSound_keptByOwners.receiveAll port chars S)⟩
  | frameLengthOverflow port length => exact ⟨_, rfl, S.command (curtSound_keptByOwners.receiveAll port _ S)⟩
  | frameStall port => exact ⟨_, rfl, same (by simp) (by simp)⟩
  | ignoreIdleExpiry port => exact ⟨_, rfl, same (by simp) (by simp)⟩
  | responseTransmitComplete port => exact ⟨_, rfl, same (by simp) (by simp)⟩
  | viewExpiry port => exact ⟨_, rfl, same (by simp) (by simp)⟩
  | pollCycleStart => exact ⟨_, rfl, same (by simp) (by simp)⟩
  | allowanceSent => exact ⟨_, rfl, same (by simp) (by simp)⟩
  | unitReport chars => exact ⟨_, rfl, S.command (S.replyChars chars)⟩
  | replyWindowExpiry => exact ⟨_, rfl, S.command S.windowCloses⟩
  | _ => cases event

/-- Every command keeps the table. -/
theorem State.CurtSound.exec (S : s.CurtSound) {t : State} {i : Instr} (h : exec i s = .next t) : t.CurtSound := by
  cases request : i.request with
  | none =>
    obtain ⟨u, executed, sound⟩ := S.exec_event request
    obtain rfl : u = t := Host.Outcome.next.inj (executed.symm.trans h)
    exact sound
  | some r =>
    obtain rfl : Machine.command (Machine.takeRequest r.1 r.2) s = t :=
      Host.Outcome.next.inj ((exec_request request s).symm.trans h)
    exact S.command (curtSound_keptByOwners.takeRequest r.1 r.2 S)

end

/-- Settles O56: every change of the Export Cap Controller leads from a row of the table to a row of it, and recovery
establishes a row. -/
theorem curtailmentTableKept : Obligations.CurtailmentTableKept := by
  intro s t sound h
  rw [curtOk_iff] at sound ⊢
  unfold step at h
  split at h
  next => exact Host.Outcome.next.inj h ▸ sound.of_same (by simp) (by simp)
  next c rest _ => exact (sound.of_same (t := { s with pending := rest }) rfl rfl).exec h

end Sys2Proof.Machine
end

section
/-! PROOFS. The unit states (R123, R127, R130 to R132, R141): what a sharing leaves alone, the tables and the polling as
propositions, and what each operation of the Unit Link does to them. -/
namespace Sys2Proof.Machine
open Sys2Proof.Claim

/-! ### What a sharing leaves alone (R138) -/

/-- A unit but for its allowance in force. -/
def UnitEntry.unshared (u : UnitEntry) : UnitEntry := { u with allowance := none }

/-- The units but for their allowances in force, and the poll cycle: what no sharing and no handing on writes. -/
def Ulc.unshared (l : Ulc) : Vector UnitEntry 4 × List (Fin 4) × Exchange :=
  (l.units.map UnitEntry.unshared, l.rest, l.exchange)

theorem unshared_eq_iff {l l' : Ulc} :
    l'.unshared = l.unshared ↔
      (∀ i : Fin 4, l'.units[i].unshared = l.units[i].unshared) ∧ l'.rest = l.rest ∧ l'.exchange = l.exchange := by
  simp only [Ulc.unshared, Prod.mk.injEq, and_congr_left_iff]
  rintro -
  constructor
  · intro same i
    simpa using congrArg (fun v : Vector UnitEntry 4 => v[i]) same
  · intro same
    ext1 i h
    simpa using same ⟨i, h⟩

theorem reshare_units (l : Ulc) (i : Fin 4) :
    l.reshare.units[i] = { l.units[i] with allowance := l.allowanceFor i } := by
  simp [Ulc.reshare]

@[simp] theorem reshare_unshared (l : Ulc) : l.reshare.unshared = l.unshared :=
  unshared_eq_iff.mpr ⟨fun i => by rw [reshare_units]; rfl, rfl, rfl⟩

@[simp] theorem share_unshared (s : State) : (share s).ulc.unshared = s.ulc.unshared := reshare_unshared _

@[simp] theorem handOn_unshared (s : State) : (handOn s).ulc.unshared = s.ulc.unshared := reshare_unshared _

@[simp] theorem activeSetChanged_unshared (s : State) : (activeSetChanged s).ulc.unshared = s.ulc.unshared := by
  unfold activeSetChanged
  split_ifs <;> simp

@[simp] theorem shareAnyway_unshared (before : Ulc) (s : State) :
    (shareAnyway before s).ulc.unshared = s.ulc.unshared := by
  unfold shareAnyway
  split_ifs <;> simp

@[simp] theorem shareIfChanged_unshared (before : Ulc) (s : State) :
    (shareIfChanged before s).ulc.unshared = s.ulc.unshared := by
  unfold shareIfChanged
  split_ifs <;> simp

@[simp] theorem changeCurt_unshared (x : Xcc) (s : State) : (changeCurt x s).ulc.unshared = s.ulc.unshared := by
  simp [changeCurt]

@[simp] theorem failsafeIfDue_unshared (s : State) : (failsafeIfDue s).ulc.unshared = s.ulc.unshared := by
  unfold failsafeIfDue
  split_ifs <;> simp

@[simp] theorem capHealth_unshared (h : Health) (s : State) : (capHealth h s).ulc.unshared = s.ulc.unshared := by
  cases h with
  | lost => simp [capHealth]
  | locked => simp only [capHealth]; split_ifs <;> simp
  | noSignal | gap | relocking => rfl

@[simp] theorem capRecordsChanged_unshared (before : CapSettings) (s : State) :
    (capRecordsChanged before s).ulc.unshared = s.ulc.unshared := by
  unfold capRecordsChanged
  split_ifs <;> simp

@[simp] theorem setCapRecords_unshared (f : CapSettings → CapSettings) (s : State) :
    (setCapRecords f s).ulc.unshared = s.ulc.unshared := by
  simp [setCapRecords]

@[simp] theorem capExpiry_unshared (s : State) : (capExpiry s).ulc.unshared = s.ulc.unshared := by
  unfold capExpiry
  dsimp only
  split_ifs <;> simp

@[simp] theorem capFrame_unshared (S : Int) (s : State) : (capFrame S s).ulc.unshared = s.ulc.unshared := by
  unfold capFrame
  dsimp only
  split
  · split_ifs <;> simp
  · split_ifs <;> simp
  · rfl

@[simp] theorem setCapControl_unshared (fsc : Option Nat) (enable : Option Bool) (trip hold : Option Nat) (s : State) :
    (setCapControl fsc enable trip hold s).ulc.unshared = s.ulc.unshared := by
  unfold setCapControl
  dsimp only
  split_ifs <;> simp

/-! ### Frames, frame health and the clock leave the units and the cycle alone -/

@[simp] theorem changeHealth_unshared (h : Health) (n : Nat) (s : State) :
    (changeHealth h n s).ulc.unshared = s.ulc.unshared := by
  unfold changeHealth
  dsimp only
  split_ifs <;> simp

@[simp] theorem arrivalHealth_unshared (s : State) : (arrivalHealth s).ulc.unshared = s.ulc.unshared := by
  unfold arrivalHealth
  dsimp only
  split_ifs <;> simp

@[simp] theorem takeArrival_unshared (f : PhaseFrame) (s : State) :
    (takeArrival f s).ulc.unshared = s.ulc.unshared := by
  unfold takeArrival
  split_ifs
  · split <;> simp [acceptFrame]
  · simp

@[simp] theorem runEnded_unshared (l : List RxChar) (s : State) : (runEnded l s).ulc.unshared = s.ulc.unshared := by
  unfold runEnded
  split
  · exact eitherIf_keeps (P := fun t => t.ulc.unshared = s.ulc.unshared) _ rfl (fun h => h)
      (fun t h => (arrivalHealth_unshared t).trans h) fun t h => (takeArrival_unshared _ t).trans h
  · simp

@[simp] theorem collectRun_unshared (r : LinkRun) (s : State) : (collectRun r s).ulc.unshared = s.ulc.unshared := by
  unfold collectRun
  dsimp only
  split_ifs <;> simp

@[simp] theorem silence500_unshared (s : State) : (silence500 s).ulc.unshared = s.ulc.unshared := by
  unfold silence500
  split <;> simp

@[simp] theorem silence2000_unshared (s : State) : (silence2000 s).ulc.unshared = s.ulc.unshared := by
  unfold silence2000
  split <;> simp

@[simp] theorem stepEvent_unshared (resume : Bool) (earlier : Option Nat) (s : State) :
    (stepEvent resume earlier s).ulc.unshared = s.ulc.unshared := by
  simp [stepEvent]

@[simp] theorem secondEvents_unshared (s : State) : (secondEvents s).ulc.unshared = s.ulc.unshared := by
  unfold secondEvents
  dsimp only
  split_ifs <;> simp

@[simp] theorem secondTick_unshared (s : State) : (secondTick s).ulc.unshared = s.ulc.unshared := by
  unfold secondTick secondInRun
  dsimp only
  split_ifs <;> simp

/-! ### The requests that share at most (R49, R102 to R108) -/

@[simp] theorem ownSetTime_unshared (t : Nat) (s : State) : (ownSetTime t s).1.ulc.unshared = s.ulc.unshared := by
  unfold ownSetTime
  dsimp only
  split_ifs <;> simp

@[simp] theorem ownSetLocalOffset_unshared (o : Option Int) (s : State) :
    (ownSetLocalOffset o s).1.ulc.unshared = s.ulc.unshared := by
  unfold ownSetLocalOffset
  split
  · simp
  · split_ifs <;> simp

@[simp] theorem setCap_unshared (src : CapSource) (limit hyst : Nat) (expiry : Option Nat) (s : State) :
    (setCap src limit hyst expiry s).1.ulc.unshared = s.ulc.unshared := by
  unfold setCap
  split_ifs <;> simp

@[simp] theorem clearCap_unshared (src : CapSource) (s : State) :
    (clearCap src s).1.ulc.unshared = s.ulc.unshared := by
  unfold clearCap
  split_ifs <;> simp

@[simp] theorem ownSetCapControl_unshared (fsc enable trip hold : Option Nat) (s : State) :
    (ownSetCapControl fsc enable trip hold s).1.ulc.unshared = s.ulc.unshared := by
  unfold ownSetCapControl
  dsimp only
  split_ifs <;> simp

end Sys2Proof.Machine
end

section
/-! PROOFS. The unit states, continued: the tables and the polling as propositions, and what each operation of the Unit
Link does to them. -/
namespace Sys2Proof.Machine
open Sys2Proof.Claim

/-! ### Misses and reports (R130 to R132) -/

/-- The link states in which a miss counts (R131). -/
def UnitEntry.CountsMisses (u : UnitEntry) : Prop := u.link = .probing ∨ u.link = .online

section Updates
variable {u : UnitEntry}

theorem missed_of_counts (h : u.CountsMisses) :
    u.missed = if 3 ≤ u.miss + 1 then { u with miss := 3, link := .offline } else { u with miss := u.miss + 1 } := by
  rcases h with h | h <;> rw [UnitEntry.missed, h]

theorem missed_of_not_counts (h : ¬u.CountsMisses) : u.missed = u := by
  cases link : u.link with
  | probing => exact absurd (.inl link) h
  | online => exact absurd (.inr link) h
  | disabled | offline => rw [UnitEntry.missed, link]

theorem missed_cfg (u : UnitEntry) : u.missed.cfg = u.cfg := by
  by_cases counts : u.CountsMisses
  · rw [missed_of_counts counts]
    split_ifs <;> rfl
  · rw [missed_of_not_counts counts]

theorem reported_echoed {r : Report} {sent : Byte} (enabled : u.link ≠ .disabled) (echo : r.echo = sent) :
    u.reported r sent =
      { u with last := some r, link := .online, miss := 0, mismatch := 0, notFollowing := false } := by
  simp [UnitEntry.reported, enabled, echo]

theorem reported_mismatched {r : Report} {sent : Byte} (enabled : u.link ≠ .disabled) (echo : r.echo ≠ sent) :
    u.reported r sent =
      { u with last := some r, link := .online, miss := 0, mismatch := min 8 (u.mismatch + 1),
               notFollowing := u.notFollowing || decide (7 ≤ u.mismatch) } := by
  simp [UnitEntry.reported, enabled, echo]

end Updates

/-- Settles O38: a miss by the link states in which it counts, a report by its echo. -/
theorem unitStates : Obligations.UnitStates := by
  intro u r sent
  refine ⟨fun counts => ⟨fun below => ?_, fun third => ?_⟩, fun uncounted => ?_, fun enabled =>
    ⟨reported_echoed enabled, reported_mismatched enabled⟩⟩
  · rw [missed_of_counts counts, if_neg (by omega)]
  · rw [missed_of_counts counts, if_pos (by omega)]
  · refine missed_of_not_counts fun counts => ?_
    rcases counts with h | h <;> simp [h] at uncounted

/-! ### The table of one unit (R123, R130 to R132) -/

/-- The counts within their ranges, and the last report's output (R130 to R132). -/
structure UnitEntry.InRange (u : UnitEntry) : Prop where
  miss : u.miss ≤ 3
  mismatch : u.mismatch ≤ 8
  output : ∀ r, u.last = some r → r.output ≤ 30000

/-- What R131 has a link state forget or hold. -/
def UnitEntry.LinkOk (u : UnitEntry) : Prop :=
  match u.link with
  | .disabled => u.cfg.enable = false ∧ u.untouched = true
  | .probing => u.cfg.enable = true ∧ u.miss < 3 ∧ u.last = none
  | .online => u.cfg.enable = true ∧ u.miss < 3 ∧ u.last ≠ none
  | .offline => u.cfg.enable = true ∧ u.miss = 3

theorem untouched_iff (u : UnitEntry) :
    u.untouched = true ↔ u.link = .disabled ∧ u.miss = 0 ∧ u.mismatch = 0 ∧ u.notFollowing = false ∧ u.last = none ∧
      u.lastSent = none := by
  simp [UnitEntry.untouched, and_assoc]

theorem tableOk_iff (u : UnitEntry) : u.tableOk = true ↔ u.InRange ∧ u.LinkOk := by
  simp only [UnitEntry.tableOk, Bool.and_eq_true, decide_eq_true_eq]
  refine and_congr ⟨fun ⟨⟨miss, mismatch⟩, output⟩ => ⟨miss, mismatch, fun r last => ?_⟩,
    fun h => ⟨⟨h.miss, h.mismatch⟩, ?_⟩⟩ ?_
  · simpa [last] using output
  · cases last : u.last with
    | none => rfl
    | some r => simpa using h.output r last
  · unfold UnitEntry.LinkOk
    cases link : u.link <;> simp [untouched_iff, link, and_assoc, Option.isSome_iff_ne_none]

section Table
variable {u : UnitEntry}

theorem tableOk_unshared (u : UnitEntry) : u.unshared.tableOk = u.tableOk := rfl

theorem UnitEntry.LinkOk.enable_iff (h : u.LinkOk) : u.cfg.enable = true ↔ u.link ≠ .disabled := by
  unfold UnitEntry.LinkOk at h
  split at h <;> simp_all

theorem tableOk_missed (h : u.tableOk = true) : u.missed.tableOk = true := by
  obtain ⟨range, link⟩ := (tableOk_iff u).mp h
  by_cases counts : u.CountsMisses
  · have enabled : u.cfg.enable = true := link.enable_iff.mpr (by rcases counts with h | h <;> simp [h])
    rw [missed_of_counts counts, tableOk_iff]
    split_ifs with third
    · exact ⟨⟨le_rfl, range.mismatch, range.output⟩, enabled, rfl⟩
    · refine ⟨⟨by simp; omega, range.mismatch, range.output⟩, ?_⟩
      rcases counts with state | state <;> simp_all [UnitEntry.LinkOk] <;> omega
  · rwa [missed_of_not_counts counts]

theorem tableOk_reported {r : Report} (sent : Byte) (h : u.tableOk = true) (enabled : u.cfg.enable = true)
    (output : r.output ≤ 30000) : (u.reported r sent).tableOk = true := by
  obtain ⟨-, link⟩ := (tableOk_iff u).mp h
  rw [tableOk_iff]
  refine ⟨⟨Nat.zero_le _, ?_, fun r' same => ?_⟩, ?_⟩
  · simp only [UnitEntry.reported]
    split_ifs <;> omega
  · obtain rfl := Option.some.inj same
    exact output
  · simp [UnitEntry.LinkOk, UnitEntry.reported, link.enable_iff.mp enabled, enabled]

theorem tableOk_setConfig (slot : Option Nat) (maskOff : Option Bool) :
    (u.setConfig slot maskOff).tableOk = u.tableOk := rfl

theorem tableOk_setEnable (on : Bool) (h : u.tableOk = true) : (u.setEnable on).tableOk = true := by
  obtain ⟨range, -⟩ := (tableOk_iff u).mp h
  unfold UnitEntry.setEnable
  split_ifs
  · exact h
  · rw [tableOk_iff]
    exact ⟨⟨Nat.zero_le _, range.mismatch, by simp⟩, rfl, Nat.zero_lt_succ _, rfl⟩
  · rw [tableOk_iff]
    exact ⟨⟨Nat.zero_le _, Nat.zero_le _, by simp⟩, rfl, rfl⟩

/-- A message to an enabled unit changes nothing its table looks at. -/
theorem tableOk_sent (seq : Byte) (allowance : Option (Option Nat)) (h : u.tableOk = true)
    (enabled : u.cfg.enable = true) : ({ u with seq := seq, lastSent := allowance } : UnitEntry).tableOk = true := by
  obtain ⟨range, link⟩ := (tableOk_iff u).mp h
  rw [tableOk_iff]
  refine ⟨⟨range.miss, range.mismatch, range.output⟩, ?_⟩
  unfold UnitEntry.LinkOk at link ⊢
  cases state : u.link <;> simp_all

/-- Recovery makes each enabled unit PROBING (R141). -/
theorem tableOk_established (h : u.untouched = true) :
    ({ u with link := if u.cfg.enable then .probing else .disabled } : UnitEntry).tableOk = true := by
  obtain ⟨-, miss, mismatch, follows, last, lastSent⟩ := (untouched_iff u).mp h
  rw [tableOk_iff]
  refine ⟨⟨by simp [miss], by simp [mismatch], by simp [last]⟩, ?_⟩
  cases enabled : u.cfg.enable <;> simp [UnitEntry.LinkOk, untouched_iff, *]

end Table

/-- A valid report's output is brought down to 30,000 W (R130). -/
theorem parseReport_output {i : Fin 4} {chars : List RxChar} {r : Report} (h : parseReport i chars = some r) :
    r.output ≤ 30000 := by
  unfold parseReport at h
  dsimp only at h
  split_ifs at h
  split at h
  · obtain rfl := Option.some.inj h
    exact min_le_right _ _
  · cases h

/-! ### All units, and who is polled (R127) -/

/-- Unit `j` waits for its poll in the cycle or is in the exchange. -/
def Ulc.Polled (l : Ulc) (j : Fin 4) : Prop := j ∈ l.rest ∨ l.exchangesWith j = true

/-- Every table holds, and every unit that is polled, unit `gone` apart, is enabled. -/
structure Ulc.RunningBut (gone : Option (Fin 4)) (l : Ulc) : Prop where
  table : ∀ i : Fin 4, l.units[i].tableOk = true
  polled : ∀ j : Fin 4, l.Polled j → some j ≠ gone → l.units[j].cfg.enable = true

/-- Every table holds, and only enabled units are polled. -/
abbrev Ulc.Running (l : Ulc) : Prop := l.RunningBut none

/-- No unit is polled, and each holds but what a reset and recovery gave it (R141). -/
structure Ulc.Untouched (l : Ulc) : Prop where
  units : ∀ i : Fin 4, l.units[i].untouched = true
  rest : l.rest = []
  exchange : l.exchange = .none

theorem all_units_iff (P : UnitEntry → Bool) (v : Vector UnitEntry 4) :
    v.toList.all P = true ↔ ∀ i : Fin 4, P v[i] = true := by
  simp only [List.all_eq_true, Vector.mem_toList_iff, Vector.mem_iff_getElem, forall_exists_index]
  exact ⟨fun h i => h _ i.val i.isLt rfl, fun h _ i lt same => same ▸ h ⟨i, lt⟩⟩

theorem exchangesWith_iff (j : Fin 4) (l : Ulc) :
    l.exchangesWith j = true ↔
      (∃ m, l.exchange = .sending m ∧ m.unit = j) ∨ ∃ m closes got, l.exchange = .window m closes got ∧ m.unit = j := by
  cases exchange : l.exchange <;> simp [Ulc.exchangesWith, exchange]

theorem pollsEnabled_iff (l : Ulc) : l.pollsEnabled = true ↔ ∀ j, l.Polled j → l.units[j].cfg.enable = true := by
  simp only [Ulc.pollsEnabled, Bool.and_eq_true, List.all_eq_true, Ulc.Polled, or_imp, forall_and]
  refine and_congr_right fun _ => ?_
  cases exchange : l.exchange <;> simp [Ulc.exchangesWith, exchange]

theorem running_iff (l : Ulc) : (l.units.toList.all UnitEntry.tableOk && l.pollsEnabled) = true ↔ l.Running := by
  rw [Bool.and_eq_true, all_units_iff, pollsEnabled_iff]
  exact ⟨fun ⟨table, polled⟩ => ⟨table, fun j h _ => polled j h⟩, fun h => ⟨h.table, fun j p => h.polled j p (by simp)⟩⟩

section Running
variable {l l' : Ulc} {gone : Option (Fin 4)}

theorem Ulc.Running.enabled (h : l.Running) {j : Fin 4} (polled : l.Polled j) : l.units[j].cfg.enable = true :=
  h.polled j polled (by simp)

theorem cfg_of_unshared (same : l'.unshared = l.unshared) (i : Fin 4) : l'.units[i].cfg = l.units[i].cfg := by
  have kept := congrArg UnitEntry.cfg ((unshared_eq_iff.mp same).1 i)
  exact kept

theorem polled_of_unshared (same : l'.unshared = l.unshared) (j : Fin 4) : l'.Polled j ↔ l.Polled j := by
  obtain ⟨-, rest, exchange⟩ := unshared_eq_iff.mp same
  simp only [Ulc.Polled, Ulc.exchangesWith, rest, exchange]

/-- A sharing keeps the tables and the polling. -/
theorem Ulc.RunningBut.of_unshared (h : l.RunningBut gone) (same : l'.unshared = l.unshared) : l'.RunningBut gone where
  table i := by
    rw [← tableOk_unshared, (unshared_eq_iff.mp same).1 i, tableOk_unshared]
    exact h.table i
  polled j polled ne := by
    rw [cfg_of_unshared same]
    exact h.polled j ((polled_of_unshared same j).mp polled) ne

theorem Ulc.Untouched.of_unshared (h : l.Untouched) (same : l'.unshared = l.unshared) : l'.Untouched := by
  obtain ⟨units, rest, exchange⟩ := unshared_eq_iff.mp same
  refine ⟨fun i => ?_, rest.trans h.rest, exchange.trans h.exchange⟩
  have kept : l'.units[i].unshared.untouched = l.units[i].unshared.untouched := by rw [units i]
  exact kept.trans (h.units i)

/-! ### Polls (R127, R128) -/

/-- A message to an enabled unit, the rest of the cycle being enabled. -/
theorem sendAllowance_running {i : Fin 4} (table : ∀ j : Fin 4, l.units[j].tableOk = true)
    (enabled : l.units[i].cfg.enable = true) (rest : ∀ j ∈ l.rest, l.units[j].cfg.enable = true) :
    (l.sendAllowance i).Running where
  table j := by
    by_cases same : j = i
    · subst same
      simpa [Ulc.sendAllowance, Ulc.updUnit] using tableOk_sent _ _ (table j) enabled
    · have kept : (l.sendAllowance i).units[j] = l.units[j] :=
        updUnit_of_ne same (fun u => { u with seq := u.nextSeq, lastSent := some u.allowance }) l
      rw [kept]
      exact table j
  polled j polled _ := by
    rw [(sendAllowance_keeps i j l).1]
    rcases polled with waits | exchange
    · exact rest j waits
    · obtain rfl : i = j := by simpa [Ulc.sendAllowance, Ulc.exchangesWith] using exchange
      exact enabled

/-- The next exchange is with an enabled unit, where those left in the cycle are. -/
theorem nextExchange_running (table : ∀ j : Fin 4, l.units[j].tableOk = true)
    (rest : ∀ j ∈ l.rest, l.units[j].cfg.enable = true) : l.nextExchange.Running := by
  unfold Ulc.nextExchange
  split
  next ended => exact ⟨table, fun j polled _ => by simp [Ulc.Polled, Ulc.exchangesWith, ended] at polled⟩
  next i others next =>
    rw [next] at rest
    exact sendAllowance_running table (rest i (.head _)) fun j waits => rest j (.tail _ waits)

theorem beginCycle_running (now : Nat) (h : l.RunningBut gone) : (l.beginCycle now).Running :=
  nextExchange_running h.table fun _ waits => (List.mem_filter.mp waits).2

theorem stopPolling_running (h : l.Running) : l.stopPolling.Running :=
  ⟨h.table, fun j polled _ => by simp [Ulc.stopPolling, Ulc.Polled, Ulc.exchangesWith] at polled⟩

/-- Once the unit has left the cycle, only enabled units are polled (R127). -/
theorem dropFromCycle_running {i : Fin 4} (h : l.RunningBut (some i)) : (l.dropFromCycle i).Running := by
  have others : ∀ j ∈ l.rest.filter (· ≠ i), l.units[j].cfg.enable = true := by
    intro j waits
    obtain ⟨mem, ne⟩ := List.mem_filter.mp waits
    exact h.polled j (.inl mem) (by simpa using ne)
  unfold Ulc.dropFromCycle
  dsimp only
  split_ifs with exchange
  · exact nextExchange_running h.table others
  · refine ⟨h.table, fun j polled _ => ?_⟩
    rcases polled with waits | busy
    · exact others j waits
    · refine h.polled j (.inr busy) fun same => exchange ?_
      rwa [← Option.some.inj same]

/-- An update of one unit that keeps its table, and its link enable where it is polled. -/
theorem updUnit_running {i : Fin 4} {f : UnitEntry → UnitEntry} (h : l.Running)
    (table : (f l.units[i]).tableOk = true)
    (enable : some i ≠ gone → l.units[i].cfg.enable = true → (f l.units[i]).cfg.enable = true) :
    (l.updUnit i f).RunningBut gone where
  table j := by
    by_cases same : j = i
    · rw [same, updUnit_self]
      exact table
    · rw [updUnit_of_ne same]
      exact h.table j
  polled j polled ne := by
    have enabled : l.units[j].cfg.enable = true := h.enabled polled
    by_cases same : j = i
    · subst same
      rw [updUnit_self]
      exact enable ne enabled
    · rw [updUnit_of_ne same]
      exact enabled

theorem establish_running (h : l.Untouched) : l.establish.Running where
  table i := by simpa [Ulc.establish] using tableOk_established (h.units i)
  polled j polled _ := by
    have idle : ¬l.establish.Polled j := by simp [Ulc.establish, Ulc.Polled, Ulc.exchangesWith, h.rest, h.exchange]
    exact absurd polled idle

end Running

end Sys2Proof.Machine
end

section
/-! PROOFS. The unit states, continued: their soundness in a state, before and after recovery has established the running
state, and every command and step. -/
namespace Sys2Proof.Machine
open Sys2Proof.Claim

/-! ### Soundness in a state (R141) -/

/-- The tables hold and only enabled units are polled, once recovery is done; until then, in STARTING, every unit is
untouched and none is polled. -/
inductive State.UnitsSound (s : State) : Prop
  | running (done : s.sup.stage = .done) (running : s.ulc.Running)
  | recovering (early : s.sup.stage ≠ .done) (starting : s.sup.supply = .starting) (untouched : s.ulc.Untouched)

theorem unitsOk_iff (s : State) : s.unitsOk = true ↔ s.UnitsSound := by
  unfold State.unitsOk
  split_ifs with done
  · rw [running_iff]
    refine ⟨.running done, ?_⟩
    rintro (⟨-, running⟩ | ⟨early, -, -⟩)
    · exact running
    · exact absurd done early
  · simp only [Bool.and_eq_true, beq_iff_eq, List.isEmpty_iff, all_units_iff]
    constructor
    · rintro ⟨⟨⟨starting, exchange⟩, rest⟩, units⟩
      exact .recovering done starting ⟨units, rest, exchange⟩
    · rintro (⟨h, -⟩ | ⟨-, starting, untouched⟩)
      · exact absurd h done
      · exact ⟨⟨⟨starting, untouched.exchange⟩, untouched.rest⟩, untouched.units⟩

section
variable {s t : State}

/-- A change at the same stage that shares at most. -/
theorem State.UnitsSound.of_stage (S : s.UnitsSound) (units : t.ulc.unshared = s.ulc.unshared)
    (stage : t.sup.stage = s.sup.stage) (supply : t.sup.supply = s.sup.supply) : t.UnitsSound := by
  cases S with
  | running done running => exact .running (stage.trans done) (running.of_unshared units)
  | recovering early starting untouched =>
    exact .recovering (stage ▸ early) (supply.trans starting) (untouched.of_unshared units)

theorem State.UnitsSound.of_same (S : s.UnitsSound) (units : t.ulc.unshared = s.ulc.unshared) (sup : t.sup = s.sup) :
    t.UnitsSound := S.of_stage units (by rw [sup]) (by rw [sup])

/-- Outside STARTING recovery is done. -/
theorem State.UnitsSound.done (S : s.UnitsSound) (h : s.sup.supply ≠ .starting) : s.sup.stage = .done := by
  cases S with
  | running done _ => exact done
  | recovering _ starting _ => exact absurd starting h

theorem State.UnitsSound.isRunning (S : s.UnitsSound) (done : s.sup.stage = .done) : s.ulc.Running := by
  cases S with
  | running _ running => exact running
  | recovering early _ _ => exact absurd done early

theorem State.UnitsSound.isUntouched (S : s.UnitsSound) (early : s.sup.stage ≠ .done) :
    s.sup.supply = .starting ∧ s.ulc.Untouched := by
  cases S with
  | running done _ => exact absurd done early
  | recovering _ starting untouched => exact ⟨starting, untouched⟩

/-- While units are polled, recovery is done. -/
theorem State.UnitsSound.done_of_exchange (S : s.UnitsSound) (h : s.ulc.exchange ≠ .none) : s.sup.stage = .done := by
  cases S with
  | running done _ => exact done
  | recovering _ _ untouched => exact absurd untouched.exchange h

/-! ### The poll cycle (R127 to R132) -/

theorem State.UnitsSound.pollDue (S : s.UnitsSound) : (pollDue s).UnitsSound := by
  unfold Machine.pollDue
  split_ifs with due
  · have done := S.done (by simp [due.1])
    exact .running (by simpa using done) (beginCycle_running _ (S.isRunning done))
  · exact S

theorem State.UnitsSound.allowanceOut (S : s.UnitsSound) : (allowanceOut s).UnitsSound := by
  unfold Machine.allowanceOut
  split
  next m sending =>
    have done := S.done_of_exchange (by simp [sending])
    have running := S.isRunning done
    refine .running done ⟨running.table, fun j polled _ => running.enabled ?_⟩
    simpa [Ulc.Polled, Ulc.exchangesWith, sending] using polled
  next => exact S

/-- The end of an exchange keeps the tables, where the update of the unit keeps its table and configuration. -/
theorem endExchange_running {i : Fin 4} {f : UnitEntry → UnitEntry} (running : s.ulc.Running)
    (table : (f s.ulc.units[i]).tableOk = true) (cfg : (f s.ulc.units[i]).cfg = s.ulc.units[i].cfg) :
    (endExchange i f s).ulc.Running := by
  have told : (exchangeTold i f s).ulc.Running := by
    rw [(exchangeTold_frame i f s).1]
    exact updUnit_running running table fun _ enabled => by rw [cfg]; exact enabled
  have shared : (shareIfChanged s.ulc (exchangeTold i f s)).ulc.Running := told.of_unshared (by simp)
  rw [endExchange_eq]
  exact nextExchange_running shared.table fun j waits => shared.enabled (.inl waits)

theorem State.UnitsSound.endExchange_missed (S : s.UnitsSound) (done : s.sup.stage = .done) (i : Fin 4) :
    (endExchange i UnitEntry.missed s).UnitsSound :=
  .running (by simpa using done)
    (endExchange_running (S.isRunning done) (tableOk_missed ((S.isRunning done).table i)) (missed_cfg _))

theorem State.UnitsSound.endExchange_reported (S : s.UnitsSound) (done : s.sup.stage = .done) {i : Fin 4} {r : Report}
    (sent : Byte) (polled : s.ulc.Polled i) (output : r.output ≤ 30000) :
    (endExchange i (UnitEntry.reported r sent) s).UnitsSound := by
  have running := S.isRunning done
  have table := tableOk_reported sent (running.table i) (running.enabled polled) output
  exact .running (by simpa using done) (endExchange_running running table rfl)

theorem State.UnitsSound.replyChars (S : s.UnitsSound) (l : List RxChar) : (replyChars l s).UnitsSound := by
  unfold Machine.replyChars
  split
  next m closes got window =>
    have done := S.done_of_exchange (by simp [window])
    have polled : s.ulc.Polled m.unit := .inr (by simp [Ulc.exchangesWith, window])
    dsimp only
    split_ifs
    · unfold judgeReply
      split
      next r valid => exact S.endExchange_reported done _ polled (parseReport_output valid)
      next => exact S.endExchange_missed done _
    · have running := S.isRunning done
      refine .running done ⟨running.table, fun j polled _ => running.enabled ?_⟩
      simpa [Ulc.Polled, Ulc.exchangesWith, window] using polled
  next => exact S

theorem State.UnitsSound.windowCloses (S : s.UnitsSound) : (windowCloses s).UnitsSound := by
  unfold Machine.windowCloses
  split
  next m closes got window =>
    have done := S.done_of_exchange (by simp [window])
    exact State.UnitsSound.endExchange_missed (S.of_same (by simp) (by simp)) (by simpa using done) _
  next => exact S

/-! ### The requests on the units (R123 to R127, R131) -/

theorem setEnable_enable (on : Bool) (u : UnitEntry) : (u.setEnable on).cfg.enable = on := by
  unfold UnitEntry.setEnable
  split_ifs with same enabled
  · exact same.symm
  · exact enabled.symm
  · simpa using enabled

theorem State.UnitsSound.applyUnitConfig (S : s.UnitsSound) (done : s.sup.stage = .done) (i : Fin 4)
    (enable : Option Bool) (slot : Option Nat) (maskOff : Option Bool) :
    (applyUnitConfig i enable slot maskOff s).UnitsSound := by
  refine .running (by simpa using done) ?_
  have running := S.isRunning done
  unfold Machine.applyUnitConfig
  dsimp only
  set on := enable.getD s.ulc.units[i].cfg.enable with hon
  set f : UnitEntry → UnitEntry := fun u => (u.setEnable on).setConfig slot maskOff with hf
  have table : (f s.ulc.units[i]).tableOk = true :=
    (tableOk_setConfig slot maskOff).trans (tableOk_setEnable on (running.table i))
  have enable_eq : (f s.ulc.units[i]).cfg.enable = on := setEnable_enable on _
  split_ifs with changed enabled
  · have moved : (s.ulc.updUnit i f).Running :=
      updUnit_running running table fun _ _ => by rw [enable_eq]; exact enabled
    exact moved.of_unshared (by simp)
  · have moved : (s.ulc.updUnit i f).RunningBut (some i) := updUnit_running running table fun ne => absurd rfl ne
    rcases eitherIf_cases (s.ulc.dropPolls i) (shareAnyway s.ulc) (dropUnit i)
      (raise .unit { s with ulc := s.ulc.updUnit i f }) with h | h | h <;> rw [h]
    · exact dropFromCycle_running (moved.of_unshared (by simp))
    · exact dropFromCycle_running (moved.of_unshared (by simp))
    · exact (dropFromCycle_running moved).of_unshared (by simp)
  all_goals
    have moved : (s.ulc.updUnit i f).Running := by
      refine updUnit_running running table fun _ enabled => ?_
      rw [enable_eq, not_not.mp changed]
      exact enabled
    exact moved.of_unshared (by simp)

theorem State.UnitsSound.applyStandby (S : s.UnitsSound) (done : s.sup.stage = .done) (i : Fin 4) (b : Bool) :
    (applyStandby i b s).UnitsSound := by
  refine .running (by simpa using done) ?_
  have running := S.isRunning done
  have moved : (s.ulc.updUnit i fun u => { u with cfg := { u.cfg with standby := b } }).Running :=
    updUnit_running running (running.table i) fun _ enabled => enabled
  unfold Machine.applyStandby
  dsimp only
  split_ifs
  · exact moved.of_unshared (by simp)
  · exact moved

@[simp] theorem applyWeights_unshared (w : Vector (Option Nat) 4) (s : State) :
    (applyWeights w s).ulc.unshared = s.ulc.unshared := by
  unfold applyWeights
  dsimp only
  split_ifs
  · exact share_unshared _
  · rfl

theorem State.UnitsSound.setting (S : s.UnitsSound) : (setting s).UnitsSound := S.of_same (by simp) (by simp)

theorem State.UnitsSound.ownSetUnitConfig (S : s.UnitsSound) (done : s.sup.stage = .done) (unit : Nat)
    (enable slot maskOff : Option Nat) : (ownSetUnitConfig unit enable slot maskOff s).1.UnitsSound := by
  unfold Machine.ownSetUnitConfig
  dsimp only
  split_ifs
  · exact S
  · exact S
  · exact S
  · exact S
  · exact (S.applyUnitConfig done _ _ _ _).setting
  · exact S

theorem State.UnitsSound.ownSetUnitStandby (S : s.UnitsSound) (done : s.sup.stage = .done) (unit : Nat)
    (standby : Option Nat) : (ownSetUnitStandby unit standby s).1.UnitsSound := by
  unfold Machine.ownSetUnitStandby
  split_ifs
  · split
    · exact S
    · split
      · exact (S.applyStandby done _ _).setting
      · exact S
  · exact S

theorem State.UnitsSound.ownSetProfileWeights (S : s.UnitsSound) (w : Vector (Option Nat) 4) :
    (ownSetProfileWeights w s).1.UnitsSound := by
  unfold Machine.ownSetProfileWeights
  dsimp only
  split_ifs
  · exact S
  · exact State.UnitsSound.setting (S.of_same (by simp) (by simp))

/-- Every owner keeps the unit states, once recovery is done. -/
theorem State.UnitsSound.serve (S : s.UnitsSound) (done : s.sup.stage = .done) (p : Port) (q : Request) :
    (serve p q s).1.UnitsSound := by
  cases q with
  | setUnitConfig u e slot m => exact S.ownSetUnitConfig done u e slot m
  | setUnitStandby u r => exact S.ownSetUnitStandby done u r
  | setProfileWeights w => exact S.ownSetProfileWeights w
  | restart => exact S.of_stage (by simp [Machine.serve]) (ownRestart_stage s).1 (ownRestart_stage s).2
  | _ => exact S.of_same (by simp [Machine.serve]) (by simp [Machine.serve])

end

theorem unitsSound_keptByOwners : KeptByOwners State.UnitsSound where
  port _ _ S := S.of_same (by simp) (by simp)
  serve p q run S := S.serve (S.done (by simp [run])) p q

section
variable {s : State}

/-! ### Resets and the end of a command (R141, R156, R170, R171) -/

theorem resetWith_unitsSound (utc subMs : Nat) (valid : Bool) (s : State) : (resetWith utc subMs valid s).UnitsSound := by
  refine .recovering (fun h => by cases h) rfl ⟨fun i => ?_, rfl, rfl⟩
  simp [resetWith, State.afterReset, Ulc.reset, UnitEntry.reset, untouched_iff]

theorem resetEngine_unitsSound (s : State) : (resetEngine s).UnitsSound := resetWith_unitsSound _ _ _ s

theorem powerOn_unitsSound (s : State) : (powerOn s).UnitsSound := by
  unfold powerOn
  split_ifs
  · exact resetEngine_unitsSound s
  · exact resetWith_unitsSound _ _ _ s

theorem State.UnitsSound.finish (S : s.UnitsSound) : (finish s).UnitsSound := by
  have reset : (if restartDue s then resetEngine s else s).UnitsSound := by
    split_ifs
    · exact resetEngine_unitsSound s
    · exact S
  have arbitrated : (arbitrate (if restartDue s then resetEngine s else s)).UnitsSound :=
    reset.of_same (by simp) (by simp)
  exact arbitrated.of_stage (by simp [Machine.finish]) (withdrawLost_stage _).1 (withdrawLost_stage _).2

theorem State.UnitsSound.command (S : s.UnitsSound) {f : State → State} (h : (f s).UnitsSound) :
    (command f s).UnitsSound := by
  unfold Machine.command
  split_ifs
  · exact h.finish
  · exact S

/-! ### Changes of the supply state (R133, R165 to R169) -/

theorem State.UnitsSound.setSupply (S : s.UnitsSound) (u : Supply) (done : s.sup.stage = .done) :
    (setSupply u s).UnitsSound := .running done (S.isRunning done)

theorem State.UnitsSound.enterDown (S : s.UnitsSound) (done : s.sup.stage = .done) : (enterDown s).UnitsSound :=
  .running done (S.isRunning done)

theorem State.UnitsSound.enterWarning (S : s.UnitsSound) (done : s.sup.stage = .done) :
    (enterWarning s).UnitsSound := by
  refine .running (by simpa [Machine.enterWarning, Machine.setSupply] using done) ?_
  simpa [Machine.enterWarning, Machine.setSupply] using stopPolling_running (S.isRunning done)

/-- Polling begins anew, whatever comes first at the entry (R127, R133). -/
theorem State.UnitsSound.enterRun (S : s.UnitsSound) (done : s.sup.stage = .done) : (enterRun s).UnitsSound := by
  refine (eitherIf_keeps (P := fun t => t.UnitsSound ∧ t.sup.stage = .done) _ ?_
    (fun T => ⟨T.1.of_same rfl rfl, T.2⟩) (fun t T => ?_) fun _ T => ?_).1
  · exact ⟨.running done (S.isRunning done), done⟩
  · exact ⟨.running T.2 (beginCycle_running _ (T.1.isRunning T.2)), T.2⟩
  · exact ⟨T.1.of_same (by simp) (by simp), by simpa using T.2⟩

theorem State.UnitsSound.rideThrough (S : s.UnitsSound) (done : s.sup.stage = .done) : (rideThrough s).UnitsSound :=
  State.UnitsSound.enterRun (S.of_stage (by simp) (by simp) (by simp)) (by simpa using done)

theorem State.UnitsSound.endSequence (S : s.UnitsSound) (done : s.sup.stage = .done) :
    (endSequence s).UnitsSound := by
  unfold Machine.endSequence
  split_ifs
  · exact resetEngine_unitsSound s
  · exact S.enterDown done
  · exact S.rideThrough done

theorem State.UnitsSound.mainsWarns (S : s.UnitsSound) : (mainsWarns s).UnitsSound := by
  cases supply : s.sup.supply with
  | run =>
    rw [mainsWarns_run supply]
    exact State.UnitsSound.enterWarning (S.of_stage rfl rfl rfl) (S.done (by simp [supply]))
  | down =>
    rw [mainsWarns_down supply]
    exact S.of_stage rfl rfl rfl
  | starting | warning =>
    rw [mainsWarns_level (by simp [supply])]
    exact S.of_stage rfl rfl rfl

theorem State.UnitsSound.mainsClears (S : s.UnitsSound) : (mainsClears s).UnitsSound := by
  unfold Machine.mainsClears
  dsimp only
  split_ifs <;> exact S.of_stage rfl rfl rfl

theorem State.UnitsSound.mainsLevel (S : s.UnitsSound) (level : Bool) {f : State → State} (h : (f s).UnitsSound) :
    (mainsLevel level f s).UnitsSound := by
  unfold Machine.mainsLevel
  split_ifs
  · exact S
  · exact h.finish
  · exact S.of_stage rfl rfl rfl

theorem State.UnitsSound.supplySettles (S : s.UnitsSound) : (supplySettles s).UnitsSound := by
  unfold Machine.supplySettles
  split
  next t down _ => exact State.UnitsSound.rideThrough (S.of_same rfl rfl) (S.done (by simp [down]))
  · exact S

/-! ### Recovery (R141, R172 to R179) -/

/-- Recovery loads the configurations, and no unit is touched yet. -/
theorem loadCheckpoint_untouched (c : Checkpoint) (h : s.ulc.Untouched) : (loadCheckpoint c s).ulc.Untouched := by
  refine ⟨fun i => ?_, h.rest, h.exchange⟩
  have loaded : (loadCheckpoint c s).ulc.units[i] = { s.ulc.units[i] with cfg := c.units[i] } := by
    simp [loadCheckpoint]
  rw [loaded]
  exact h.units i

theorem State.UnitsSound.scanRing (S : s.UnitsSound) (early : s.sup.stage ≠ .done) : (scanRing s).UnitsSound := by
  obtain ⟨starting, untouched⟩ := S.isUntouched early
  unfold Machine.scanRing
  dsimp only
  split
  · exact .recovering (by simp) (by simp [starting]) (loadCheckpoint_untouched _ untouched)
  · split_ifs
    · exact .recovering (by simp) (by simp [starting]) untouched
    · exact .recovering (by simp) (by simp [starting]) untouched

theorem State.UnitsSound.scanLog (S : s.UnitsSound) (early : s.sup.stage ≠ .done) : (scanLog s).UnitsSound := by
  obtain ⟨starting, untouched⟩ := S.isUntouched early
  exact .recovering (by simp [Machine.scanLog]) (by simp [Machine.scanLog, starting]) (by simpa using untouched)

theorem State.UnitsSound.leaveStarting (S : s.UnitsSound) (done : s.sup.stage = .done) :
    (leaveStarting s).UnitsSound := by
  unfold Machine.leaveStarting
  split_ifs
  · exact (S.setSupply .warning done).of_same (by simp) (by simp)
  · exact S.enterDown done
  · exact S.enterRun done

/-- Stage 8 makes the enabled units PROBING, whatever recovery has loaded. -/
theorem State.UnitsSound.loadCalendars (S : s.UnitsSound) (early : s.sup.stage ≠ .done) :
    (loadCalendars s).UnitsSound := by
  obtain ⟨-, untouched⟩ := S.isUntouched early
  unfold Machine.loadCalendars
  set u := foldActive _ with hu
  have ulc : u.ulc = s.ulc := by simp [hu]
  have done : (establish u).sup.stage = .done := by simp [hu]
  refine State.UnitsSound.leaveStarting (.running done ?_) done
  have running : u.ulc.establish.Running := establish_running (ulc ▸ untouched)
  exact running.of_unshared (by simp [establish])

theorem State.UnitsSound.atStage (S : s.UnitsSound) {g : Stage} {f : State → State}
    (h : s.sup.stage = g → (f s).UnitsSound) : (atStage g f s).UnitsSound := by
  unfold Machine.atStage
  split_ifs with due
  · exact h due.2
  · exact S

/-! ### Every command -/

/-- A command that carries no request keeps the unit states. -/
theorem State.UnitsSound.exec_event (S : s.UnitsSound) {i : Instr} (event : i.request = none) :
    ∃ t, exec i s = .next t ∧ t.UnitsSound := by
  have same {f : State → State} (units : (f s).ulc.unshared = s.ulc.unshared) (sup : (f s).sup = s.sup) :
      (Machine.command f s).UnitsSound := S.command (S.of_same units sup)
  cases i with
  | phaseFrame run => exact ⟨_, rfl, same (by simp) (by simp)⟩
  | silence500 => exact ⟨_, rfl, same (by simp) (by simp)⟩
  | silence2000 => exact ⟨_, rfl, same (by simp) (by simp)⟩
  | secondTick =>
    refine ⟨_, rfl, ?_⟩
    split_ifs
    · exact State.UnitsSound.finish (S.of_same (by simp) (by simp))
    · exact S.of_same (by simp) (by simp)
  | backupDomainLoss => exact ⟨_, rfl, S.of_same (by simp) (by simp)⟩
  | overrideLineLevelChange line level => exact ⟨_, rfl, S.of_same (by simp) (by simp)⟩
  | overrideDebounceExpiry line => exact ⟨_, rfl, same (by simp) (by simp)⟩
  | mainsWarnAssert => exact ⟨_, rfl, S.mainsLevel true S.mainsWarns⟩
  | mainsWarnDeassert => exact ⟨_, rfl, S.mainsLevel false S.mainsClears⟩
  | supplyDebounceExpiry => exact ⟨_, rfl, S.command S.supplySettles⟩
  | writeSequenceEnd =>
    refine ⟨_, rfl, S.command ?_⟩
    split_ifs with ended
    · exact S.endSequence (S.done (by simp [ended.1]))
    · exact S
  | powerOnReset => exact ⟨_, rfl, powerOn_unitsSound s⟩
  | resetLine => exact ⟨_, rfl, S.command (resetEngine_unitsSound s)⟩
  | mainSupplyLoss =>
    refine ⟨_, rfl, ?_⟩
    split_ifs
    · exact (resetEngine_unitsSound s).of_stage rfl rfl rfl
    · exact S
  | recoveryCheckpointScan => exact ⟨_, rfl, S.command (S.atStage fun due => S.scanRing (by simp [due]))⟩
  | recoveryLogScan => exact ⟨_, rfl, S.command (S.atStage fun due => S.scanLog (by simp [due]))⟩
  | recoveryCalendarLoad => exact ⟨_, rfl, S.command (S.atStage fun due => S.loadCalendars (by simp [due]))⟩
  | periodicCheckpointTimer => exact ⟨_, rfl, same (by simp) (by simp)⟩
  | snapshotProgramComplete valid => exact ⟨_, rfl, same (by simp) (by simp)⟩
  | checkpointProgramComplete valid0 valid1 => exact ⟨_, rfl, same (by simp) (by simp)⟩
  | calendarPartProgramComplete valid => exact ⟨_, rfl, same (by simp) (by simp)⟩
  | sectorEraseComplete notBlank => exact ⟨_, rfl, same (by simp) (by simp)⟩
  | eraseSuspend => exact ⟨_, rfl, same (by simp [ite_fields]) (by simp [ite_fields])⟩
  | slotReadComplete decayed =>
    exact ⟨_, rfl, S.command (S.of_stage (by simp) (readDone_stage _ s).1 (readDone_stage _ s).2)⟩
  | requestFrame port chars => exact ⟨_, rfl, S.command (unitsSound_keptByOwners.receiveAll port chars S)⟩
  | frameLengthOverflow port length => exact ⟨_, rfl, S.command (unitsSound_keptByOwners.receiveAll port _ S)⟩
  | frameStall port => exact ⟨_, rfl, same (by simp) (by simp)⟩
  | ignoreIdleExpiry port => exact ⟨_, rfl, same (by simp) (by simp)⟩
  | responseTransmitComplete port => exact ⟨_, rfl, same (by simp) (by simp)⟩
  | viewExpiry port => exact ⟨_, rfl, same (by simp) (by simp)⟩
  | pollCycleStart => exact ⟨_, rfl, S.command S.pollDue⟩
  | allowanceSent => exact ⟨_, rfl, S.command S.allowanceOut⟩
  | unitReport chars => exact ⟨_, rfl, S.command (S.replyChars chars)⟩
  | replyWindowExpiry => exact ⟨_, rfl, S.command S.windowCloses⟩
  | _ => cases event

/-- Every command keeps the unit states. -/
theorem State.UnitsSound.exec (S : s.UnitsSound) {t : State} {i : Instr} (h : exec i s = .next t) : t.UnitsSound := by
  cases request : i.request with
  | none =>
    obtain ⟨u, executed, sound⟩ := S.exec_event request
    obtain rfl : u = t := Host.Outcome.next.inj (executed.symm.trans h)
    exact sound
  | some r =>
    obtain rfl : Machine.command (Machine.takeRequest r.1 r.2) s = t :=
      Host.Outcome.next.inj ((exec_request request s).symm.trans h)
    exact S.command (unitsSound_keptByOwners.takeRequest r.1 r.2 S)

end

/-- Settles O57: a sharing writes nothing the tables look at; misses, reports and configurations lead from a table to a
table; whoever is polled is enabled when the cycle takes it up and leaves the cycle when disabled; and recovery
establishes the tables. -/
theorem unitStatesKept : Obligations.UnitStatesKept := by
  intro s t sound h
  rw [unitsOk_iff] at sound ⊢
  unfold step at h
  split at h
  next => exact Host.Outcome.next.inj h ▸ sound.of_same (by simp) (by simp)
  next c rest _ => exact (sound.of_same (t := { s with pending := rest }) rfl rfl).exec h

end Sys2Proof.Machine
end

section
/-! PROOFS. The sharing of the site allowance (R135 to R139): shares rounded down against their pool, the lowest-numbered
unit taking the remainder, and every unit's allowance in force. -/
namespace Sys2Proof.Machine
open Sys2Proof.Claim

/-! ### Shares rounded down (R136) -/

section Shares
variable {α : Type} (n total : Nat) (w : α → Nat)

theorem sum_shares_mul_le (as : List α) : (as.map fun a => n * w a / total).sum * total ≤ n * (as.map w).sum := by
  induction as with
  | nil => simp
  | cons a as ih =>
    have share : n * w a / total * total ≤ n * w a := Nat.div_mul_le_self _ _
    simp only [List.map_cons, List.sum_cons, Nat.add_mul, Nat.mul_add]
    omega

/-- What rounding down loses of each share is less than one. -/
theorem mul_sum_lt_shares (pos : 0 < total) (as : List α) :
    n * (as.map w).sum + as.length ≤ ((as.map fun a => n * w a / total).sum + as.length) * total := by
  induction as with
  | nil => simp
  | cons a as ih =>
    have share : n * w a < (n * w a / total + 1) * total := by
      rw [Nat.mul_comm _ total]
      exact Nat.lt_mul_div_succ _ pos
    simp only [List.map_cons, List.sum_cons, List.length_cons, Nat.add_mul, Nat.mul_add] at *
    omega

variable {n total w} {as : List α}

theorem sum_shares_le (pos : 0 < total) (sum : (as.map w).sum = total) :
    (as.map fun a => n * w a / total).sum ≤ n := by
  have h := sum_shares_mul_le n total w as
  rw [sum] at h
  exact Nat.le_of_mul_le_mul_right h pos

theorem lt_sum_shares_add_length (pos : 0 < total) (sum : (as.map w).sum = total) (some : as ≠ []) :
    n < (as.map fun a => n * w a / total).sum + as.length := by
  have h := mul_sum_lt_shares n total w pos as
  have length : 0 < as.length := List.length_pos_iff.mpr some
  rw [sum] at h
  exact Nat.lt_of_mul_lt_mul_right (a := total) (by omega)

end Shares

/-! ### The active set and the pool (R135, R136) -/

section Sharing
variable {l : Ulc}

theorem activeSet_nodup (l : Ulc) : l.activeSet.Nodup := List.Nodup.filter _ (by decide)

theorem mem_unitNumbers (i : Fin 4) : i ∈ unitNumbers := by
  revert i
  decide

theorem mem_activeSet_iff {i : Fin 4} : i ∈ l.activeSet ↔ l.units[i].isActive = true := by
  rw [Ulc.activeSet, List.mem_filter]
  exact and_iff_right (mem_unitNumbers i)

theorem isActive_iff (u : UnitEntry) :
    u.isActive = true ↔ u.cfg.enable = true ∧ u.link = .online ∧ u.cfg.effStandby = false ∧
      ∀ r, u.last = some r → r.status ≠ .fault := by
  have fault : u.reportsFault = false ↔ ∀ r, u.last = some r → r.status ≠ .fault := by
    cases last : u.last <;> simp [UnitEntry.reportsFault, last]
  simp [UnitEntry.isActive, ← fault, and_assoc]

/-- What an OFFLINE unit may still be producing (R136). -/
def UnitEntry.lostOutput (u : UnitEntry) : Nat := if u.cfg.enable = true ∧ u.link = .offline then u.output else 0

theorem offlineOutput_eq (l : Ulc) :
    l.offlineOutput = l.units[0].lostOutput + l.units[1].lostOutput + l.units[2].lostOutput + l.units[3].lostOutput := by
  have sum (p : Fin 4 → Bool) (f : Fin 4 → Nat) : ((unitNumbers.filter p).map f).sum =
      (if p 0 then f 0 else 0) + (if p 1 then f 1 else 0) + (if p 2 then f 2 else 0) + if p 3 then f 3 else 0 := by
    simp only [List.filter_cons, List.filter_nil]
    split_ifs <;> simp [Nat.add_assoc]
  simp [Ulc.offlineOutput, sum, UnitEntry.lostOutput]

theorem totalWeight_pos (active : l.activeSet ≠ []) (weights : ∀ i : Fin 4, 1 ≤ l.weights[i]) : 0 < l.totalWeight := by
  obtain ⟨i, rest, h⟩ := List.exists_cons_of_ne_nil active
  have weight : 1 ≤ l.weight i := weights _
  simp only [Ulc.totalWeight, h, List.map_cons, List.sum_cons]
  omega

theorem sum_rawShare_le (active : l.activeSet ≠ []) (weights : ∀ i : Fin 4, 1 ≤ l.weights[i]) :
    (l.activeSet.map l.rawShare).sum ≤ l.sharePool :=
  sum_shares_le (totalWeight_pos active weights) rfl

/-- The remainder is smaller than the number of active units. -/
theorem remainder_lt (active : l.activeSet ≠ []) (weights : ∀ i : Fin 4, 1 ≤ l.weights[i]) :
    l.remainder < l.activeSet.length := by
  have h : l.sharePool < (l.activeSet.map l.rawShare).sum + l.activeSet.length :=
    lt_sum_shares_add_length (totalWeight_pos active weights) rfl active
  have le := sum_rawShare_le active weights
  simp only [Ulc.remainder]
  omega

/-- The lowest-numbered active unit alone takes the remainder. -/
theorem sum_share (active : l.activeSet ≠ []) :
    (l.activeSet.map l.share).sum = (l.activeSet.map l.rawShare).sum + l.remainder := by
  obtain ⟨i, rest, h⟩ := List.exists_cons_of_ne_nil active
  have first : i ∉ rest := (List.nodup_cons.mp (h ▸ activeSet_nodup l)).1
  have others : rest.map l.share = rest.map l.rawShare := by
    refine List.map_congr_left fun j mem => ?_
    have ne : i ≠ j := fun same => first (same ▸ mem)
    simp [Ulc.share, h, ne]
  have lowest : l.share i = l.rawShare i + l.remainder := by simp [Ulc.share, h]
  simp only [h, List.map_cons, List.sum_cons, others, lowest]
  omega

/-! ### The allowances in force (R138, R139) -/

theorem allowanceFor_disabled {i : Fin 4} (h : l.units[i].cfg.enable = false) : l.allowanceFor i = none := by
  simp only [Ulc.allowanceFor, h]
  rfl

theorem allowanceFor_standby {i : Fin 4} (enabled : l.units[i].cfg.enable = true)
    (standby : l.units[i].cfg.effStandby = true) : l.allowanceFor i = some 0 := by
  simp only [Ulc.allowanceFor, enabled, standby]
  rfl

theorem allowanceFor_free {i : Fin 4} (standby : l.units[i].cfg.effStandby = false) (free : l.curtailed = false) :
    l.allowanceFor i = none := by
  cases enabled : l.units[i].cfg.enable with
  | false => exact allowanceFor_disabled enabled
  | true =>
    simp only [Ulc.allowanceFor, enabled, standby, free]
    rfl

theorem allowanceFor_inactive {i : Fin 4} (enabled : l.units[i].cfg.enable = true) (curtailed : l.curtailed = true)
    (inactive : l.units[i].isActive = false) : l.allowanceFor i = some 0 := by
  cases standby : l.units[i].cfg.effStandby with
  | true => exact allowanceFor_standby enabled standby
  | false =>
    simp only [Ulc.allowanceFor, enabled, standby, curtailed, inactive]
    rfl

theorem allowanceFor_active {i : Fin 4} (curtailed : l.curtailed = true) (active : l.units[i].isActive = true) :
    l.allowanceFor i = some (l.share i) := by
  obtain ⟨enabled, -, standby, -⟩ := (isActive_iff _).mp active
  simp only [Ulc.allowanceFor, enabled, standby, curtailed, active]
  rfl

/-- The share that a sharing gives an active unit (R136). -/
theorem reshare_allowance_active {i : Fin 4} (curtailed : l.curtailed = true) (active : i ∈ l.activeSet) :
    l.reshare.units[i].allowance.getD 0 = l.share i := by
  rw [reshare_units]
  exact congrArg (·.getD 0) (allowanceFor_active curtailed (mem_activeSet_iff.mp active))

end Sharing

theorem sharingSumsToPool : SharingSumsToPool := by
  intro l curtailed active weights lost pool total share
  have lost_eq (i : Fin 4) : lost i = l.units[i].lostOutput := by
    simp only [lost, UnitEntry.lostOutput, UnitEntry.output]
    cases l.units[i].last <;> simp
  have pool_eq : pool = l.sharePool := by
    simp only [pool, lost_eq, Ulc.sharePool, offlineOutput_eq]
    rfl
  have share_eq : ∀ i ∈ l.activeSet, share i = l.share i := fun i mem => reshare_allowance_active curtailed mem
  have raw_eq (i : Fin 4) : pool * l.weight i / total = l.rawShare i := by rw [pool_eq]; rfl
  refine ⟨?_, ?_, fun i mem other => ?_, fun i first => ?_⟩
  · have le := sum_rawShare_le active weights
    rw [List.map_congr_left share_eq, sum_share active, pool_eq, Ulc.remainder]
    omega
  · rw [pool_eq]
    exact if_pos curtailed
  · rw [share_eq i mem, raw_eq, Ulc.share, if_neg other, Nat.add_zero]
  · have lt := remainder_lt active weights
    rw [share_eq i (List.mem_of_head? first), raw_eq, Ulc.share, if_pos first]
    omega

theorem allowancesInForce : AllowancesInForce := by
  intro l i u v
  have unit : v = { u with allowance := l.allowanceFor i } := reshare_units l i
  refine ⟨fun disabled => ?_, fun enabled standby => ?_, fun _ ready free => ?_,
    fun enabled _ curtailed inactive => ?_, fun curtailed active => ?_, ?_, ?_, isActive_iff u⟩
  · rw [unit]
    exact allowanceFor_disabled disabled
  · rw [unit]
    exact allowanceFor_standby enabled standby
  · rw [unit]
    exact allowanceFor_free ready free
  · rw [unit]
    exact allowanceFor_inactive enabled curtailed inactive
  · rw [unit]
    exact allowanceFor_active curtailed active
  · rw [unit]
  · simp [Ulc.reshare]

/-- Settles O35: the shares rounded down leave less than one for each active unit, which the lowest-numbered takes; the
allowances in force by the rows of R138. -/
theorem allowanceSharing : Obligations.AllowanceSharing := ⟨sharingSumsToPool, allowancesInForce⟩

end Sys2Proof.Machine
end

section
/-! PROOFS. The three requests on the units (R123 to R127, R131, R134, R135, R137): what each stores, the sharing that
follows, the cycle's change, and the answers. -/
namespace Sys2Proof.Machine
open Sys2Proof.Claim

/-! ### What neither a sharing nor a poll changes -/

/-- `t` has the configurations and the weights of `s`, its cap settings, and its registers. -/
structure SettingsKept (s t : State) : Prop where
  cfg : ∀ j : Fin 4, t.ulc.units[j].cfg = s.ulc.units[j].cfg
  weights : t.ulc.weights = s.ulc.weights
  caps : t.xcc.cfg = s.xcc.cfg
  reg : t.reg = s.reg

section Kept
variable {s t u : State}

theorem SettingsKept.trans (h : SettingsKept s t) (h' : SettingsKept t u) : SettingsKept s u :=
  ⟨fun j => (h'.cfg j).trans (h.cfg j), h'.weights.trans h.weights, h'.caps.trans h.caps, h'.reg.trans h.reg⟩

theorem SettingsKept.of_ulc (ulc : t.ulc = s.ulc) (xcc : t.xcc = s.xcc) (reg : t.reg = s.reg) : SettingsKept s t :=
  ⟨fun j => by rw [ulc], by rw [ulc], by rw [xcc], reg⟩

theorem share_settingsKept (s : State) : SettingsKept s (share s) :=
  ⟨cfg_of_unshared (share_unshared s), rfl, rfl, rfl⟩

theorem activeSetChanged_settingsKept (s : State) : SettingsKept s (activeSetChanged s) := by
  refine ⟨cfg_of_unshared (activeSetChanged_unshared s), ?_, ?_, by simp⟩
  all_goals
    unfold activeSetChanged
    split_ifs <;> rfl

theorem sharedAgain_settingsKept (u : UnitEntry) (i : Fin 4) (always : Bool) (t : State) :
    SettingsKept t (sharedAgain u i always t) := by
  unfold sharedAgain
  split_ifs
  · exact activeSetChanged_settingsKept t
  · exact share_settingsKept t
  · exact .of_ulc rfl rfl rfl

theorem requestCheckpoint_settingsKept (c : Cause) (s : State) : SettingsKept s (requestCheckpoint c s) :=
  .of_ulc (by simp) (by simp) (by simp)

end Kept

/-! ### Leaving the cycle (R127) -/

theorem going_eq (i : Fin 4) (l : Ulc) : going i l = l.exchangesWith i := by
  cases exchange : l.exchange <;> simp [going, Ulc.exchangesWith, exchange]

theorem dropFromCycle_eq (i : Fin 4) (l : Ulc) : l.dropFromCycle i = leftCycle i l := by
  unfold leftCycle Ulc.dropFromCycle
  rw [going_eq]
  dsimp only
  split_ifs
  · split
    next last =>
      rw [nextExchange_last (l := { l with rest := l.rest.filter (· ≠ i) }) last, last]
    next k rest more => exact nextExchange_next (l := { l with rest := l.rest.filter (· ≠ i) }) more
  · rfl

theorem dropUnit_eq (i : Fin 4) (s : State) : dropUnit i s = { s with ulc := leftCycle i s.ulc } := by
  rw [dropUnit, dropFromCycle_eq]

theorem dropPolls_iff (i : Fin 4) (l : Ulc) : l.dropPolls i = true ↔ going i l = true ∧ ∃ j ∈ l.rest, j ≠ i := by
  simp [Ulc.dropPolls, going_eq]

/-- Leaving the cycle changes no configuration and makes no unit active or inactive. -/
theorem dropFromCycle_keeps (i j : Fin 4) (l : Ulc) :
    (l.dropFromCycle i).units[j].cfg = l.units[j].cfg ∧
      (l.dropFromCycle i).units[j].isActive = l.units[j].isActive := by
  rcases dropFromCycle_cases i l with ⟨k, rest, -, -, h⟩ | ⟨-, -, h⟩ | ⟨-, -, h⟩ <;> rw [h]
  · obtain ⟨cfg, link, last, -⟩ := sendAllowance_keeps k j { l with rest := rest }
    simp only [UnitEntry.isActive, UnitEntry.reportsFault, cfg, link, last, and_self]
  · exact ⟨rfl, rfl⟩
  · exact ⟨rfl, rfl⟩

theorem dropUnit_settingsKept (i : Fin 4) (s : State) : SettingsKept s (dropUnit i s) := by
  refine ⟨fun j => (dropFromCycle_keeps i j s.ulc).1, ?_, rfl, rfl⟩
  rw [dropUnit_ulc]
  rcases dropFromCycle_cases i s.ulc with ⟨k, rest, -, -, h⟩ | ⟨-, -, h⟩ | ⟨-, -, h⟩
  all_goals simp [h]

/-! ### The sharing that a change of one unit brings (R135, R137) -/

/-- Where the other units are as active as before, the active set is the same where the one unit is. -/
theorem activeSet_eq_iff {i : Fin 4} {l l' : Ulc} (others : ∀ j ≠ i, l'.units[j].isActive = l.units[j].isActive) :
    l'.activeSet = l.activeSet ↔ l'.units[i].isActive = l.units[i].isActive := by
  refine ⟨fun same => ?_, fun same => List.filter_congr fun j _ => ?_⟩
  · rw [Bool.eq_iff_iff, ← mem_activeSet_iff, ← mem_activeSet_iff, same]
  · by_cases h : j = i
    · rw [h, same]
    · exact others j h

theorem shareAnyway_eq {i : Fin 4} {before : Ulc} {t : State}
    (others : ∀ j ≠ i, t.ulc.units[j].isActive = before.units[j].isActive) :
    shareAnyway before t = sharedAgain before.units[i] i true t := by
  simp only [shareAnyway, sharedAgain, ne_eq, activeSet_eq_iff others, Bool.true_or, if_true]

section Update
variable (i : Fin 4) (f : UnitEntry → UnitEntry)

theorem updUnit_others (l : Ulc) : ∀ j ≠ i, (l.updUnit i f).units[j].isActive = l.units[j].isActive :=
  fun _ ne => by rw [updUnit_of_ne ne]

theorem shareAnyway_updUnit {s t : State} (ulc : t.ulc = s.ulc.updUnit i f) :
    shareAnyway s.ulc t = sharedAgain s.ulc.units[i] i true t :=
  shareAnyway_eq (by rw [ulc]; exact updUnit_others i f s.ulc)

theorem shareAnyway_dropUnit {s t : State} (ulc : t.ulc = s.ulc.updUnit i f) :
    shareAnyway s.ulc (dropUnit i t) = sharedAgain s.ulc.units[i] i true (dropUnit i t) := by
  refine shareAnyway_eq fun j ne => ?_
  rw [dropUnit_ulc, (dropFromCycle_keeps i j t.ulc).2, ulc]
  exact updUnit_others i f s.ulc j ne

end Update

/-! ### SET_UNIT_CONFIG (R124, R127, R131, R134) -/

/-- A configuration with the fields present taken over. -/
def UnitConfig.updated (enable : Option Bool) (slot : Option Nat) (maskOff : Option Bool) (c : UnitConfig) :
    UnitConfig :=
  { c with
    enable := enable.getD c.enable
    slot := match slot with
      | some n => Fin.ofNat 4 n
      | none => c.slot
    maskOff := maskOff.getD c.maskOff }

theorem UnitConfig.eq_updated {enable : Option Bool} {slot : Option Nat} {maskOff : Option Bool} {c new : UnitConfig}
    (enable_eq : new.enable = enable.getD c.enable) (slot_eq : new.slot = (c.updated enable slot maskOff).slot)
    (standby_eq : new.standby = c.standby) (maskOff_eq : new.maskOff = maskOff.getD c.maskOff) :
    new = c.updated enable slot maskOff := by
  obtain ⟨a, b, d, g⟩ := new
  obtain rfl : a = _ := enable_eq
  obtain rfl : b = _ := slot_eq
  obtain rfl : d = _ := standby_eq
  obtain rfl : g = _ := maskOff_eq
  rfl

/-- A unit with its configuration updated, and what a changed link enable brings (R131). -/
def UnitEntry.configured (enable : Option Bool) (slot : Option Nat) (maskOff : Option Bool) (u : UnitEntry) :
    UnitEntry :=
  (u.setEnable (enable.getD u.cfg.enable)).setConfig slot maskOff

theorem configured_eq (enable : Option Bool) (slot : Option Nat) (maskOff : Option Bool) (u : UnitEntry) :
    let new := u.cfg.updated enable slot maskOff
    u.configured enable slot maskOff =
      if new.enable = u.cfg.enable then { u with cfg := new }
      else if new.enable then { u with cfg := new, link := .probing, miss := 0, last := none }
      else { u with cfg := new, link := .disabled, miss := 0, last := none, lastSent := none, mismatch := 0,
                    notFollowing := false } := by
  unfold UnitEntry.configured UnitEntry.setEnable UnitConfig.updated
  dsimp only
  split_ifs with same on
  · rw [same]
    rfl
  · rw [on]
    rfl
  · rw [Bool.eq_false_iff.mpr on]
    rfl

theorem configured_cfg (enable : Option Bool) (slot : Option Nat) (maskOff : Option Bool) (u : UnitEntry) :
    (u.configured enable slot maskOff).cfg = u.cfg.updated enable slot maskOff := by
  rw [configured_eq]
  split_ifs <;> rfl

section Config
variable {i : Fin 4} {slot : Option Nat} {maskOff : Option Bool} {s : State}

/-- The state with unit `i` configured. -/
def unitConfigured (i : Fin 4) (enable : Option Bool) (slot : Option Nat) (maskOff : Option Bool) (s : State) : State :=
  { s with ulc := s.ulc.updUnit i (UnitEntry.configured enable slot maskOff) }

/-- The same, UNIT raised (R134). -/
def unitToggled (i : Fin 4) (enable : Option Bool) (slot : Option Nat) (maskOff : Option Bool) (s : State) : State :=
  raise .unit (unitConfigured i enable slot maskOff s)

theorem applyUnitConfig_kept {enable : Option Bool}
    (same : enable.getD s.ulc.units[i].cfg.enable = s.ulc.units[i].cfg.enable) :
    applyUnitConfig i enable slot maskOff s =
      sharedAgain s.ulc.units[i] i false (unitConfigured i enable slot maskOff s) := by
  have active := activeSet_eq_iff (updUnit_others i (UnitEntry.configured enable slot maskOff) s.ulc)
  refine (if_neg (not_not.mpr same)).trans ?_
  by_cases changed : (unitConfigured i enable slot maskOff s).ulc.units[i].isActive = s.ulc.units[i].isActive
  · refine (if_neg (not_not.mpr (active.mpr changed))).trans ?_
    refine .trans ?_ (if_neg (not_not.mpr changed)).symm
    simp only [Bool.false_or, Bool.and_eq_true, bne_iff_ne]
    rfl
  · exact (if_pos fun h => changed (active.mp h)).trans (if_pos changed).symm

theorem applyUnitConfig_enables (off : s.ulc.units[i].cfg.enable = false) :
    applyUnitConfig i (some true) slot maskOff s =
      sharedAgain s.ulc.units[i] i true (unitToggled i (some true) slot maskOff s) := by
  rw [← shareAnyway_updUnit i (UnitEntry.configured (some true) slot maskOff)
    (t := unitToggled i (some true) slot maskOff s) rfl]
  refine (if_pos ?_).trans (if_pos rfl)
  rw [off]
  decide

/-- A disable that brings no poll shares, and the unit leaves the cycle. -/
theorem applyUnitConfig_disables (on : s.ulc.units[i].cfg.enable = true) (quiet : s.ulc.dropPolls i = false) :
    applyUnitConfig i (some false) slot maskOff s =
      dropUnit i (sharedAgain s.ulc.units[i] i true (unitToggled i (some false) slot maskOff s)) := by
  rw [← shareAnyway_updUnit i (UnitEntry.configured (some false) slot maskOff)
    (t := unitToggled i (some false) slot maskOff s) rfl]
  exact applyUnitConfig_disable_quiet i slot maskOff s on quiet

/-- A disable that brings the next unit's poll: the sharing and that poll in either order (R137; log 52). -/
theorem applyUnitConfig_disables_polls (on : s.ulc.units[i].cfg.enable = true) (polls : s.ulc.dropPolls i = true) :
    let drawn : State := { unitToggled i (some false) slot maskOff s with draws := s.draws + 1 }
    applyUnitConfig i (some false) slot maskOff s = dropUnit i (sharedAgain s.ulc.units[i] i true drawn) ∨
      applyUnitConfig i (some false) slot maskOff s = sharedAgain s.ulc.units[i] i true (dropUnit i drawn) := by
  intro drawn
  have ulc : drawn.ulc = s.ulc.updUnit i (UnitEntry.configured (some false) slot maskOff) := rfl
  rw [← shareAnyway_updUnit i _ ulc, ← shareAnyway_dropUnit i _ ulc,
    applyUnitConfig_disable_polls i slot maskOff s on polls]
  exact either_cases _ _ _

end Config

section Owner
variable {unit : Nat} {enable slot maskOff : Option Nat} {s : State}

theorem ownSetUnitConfig_unitHigh (high : 4 ≤ unit) : ownSetUnitConfig unit enable slot maskOff s = rangeAt 1 0 s :=
  dif_neg (Nat.not_lt.mpr high)

theorem ownSetUnitConfig_enableBad (h : unit < 4) (bad : ¬optFlagOk enable = true) :
    ownSetUnitConfig unit enable slot maskOff s = rangeAt 2 0 s :=
  (dif_pos h).trans (if_pos (by simpa using bad))

theorem ownSetUnitConfig_slotHigh (h : unit < 4) (ok : optFlagOk enable = true) (high : 3 < slot.getD 0) :
    ownSetUnitConfig unit enable slot maskOff s = rangeAt 3 0 s :=
  (dif_pos h).trans ((if_neg (by simpa using ok)).trans (if_pos high))

theorem ownSetUnitConfig_maskBad (h : unit < 4) (ok : optFlagOk enable = true) (slotOk : slot.getD 0 ≤ 3)
    (bad : ¬optFlagOk maskOff = true) : ownSetUnitConfig unit enable slot maskOff s = rangeAt 4 0 s :=
  (dif_pos h).trans ((if_neg (by simpa using ok)).trans
    ((if_neg (Nat.not_lt.mpr slotOk)).trans (if_pos (by simpa using bad))))

theorem ownSetUnitConfig_read (i : Fin 4) :
    ownSetUnitConfig i none none none s = okWith (.unitConfig s.ulc.units[i].cfg) s :=
  dif_pos i.isLt

theorem ownSetUnitConfig_stores (i : Fin 4) (ok : optFlagOk enable = true) (slotOk : slot.getD 0 ≤ 3)
    (maskOk : optFlagOk maskOff = true) (present : ¬(enable = none ∧ slot = none ∧ maskOff = none)) :
    let t := setting (applyUnitConfig i (optFlag enable) slot (optFlag maskOff) s)
    ownSetUnitConfig i enable slot maskOff s = okWith (.unitConfig t.ulc.units[i].cfg) t := by
  have some_field : ¬(enable.isNone && slot.isNone && maskOff.isNone) = true := by simpa [and_assoc] using present
  refine (dif_pos i.isLt).trans ((if_neg (by simpa using ok)).trans
    ((if_neg (Nat.not_lt.mpr slotOk)).trans ((if_neg (by simpa using maskOk)).trans ?_)))
  dsimp only
  rw [if_neg some_field]

end Owner

/-- A value differs from the default only where it is there. -/
theorem eq_some_of_getD {o : Option Bool} {b d : Bool} (h : o.getD d = b) (ne : d ≠ b) : o = some b := by
  cases o with
  | none => exact absurd h ne
  | some x => exact congrArg some h

theorem setUnitConfig_request {p : Port} {s : State} {unit : Nat} {e slot m : Option Nat} {t : State} {st : Status}
    {a : Answer} (serves : Serves p (.setUnitConfig unit e slot m) s)
    (owner : ownSetUnitConfig unit e slot m (taken p 27 s) = (t, some (st, a))) :
    exec (.setUnitConfig p unit e slot m) s = .next (answered p 27 st a t) :=
  congrArg Host.Outcome.next (command_served serves rfl owner)

/-- SET_UNIT_CONFIG is answered with the configuration `new` and leaves `v`, in which unit `i` alone has it, and the
weights, the cap settings and the registers stand. -/
def ConfigAnswered (p : Port) (i : Fin 4) (e slot m : Option Nat) (new : UnitConfig) (s v : State) : Prop :=
  exec (.setUnitConfig p i e slot m) s = .next (answered p 27 .ok (.unitConfig new) v) ∧ v.ulc.units[i].cfg = new ∧
    (∀ j : Fin 4, j ≠ i → v.ulc.units[j].cfg = s.ulc.units[j].cfg) ∧ v.ulc.weights = s.ulc.weights ∧
    v.xcc.cfg = s.xcc.cfg ∧ v.reg = s.reg

section Answered
variable {p : Port} {i : Fin 4} {e slot m : Option Nat} {s : State}

theorem configAnswered_read (serves : Serves p (.setUnitConfig i none none none) s) :
    ConfigAnswered p i none none none s.ulc.units[i].cfg s (taken p 27 s) := by
  have ulc : (taken p 27 s).ulc = s.ulc := by simp
  refine ⟨setUnitConfig_request serves ((ownSetUnitConfig_read i).trans ?_), by rw [ulc], fun j _ => by rw [ulc],
    by rw [ulc], by simp, by simp⟩
  rw [ulc]
  rfl

end Answered

/-- A SET_UNIT_CONFIG that is served, in range, and carries a field. -/
structure ConfigStores (p : Port) (i : Fin 4) (e slot m : Option Nat) (s : State) : Prop where
  serves : Serves p (.setUnitConfig i e slot m) s
  enableOk : optFlagOk e = true
  slotOk : slot.getD 0 ≤ 3
  maskOk : optFlagOk m = true
  present : ¬(e = none ∧ slot = none ∧ m = none)

section Stores
variable {p : Port} {i : Fin 4} {e slot m : Option Nat} {s : State}

/-- What has been applied is answered, where all that followed the change of unit `i` kept the settings. -/
theorem ConfigStores.answered {t : State} (h : ConfigStores p i e slot m s)
    (applied : applyUnitConfig i (optFlag e) slot (optFlag m) (taken p 27 s) = t)
    (kept : SettingsKept (unitConfigured i (optFlag e) slot (optFlag m) (taken p 27 s)) t) :
    ConfigAnswered p i e slot m (s.ulc.units[i].cfg.updated (optFlag e) slot (optFlag m)) s
      (requestCheckpoint .config t) := by
  have ulc : (taken p 27 s).ulc = s.ulc := by simp
  obtain ⟨cfg, weights, caps, reg⟩ := kept.trans (requestCheckpoint_settingsKept .config t)
  have new : (requestCheckpoint .config t).ulc.units[i].cfg =
      s.ulc.units[i].cfg.updated (optFlag e) slot (optFlag m) := by
    rw [cfg i, unitConfigured, updUnit_self, configured_cfg, ulc]
  have stored := ownSetUnitConfig_stores (s := taken p 27 s) i h.enableOk h.slotOk h.maskOk h.present
  refine ⟨setUnitConfig_request h.serves (stored.trans ?_), new, fun j ne => ?_, ?_, ?_, ?_⟩
  · rw [applied, setting, new]
    rfl
  · rw [cfg j, unitConfigured, updUnit_of_ne ne, ulc]
  · rw [weights, unitConfigured, ulc]
    rfl
  · rw [caps]
    simp [unitConfigured]
  · rw [reg]
    simp [unitConfigured]

theorem ConfigStores.keeps_enable (h : ConfigStores p i e slot m s)
    (same : (optFlag e).getD s.ulc.units[i].cfg.enable = s.ulc.units[i].cfg.enable) :
    ConfigAnswered p i e slot m (s.ulc.units[i].cfg.updated (optFlag e) slot (optFlag m)) s
      (requestCheckpoint .config (sharedAgain s.ulc.units[i] i false
        (unitConfigured i (optFlag e) slot (optFlag m) (taken p 27 s)))) := by
  have ulc : (taken p 27 s).ulc = s.ulc := by simp
  refine h.answered ?_ (sharedAgain_settingsKept _ _ _ _)
  rw [applyUnitConfig_kept, ulc]
  rwa [ulc]

theorem unitToggled_settingsKept (enable : Option Bool) (maskOff : Option Bool) (t : State) :
    SettingsKept (unitConfigured i enable slot maskOff t) (unitToggled i enable slot maskOff t) :=
  .of_ulc rfl rfl rfl

theorem ConfigStores.enables (h : ConfigStores p i e slot m s) (off : s.ulc.units[i].cfg.enable = false)
    (on : optFlag e = some true) :
    ConfigAnswered p i e slot m (s.ulc.units[i].cfg.updated (optFlag e) slot (optFlag m)) s
      (requestCheckpoint .config (sharedAgain s.ulc.units[i] i true
        (unitToggled i (optFlag e) slot (optFlag m) (taken p 27 s)))) := by
  have ulc : (taken p 27 s).ulc = s.ulc := by simp
  refine h.answered ?_ ((unitToggled_settingsKept _ _ _).trans (sharedAgain_settingsKept _ _ _ _))
  rw [on, applyUnitConfig_enables (by rwa [ulc]), ulc]

theorem ConfigStores.disables (h : ConfigStores p i e slot m s) (on : s.ulc.units[i].cfg.enable = true)
    (off : optFlag e = some false) (quiet : s.ulc.dropPolls i = false) :
    ConfigAnswered p i e slot m (s.ulc.units[i].cfg.updated (optFlag e) slot (optFlag m)) s
      (requestCheckpoint .config (dropUnit i (sharedAgain s.ulc.units[i] i true
        (unitToggled i (optFlag e) slot (optFlag m) (taken p 27 s))))) := by
  have ulc : (taken p 27 s).ulc = s.ulc := by simp
  have shared := (unitToggled_settingsKept (i := i) (slot := slot) (optFlag e) (optFlag m) (taken p 27 s)).trans
    (sharedAgain_settingsKept s.ulc.units[i] i true _)
  refine h.answered ?_ (shared.trans (dropUnit_settingsKept _ _))
  rw [off, applyUnitConfig_disables (by rwa [ulc]) (by rwa [ulc]), ulc]

theorem ConfigStores.disables_polls (h : ConfigStores p i e slot m s) (on : s.ulc.units[i].cfg.enable = true)
    (off : optFlag e = some false) (polls : s.ulc.dropPolls i = true) :
    let drawn : State := { unitToggled i (optFlag e) slot (optFlag m) (taken p 27 s) with draws := s.draws + 1 }
    let outcome (t : State) : Prop :=
      ConfigAnswered p i e slot m (s.ulc.units[i].cfg.updated (optFlag e) slot (optFlag m)) s
        (requestCheckpoint .config t)
    outcome (dropUnit i (sharedAgain s.ulc.units[i] i true drawn)) ∨
      outcome (sharedAgain s.ulc.units[i] i true (dropUnit i drawn)) := by
  intro drawn outcome
  have ulc : (taken p 27 s).ulc = s.ulc := by simp
  have draws : (taken p 27 s).draws = s.draws := by simp
  have kept : SettingsKept (unitConfigured i (optFlag e) slot (optFlag m) (taken p 27 s)) drawn := .of_ulc rfl rfl rfl
  have courses := applyUnitConfig_disables_polls (s := taken p 27 s) (i := i) (slot := slot) (maskOff := optFlag m)
    (by rwa [ulc]) (by rwa [ulc])
  rw [← off, draws, ulc] at courses
  refine courses.imp (fun applied => h.answered applied ?_) fun applied => h.answered applied ?_
  · exact (kept.trans (sharedAgain_settingsKept _ _ _ _)).trans (dropUnit_settingsKept _ _)
  · exact (kept.trans (dropUnit_settingsKept _ _)).trans (sharedAgain_settingsKept _ _ _ _)

end Stores

/-! ### SET_UNIT_STANDBY (R125) -/

/-- A unit with its standby request stored. -/
def UnitEntry.withStandby (b : Bool) (u : UnitEntry) : UnitEntry := { u with cfg := { u.cfg with standby := b } }

/-- The state with unit `i`'s standby request stored. -/
def standbyStored (i : Fin 4) (b : Bool) (s : State) : State :=
  { s with ulc := s.ulc.updUnit i (UnitEntry.withStandby b) }

/-- The request changes the effective standby of a unit that is enabled (R125). -/
def UnitEntry.StandbyChanges (b : Bool) (u : UnitEntry) : Prop :=
  u.cfg.enable = true ∧ (b && !u.cfg.maskOff) ≠ (u.cfg.standby && !u.cfg.maskOff)

section Standby
variable {i : Fin 4} {b : Bool} {s : State}

theorem applyStandby_changes (h : s.ulc.units[i].StandbyChanges b) :
    applyStandby i b s = sharedAgain s.ulc.units[i] i true (standbyStored i b s) := by
  rw [← shareAnyway_updUnit i (UnitEntry.withStandby b) (t := standbyStored i b s) rfl]
  refine if_pos ?_
  rw [updUnit_self]
  exact h

theorem applyStandby_stores (h : ¬s.ulc.units[i].StandbyChanges b) : applyStandby i b s = standbyStored i b s := by
  refine if_neg ?_
  rw [updUnit_self]
  exact h

theorem applyStandby_settingsKept : SettingsKept (standbyStored i b s) (applyStandby i b s) := by
  by_cases h : s.ulc.units[i].StandbyChanges b
  · rw [applyStandby_changes h]
    exact sharedAgain_settingsKept _ _ _ _
  · rw [applyStandby_stores h]
    exact .of_ulc rfl rfl rfl

end Standby

theorem standbyAnswer_eq {i : Fin 4} {c : UnitConfig} {s : State} (h : s.ulc.units[i].cfg = c) :
    standbyAnswer i s = okWith (.standby c.standby c.maskOff (c.standby && !c.maskOff)) s := by
  subst h
  rfl

theorem flagOf_eq {n : Nat} (ok : optFlagOk (some n) = true) : flagOf n = some (n == 1) := by
  have value := optFlag_getD (some n) (!(n == 1)) ok
  exact eq_some_of_getD value (by simp)

section Owner
variable {unit : Nat} {r : Option Nat} {s : State}

theorem ownSetUnitStandby_unitHigh (high : 4 ≤ unit) : ownSetUnitStandby unit r s = rangeAt 1 0 s :=
  dif_neg (Nat.not_lt.mpr high)

theorem ownSetUnitStandby_bad (h : unit < 4) (bad : ¬optFlagOk r = true) :
    ownSetUnitStandby unit r s = rangeAt 2 0 s := by
  cases r with
  | none => exact absurd rfl bad
  | some n =>
    have none : flagOf n = none := by simpa [optFlagOk] using bad
    refine (dif_pos h).trans ?_
    simp only [none]

theorem ownSetUnitStandby_read (i : Fin 4) : ownSetUnitStandby i none s = standbyAnswer i s := dif_pos i.isLt

theorem ownSetUnitStandby_stores (i : Fin 4) {n : Nat} (ok : optFlagOk (some n) = true) :
    ownSetUnitStandby i (some n) s = standbyAnswer i (setting (applyStandby i (n == 1) s)) := by
  refine (dif_pos i.isLt).trans ?_
  simp only [flagOf_eq ok]

theorem setUnitStandby_request {p : Port} {t : State} {st : Status} {a : Answer}
    (serves : Serves p (.setUnitStandby unit r) s) (owner : ownSetUnitStandby unit r (taken p 28 s) = (t, some (st, a))) :
    exec (.setUnitStandby p unit r) s = .next (answered p 28 st a t) :=
  congrArg Host.Outcome.next (command_served serves rfl owner)

end Owner

/-- A standby request that is the one stored changes nothing. -/
theorem standbyStored_same {i : Fin 4} {b : Bool} {s : State} (same : b = s.ulc.units[i].cfg.standby) :
    SettingsKept (standbyStored i b s) s := by
  subst same
  refine ⟨fun j => ?_, rfl, rfl, rfl⟩
  by_cases h : j = i
  · rw [h, standbyStored, updUnit_self]
    rfl
  · rw [standbyStored, updUnit_of_ne h]

/-- What a stored standby request leaves of the settings. -/
theorem standbyStored_settings {p : Port} {i : Fin 4} {b : Bool} {s v : State}
    (kept : SettingsKept (standbyStored i b (taken p 28 s)) v) :
    v.ulc.units[i].cfg = { s.ulc.units[i].cfg with standby := b } ∧
      (∀ j : Fin 4, j ≠ i → v.ulc.units[j].cfg = s.ulc.units[j].cfg) ∧ v.ulc.weights = s.ulc.weights ∧
      v.xcc.cfg = s.xcc.cfg ∧ v.reg = s.reg := by
  have ulc : (taken p 28 s).ulc = s.ulc := by simp
  obtain ⟨cfg, weights, caps, reg⟩ := kept
  refine ⟨?_, fun j ne => ?_, ?_, ?_, ?_⟩
  · rw [cfg i, standbyStored, updUnit_self, ulc]
    rfl
  · rw [cfg j, standbyStored, updUnit_of_ne ne, ulc]
  · rw [weights, standbyStored, ulc]
    rfl
  · rw [caps]
    simp [standbyStored]
  · rw [reg]
    simp [standbyStored]

/-! ### SET_PROFILE_WEIGHTS (R126) -/

/-- The weights with those present brought into 1 to 100 and stored. -/
def Ulc.newWeights (w : Vector (Option Nat) 4) (l : Ulc) : Vector Nat 4 :=
  Vector.ofFn fun i => (optClamp 1 100 w[i]).getD l.weights[i]

/-- The state with the new weights. -/
def weightsStored (w : Vector (Option Nat) 4) (s : State) : State :=
  { s with ulc := { s.ulc with weights := s.ulc.newWeights w } }

/-- The weight of an active unit changes. -/
def Ulc.WeightChanges (w : Vector (Option Nat) 4) (l : Ulc) : Prop :=
  ∃ i : Fin 4, l.units[i].isActive = true ∧ (l.newWeights w)[l.units[i].cfg.slot] ≠ l.weights[l.units[i].cfg.slot]

section Weights
variable {w : Vector (Option Nat) 4} {s : State}

theorem weightChanges_iff :
    (unitNumbers.any fun i => (weightsStored w s).ulc.units[i].isActive &&
      (weightsStored w s).ulc.weight i != s.ulc.weight i) = true ↔ s.ulc.WeightChanges w := by
  simp only [List.any_eq_true, mem_unitNumbers, true_and, Bool.and_eq_true, bne_iff_ne]
  rfl

theorem applyWeights_shares (h : s.ulc.WeightChanges w) : applyWeights w s = share (weightsStored w s) :=
  if_pos (weightChanges_iff.mpr h)

theorem applyWeights_stores (h : ¬s.ulc.WeightChanges w) : applyWeights w s = weightsStored w s :=
  if_neg fun changed => h (weightChanges_iff.mp changed)

theorem applyWeights_weights (w : Vector (Option Nat) 4) (s : State) :
    (applyWeights w s).ulc.weights = s.ulc.newWeights w := by
  by_cases h : s.ulc.WeightChanges w
  · rw [applyWeights_shares h]
    rfl
  · rw [applyWeights_stores h]
    rfl

theorem newWeights_absent {l : Ulc} (absent : ∀ i : Fin 4, w[i] = none) : l.newWeights w = l.weights := by
  ext1 i h
  have none : w[i] = none := absent ⟨i, h⟩
  simp [Ulc.newWeights, none, optClamp]

/-- The weights present that were brought into range. -/
def clampedWeights (w : Vector (Option Nat) 4) : Vector Bool 4 := Vector.ofFn fun i => optClamped 1 100 w[i]

theorem all_isNone_iff (w : Vector (Option Nat) 4) : w.all (·.isNone) = true ↔ ∀ i : Fin 4, w[i] = none := by
  simp [Vector.all_eq_true, Fin.forall_iff]

theorem ownSetProfileWeights_read (absent : ∀ i : Fin 4, w[i] = none) :
    ownSetProfileWeights w s = okWith (.weights (s.ulc.newWeights w) (clampedWeights w)) s := by
  rw [newWeights_absent absent, ownSetProfileWeights, if_pos ((all_isNone_iff w).mpr absent)]
  rfl

theorem ownSetProfileWeights_stores (present : ∃ i : Fin 4, w[i] ≠ none) :
    ownSetProfileWeights w s =
      okWith (.weights (s.ulc.newWeights w) (clampedWeights w)) (setting (applyWeights w s)) := by
  have some_weight : ¬w.all (·.isNone) = true := by
    rw [all_isNone_iff]
    obtain ⟨i, some⟩ := present
    exact fun absent => some (absent i)
  have weights : (setting (applyWeights w s)).ulc.weights = s.ulc.newWeights w := by
    simp [setting, applyWeights_weights]
  rw [ownSetProfileWeights, if_neg some_weight, weights]
  rfl

end Weights

theorem setProfileWeights_request {p : Port} {s : State} {w : Vector (Option Nat) 4} {t : State} {st : Status}
    {a : Answer} (serves : Serves p (.setProfileWeights w) s)
    (owner : ownSetProfileWeights w (taken p 29 s) = (t, some (st, a))) :
    exec (.setProfileWeights p w) s = .next (answered p 29 st a t) :=
  congrArg Host.Outcome.next (command_served serves rfl owner)

/-- Settles O39: each request by its owner's answer; the sharing that a change of one unit brings is that of the units
that become active or cease to be. -/
theorem unitRequests : Obligations.UnitRequests := by
  intro p s flagOk
  have flag {n : Option Nat} : flagOk n ↔ optFlagOk n = true := (optFlagOk_iff n).symm
  refine ⟨fun unit e slot m serves => ?_, ?_, ?_⟩
  · intro range
    refine ⟨fun high => ?_, fun low bad => ?_, fun low ok high => ?_, fun low ok slotOk bad => ?_, ?_⟩
    · exact setUnitConfig_request serves (ownSetUnitConfig_unitHigh high)
    · exact setUnitConfig_request serves (ownSetUnitConfig_enableBad low (bad ∘ flag.mpr))
    · exact setUnitConfig_request serves (ownSetUnitConfig_slotHigh low (flag.mp ok) high)
    · exact setUnitConfig_request serves (ownSetUnitConfig_maskBad low (flag.mp ok) slotOk (bad ∘ flag.mpr))
    · rintro i rfl eFlag slotOk mFlag u new w moved told again leaves polls answers sets
      have eOk := flag.mp eFlag
      have mOk := flag.mp mFlag
      have ulc : (taken p 27 s).ulc = s.ulc := by simp
      have enable : new.enable = (optFlag e).getD u.cfg.enable := (optFlag_getD e u.cfg.enable eOk).symm
      have maskOff : new.maskOff = (optFlag m).getD u.cfg.maskOff := (optFlag_getD m u.cfg.maskOff mOk).symm
      have new_eq : new = u.cfg.updated (optFlag e) slot (optFlag m) := UnitConfig.eq_updated enable rfl rfl maskOff
      have w_eq : w = u.configured (optFlag e) slot (optFlag m) := by rw [configured_eq, ← new_eq]
      have moved_eq : moved = unitConfigured i (optFlag e) slot (optFlag m) (taken p 27 s) := by
        simp only [moved, unitConfigured, Ulc.updUnit, ulc, w_eq]
        rfl
      have leaves_eq (t : State) : leaves t = dropUnit i t := (dropUnit_eq i t).symm
      have answers_eq (v : State) : answers v = ConfigAnswered p i e slot m new s v := rfl
      simp only [sets, answers_eq, again, leaves_eq, told, moved_eq, new_eq]
      refine ⟨?_, fun present => ?_⟩
      · rintro ⟨rfl, rfl, rfl⟩
        exact configAnswered_read serves
      have stores : ConfigStores p i e slot m s := ⟨serves, eOk, slotOk, mOk, present⟩
      have flag_eq {b : Bool} (after : new.enable = b) (before : u.cfg.enable ≠ b) : optFlag e = some b :=
        eq_some_of_getD (enable.symm.trans after) before
      rw [new_eq] at flag_eq
      refine ⟨stores.keeps_enable, fun on off => ?_, fun off on quiet => ?_, fun off on both => ?_⟩
      · exact stores.enables off (flag_eq on (by simp [off]))
      · refine stores.disables on (flag_eq off (by simp [on])) ?_
        rw [Bool.eq_false_iff, ne_eq, dropPolls_iff]
        exact quiet
      · exact stores.disables_polls on (flag_eq off (by simp [on])) ((dropPolls_iff i s.ulc).mpr both)
  · intro unit r serves
    refine ⟨fun high => ?_, fun low bad => ?_, ?_⟩
    · exact setUnitStandby_request serves (ownSetUnitStandby_unitHigh high)
    · exact setUnitStandby_request serves (ownSetUnitStandby_bad low (bad ∘ flag.mpr))
    · rintro i rfl ok
      have ulc : (taken p 28 s).ulc = s.ulc := by simp
      cases r with
      | none =>
        intro u b moved changed v
        have settings := standbyStored_settings (standbyStored_same (i := i) (b := b) (by rw [ulc]))
        refine ⟨setUnitStandby_request serves ((ownSetUnitStandby_read i).trans ?_), settings⟩
        exact standbyAnswer_eq settings.1
      | some n =>
        intro u b moved changed v
        have applied : v = setting (applyStandby i b (taken p 28 s)) := by
          refine (if_neg (by simp)).trans (congrArg (requestCheckpoint .config) ?_)
          have moved_eq : moved = standbyStored i b (taken p 28 s) := by
            simp only [moved, standbyStored, ulc]
            rfl
          split_ifs with h
          · rw [applyStandby_changes (by rw [ulc]; exact h), ulc, moved_eq]
          · rw [applyStandby_stores (by rw [ulc]; exact h), moved_eq]
        have kept := (applyStandby_settingsKept (i := i) (b := b) (s := taken p 28 s)).trans
          (requestCheckpoint_settingsKept .config _)
        have settings := standbyStored_settings (p := p) (s := s) kept
        rw [applied]
        refine ⟨setUnitStandby_request serves ((ownSetUnitStandby_stores i (flag.mp ok)).trans ?_), settings⟩
        exact standbyAnswer_eq settings.1
  · intro w serves new moved changed answer
    have ulc : (taken p 29 s).ulc = s.ulc := by simp
    have answer_eq : answer = .weights ((taken p 29 s).ulc.newWeights w) (clampedWeights w) := by
      refine congrArg₂ Answer.weights (by rw [ulc]; rfl) (congrArg Vector.ofFn (funext fun i => ?_))
      cases weight : w[i] with
      | none => rfl
      | some n =>
        rw [optClamped, Bool.eq_iff_iff, clamped_iff (by decide)]
        exact decide_eq_true_iff
    have moved_eq : moved = weightsStored w (taken p 29 s) := by
      simp only [moved, weightsStored, ulc]
      rfl
    have changed_eq : changed = (taken p 29 s).ulc.WeightChanges w := by
      rw [ulc]
      rfl
    rw [answer_eq, moved_eq, changed_eq]
    refine ⟨fun absent => ?_, fun present shares => ?_, fun present stands => ?_⟩
    · exact setProfileWeights_request serves (ownSetProfileWeights_read absent)
    · rw [← applyWeights_shares shares]
      exact setProfileWeights_request serves (ownSetProfileWeights_stores present)
    · rw [← applyWeights_stores stands]
      exact setProfileWeights_request serves (ownSetProfileWeights_stores present)

end Sys2Proof.Machine
end

section
/-! PROOFS. The messages of the two input links (R1, R2, R129, R130, R199, R201), read back and missed, and where the
pieces of what is sent stand: a piece behind others is found at the sum of their lengths. -/
namespace Sys2Proof.Machine
open Sys2Proof.Claim

/-! ### Good characters -/

theorem map_byte_goodChar (l : List Byte) : (l.map goodChar).map RxChar.byte = l := by
  rw [List.map_map]
  exact List.map_id l

theorem all_stopOk_goodChar (l : List Byte) : (l.map goodChar).all (·.stopOk) = true := by simp

theorem toNat_ofNat_byte {n : Nat} (h : n < 256) : (BitVec.ofNat 8 n).toNat = n := by
  rw [BitVec.toNat_ofNat]
  exact Nat.mod_eq_of_lt h

/-! ### Phase frames (R1, R2, R199) -/

theorem FeStatus.ofCode_lt {n : Nat} {st : FeStatus} (h : FeStatus.ofCode n = some st) : n < 256 := by
  by_contra high
  rw [FeStatus.ofCode_eq_none (by omega)] at h
  cases h

/-- A signed field of 2 bytes is read back. -/
theorem signedOf_leIntBytes {p : Int} (h : -32768 ≤ p ∧ p ≤ 32767) : signedOf 2 (leNat (leIntBytes 2 p)) = p := by
  have fits : (p % (256 ^ 2 : Nat)).toNat < 256 ^ 2 := by omega
  rw [leIntBytes, leNat_leBytes fits]
  exact signedOf_emod (by omega) (by omega)

theorem phaseFrameReadBack : PhaseFrameReadBack := by
  intro seq p1 p2 p3 present n st known range
  set l := phaseBytes seq p1 p2 p3 present n with hl
  have bytes : (l.map goodChar).map RxChar.byte = l := map_byte_goodChar l
  have length : (l.map goodChar).length = 11 := by simp [hl, phaseBytes, leIntBytes]
  have status : (l.getD 8 0).toNat = n := toNat_ofNat_byte (FeStatus.ofCode_lt known)
  have phase1 : int16At l 1 = p1 := signedOf_leIntBytes (range p1 (by simp))
  have phase2 : int16At l 3 = p2 := signedOf_leIntBytes (range p2 (by simp))
  have phase3 : int16At l 5 = p3 := signedOf_leIntBytes (range p3 (by simp))
  rw [parsePhaseFrame, bytes]
  dsimp only
  rw [if_pos ⟨length, all_stopOk_goodChar l, crcOk_withCrc _⟩, status, known, phase1, phase2, phase3]
  rfl

/-! ### Unit replies (R129, R130, R201) -/

theorem UnitStatus.ofCode_eq_none {n : Nat} (h : 2 < n) : UnitStatus.ofCode n = none := by
  obtain ⟨k, rfl⟩ : ∃ k, n = k + 3 := ⟨n - 3, by omega⟩
  rfl

theorem UnitStatus.ofCode_lt {n : Nat} {st : UnitStatus} (h : UnitStatus.ofCode n = some st) : n < 256 := by
  by_contra high
  rw [UnitStatus.ofCode_eq_none (by omega)] at h
  cases h

theorem unitReplyMissed : UnitReplyMissed := by
  intro i chars l bad
  rcases bad with length | ⟨c, mem, stop⟩ | crc | address | status
  · exact if_neg fun ok => length ok.1
  · refine if_neg fun ok => ?_
    have := List.all_eq_true.mp ok.2.1 c mem
    simp [stop] at this
  · exact if_neg fun ok => by simp [l, ok.2.2.1] at crc
  · exact if_neg fun ok => address ok.2.2.2
  · simp only [parseReport, UnitStatus.ofCode_eq_none status, l, ite_self]

theorem unitReplyReadBack : UnitReplyReadBack := by
  intro i j output n st echo fits known chars
  set l := reportBytes i output n echo with hl
  have bytes : chars.map RxChar.byte = l := map_byte_goodChar l
  have length : chars.length = 7 := by simp [chars, reportBytes]
  have address : (l.getD 0 0).toNat = i.val := toNat_ofNat_byte (by omega)
  have status : (l.getD 3 0).toNat = n := toNat_ofNat_byte (UnitStatus.ofCode_lt known)
  have read : leNat ((l.drop 1).take 2) = output := leNat_leBytes (k := 2) fits
  refine ⟨?_, fun other => ?_⟩
  · rw [parseReport, bytes, if_pos ⟨length, all_stopOk_goodChar l, crcOk_withCrc _, address⟩, status, known, read]
    rfl
  · refine unitReplyMissed j chars (.inr (.inr (.inr (.inl ?_))))
    rw [bytes, address]
    exact fun same => other (Fin.ext same.symm)

/-! ### Pieces and where they stand -/

/-- Pieces that follow one another from an offset on, each with its offset. -/
def placed : Nat → List (List Byte) → List (Nat × List Byte)
  | _, [] => []
  | off, piece :: rest => (off, piece) :: placed (off + piece.length) rest

theorem placed_append (off : Nat) (as bs : List (List Byte)) :
    placed off (as ++ bs) = placed off as ++ placed (off + as.flatten.length) bs := by
  induction as generalizing off with
  | nil => rfl
  | cons a as ih => simp [placed, ih, Nat.add_assoc]

/-- A piece is read at its offset, whatever stands before and behind. -/
theorem take_drop_of_placed {pieces : List (List Byte)} {before behind piece : List Byte} {off : Nat}
    (h : (off, piece) ∈ placed before.length pieces) :
    ((before ++ pieces.flatten ++ behind).drop off).take piece.length = piece := by
  induction pieces generalizing before with
  | nil => cases h
  | cons a pieces ih =>
    rcases List.mem_cons.mp h with here | later
    · obtain ⟨rfl, rfl⟩ := Prod.mk.inj here
      simp
    · have found := ih (before := before ++ a) (by rwa [List.length_append])
      simpa using found

/-- A table holds of pieces where each of its fields is one of them. -/
theorem holds_of_placed {pieces : List (List Byte)} {behind : List Byte} {table : List (Nat × Nat × Nat)}
    (h : ∀ x ∈ table, (x.1, leBytes x.2.1 x.2.2) ∈ placed 0 pieces) : Holds (pieces.flatten ++ behind) table := by
  rintro ⟨off, width, n⟩ row fits
  have read := take_drop_of_placed (before := []) (behind := behind) (h _ row)
  rw [leBytes_length, List.nil_append] at read
  exact (congrArg leNat read).trans (leNat_leBytes fits)

/-- An optional field is its presence and its value, 0 when it is absent (R197). -/
theorem optBytes_eq (k : Nat) (o : Option Nat) : optBytes k o = leBytes 1 o.isSome.toNat ++ leBytes k (o.getD 0) := by
  cases o <;> rfl

/-- A byte is a field of one byte. -/
theorem leBytes_byte (b : Byte) : leBytes 1 b.toNat = [b] := by simp [leBytes]

/-! ### ALLOWANCE messages and response frames (R187, R200, R201) -/

theorem allowanceMsg_holds (m : AllowanceMsg) :
    Holds m.bytes ([(0, 1, m.unit.val)] ++ optAt 1 4 m.allowance ++ [(6, 1, m.seq.toNat)]) := by
  have pieces : m.bytes = [leBytes 1 m.unit, leBytes 1 m.allowance.isSome.toNat, leBytes 4 (m.allowance.getD 0),
      leBytes 1 m.seq.toNat].flatten ++ crcBytes (leBytes 1 m.unit ++ optBytes 4 m.allowance ++ [m.seq]) := by
    simp [AllowanceMsg.bytes, withCrc, optBytes_eq, leBytes_byte]
  rw [pieces]
  refine holds_of_placed ?_
  simp [optAt, placed]

/-- The pieces of a response frame, its check apart. -/
def Response.pieces (r : Response) : List (List Byte) :=
  [leBytes 1 0xC3, leBytes 2 r.answer.bytes.length, leBytes 1 r.code, leBytes 1 r.status.code, r.answer.bytes]

theorem frame_eq_pieces (r : Response) : r.frame = r.pieces.flatten ++ crcBytes r.pieces.flatten := by
  have start : [0xC3#8] = leBytes 1 0xC3 := rfl
  simp [Response.frame, Response.pieces, withCrc, start]

theorem sentFrames : SentFrames := by
  refine ⟨fun m => ⟨?_, crcOk_withCrc _, allowanceMsg_holds m⟩, fun r => ⟨?_, crcOk_withCrc _, ?_, ?_⟩, rfl⟩
  · simp [AllowanceMsg.bytes]
  · simp [Response.frame]
    omega
  · rw [frame_eq_pieces]
    exact take_drop_of_placed (before := []) (by simp [placed])
  · rw [frame_eq_pieces]
    exact holds_of_placed (by simp [Response.pieces, placed])

end Sys2Proof.Machine
end

section
/-! PROOFS. The payloads of answers (R200, R202, R203): their lengths, and where READ_REGISTERS and a snapshot record have
their fields. -/
namespace Sys2Proof.Machine
open Sys2Proof.Claim

/-! ### Lengths of lists and tables -/

section Lengths
variable {α : Type} {f : α → List Byte} {k : Nat}

theorem length_flatMap_le (h : ∀ a, (f a).length ≤ k) (l : List α) : (l.flatMap f).length ≤ l.length * k := by
  induction l with
  | nil => simp
  | cons a l ih =>
    have first := h a
    simp only [List.flatMap_cons, List.length_append, List.length_cons, Nat.add_mul]
    omega

theorem length_flatMap_vector (h : ∀ a, (f a).length = k) {n : Nat} (v : Vector α n) :
    (v.toList.flatMap f).length = n * k := by
  rw [flatMap_length f k _ fun a _ => h a, Vector.length_toList]

theorem length_presentBytes_le {n : Nat} (v : Vector (Option α) n) : (presentBytes v).length ≤ n + 1 := by
  have count : (presentOf v).length ≤ n := (List.length_filterMap_le _ _).trans (List.length_range ▸ le_rfl)
  rw [presentBytes, listBytes_length _ 1 _ fun _ => leBytes_length 1 _]
  omega

end Lengths

/-! ### Calendars (R77) -/

theorem bandEntry_length (b : BandEntry) : b.bytes.length = 7 := by simp [BandEntry.bytes]

theorem season_length (x : Season) : x.bytes.length = 3 := by simp [Season.bytes]

theorem switchPoint_length (x : SwitchPoint) : x.bytes.length = 3 := by simp [SwitchPoint.bytes]

theorem special_length (x : Special) : x.bytes.length = 5 := by
  unfold Special.bytes
  split <;> simp

theorem week_length (w : Vector (Fin 12) 7) : (w.toList.flatMap fun d => leBytes 1 d).length = 7 := by
  rw [flatMap_length _ 1 _ fun d _ => leBytes_length 1 d]
  simp

theorem summary_length_le (c : Calendar) : c.summaryBytes.length ≤ 58 := by
  have seasons := length_presentBytes_le c.seasons
  have weeks := length_presentBytes_le c.weeks
  have days := length_presentBytes_le c.days
  have specials := length_presentBytes_le c.specials
  simp only [Calendar.summaryBytes, List.length_append, Vector.length_toList, leBytes_length]
  omega

theorem specials_length (c : Calendar) : (c.partBytes .specials).length = 145 := by
  rw [Calendar.partBytes, listBytes_length _ 6 _ fun x => optField_length 5 _ x special_length, Vector.length_toList]

theorem seasons_length (c : Calendar) : (c.partBytes .seasons).length = 17 := by
  rw [Calendar.partBytes, listBytes_length _ 4 _ fun x => optField_length 3 _ x season_length, Vector.length_toList]

theorem weeks_length (c : Calendar) : (c.partBytes .weeks).length = 33 := by
  rw [Calendar.partBytes, listBytes_length _ 8 _ fun x => optField_length 7 _ x week_length, Vector.length_toList]

section Within
variable {c : Calendar}

theorem bands_length_le (h : Calendar.within c) : (c.partBytes .bands).length ≤ 57 := by
  obtain ⟨bands, -⟩ := h
  rw [Calendar.partBytes, listBytes_length _ 7 _ bandEntry_length]
  cases table : c.bands with
  | none => simp
  | some t =>
    have count : t.entries.length ≤ 8 := by simpa [table] using bands
    dsimp only
    omega

theorem day_length_le (h : Calendar.within c) (i : Fin 12) : (c.partBytes (.day i)).length ≤ 26 := by
  obtain ⟨-, days⟩ := h
  have count := days i
  rw [Calendar.partBytes]
  cases day : c.days[i] with
  | none => simp [optField]
  | some l =>
    rw [day] at count
    simp only [optField, List.length_append, leBytes_length, listBytes_length _ 3 _ switchPoint_length]
    simp only [Option.elim] at count
    omega

theorem part_length_le (h : Calendar.within c) (p : CalPart) : (c.partBytes p).length ≤ 145 := by
  cases p with
  | bands => exact (bands_length_le h).trans (by decide)
  | seasons => exact (seasons_length c).trans_le (by decide)
  | weeks => exact (weeks_length c).trans_le (by decide)
  | day i => exact (day_length_le h i).trans (by decide)
  | specials => exact (specials_length c).le

theorem image_length_le (h : Calendar.within c) : c.image.length ≤ 622 := by
  have summary := summary_length_le c
  have bands := bands_length_le h
  have days : ((List.finRange 12).flatMap fun i => c.partBytes (.day i)).length ≤ 12 * 26 :=
    (length_flatMap_le (day_length_le h) _).trans (by simp)
  simp only [Calendar.image, List.length_append, seasons_length, weeks_length, specials_length]
  omega

end Within

theorem summaryExtras_length (x : SummaryExtras) : x.bytes.length = 28 := by
  have lines : (x.lines.toList.flatMap fun l => flagBytes l.debounced ++ leBytes 1 l.source.code ++ flagBytes l.virt ++
      flagBytes l.effective).length = 2 * 4 := length_flatMap_vector (fun _ => by simp) _
  have map : (x.map.toList.flatMap MapEntry.bytes).length = 4 * 2 := length_flatMap_vector mapEntry_length _
  simp only [SummaryExtras.bytes, List.length_append, lines, map, leBytes_length, flagBytes_length, optBytes_length,
    optField_length 5 _ x.activation actTime_length]

/-! ### Reports (R52, R121, R140, R195) -/

theorem dayBytes_length (n : Nat) : (dayBytes n).length = 3 := by simp [dayBytes]

theorem owed_length (o : Owed) : o.bytes.length = 8 := by simp [Owed.bytes]

theorem ceffBytes_length (c : Option (Nat × Nat)) : (ceffBytes c).length = 5 := optField_length 4 _ c (by simp)

theorem timeReport_length (r : TimeReport) : r.bytes.length = 24 := by
  simp [TimeReport.bytes, leIntBytes, dayBytes_length]

theorem leIntBytes_length (k : Nat) (i : Int) : (leIntBytes k i).length = k := leBytes_length k _

theorem capsReport_length (r : CapsReport) : r.bytes.length = 69 := by
  simp only [CapsReport.bytes, List.length_append, optField_length 14 _ _ capRecord_length, ceffBytes_length,
    leBytes_length, optBytes_length, flagBytes_length, optField_length 4 _ r.lastXs (leIntBytes_length 4)]

theorem report_length (r : Report) : r.bytes.length = 5 := by simp [Report.bytes]

theorem unitItem_length (u : UnitItem) : u.bytes.length = 28 := by
  simp only [UnitItem.bytes, List.length_append, unitConfig_length, flagBytes_length, leBytes_length, optBytes_length,
    optField_length 5 _ u.entry.last report_length, optField_length 5 _ u.entry.lastSent (optBytes_length 4),
    List.length_singleton]

theorem unitsReport_length (r : UnitsReport) : r.bytes.length = 128 := by
  simp only [UnitsReport.bytes, List.length_append, length_flatMap_vector unitItem_length,
    length_flatMap_vector (leBytes_length 1), leBytes_length, optBytes_length, flagBytes_length]

theorem statusReport_length (r : StatusReport) : r.bytes.length = 72 + r.retired.length := by
  have links : ((r.links.toList.zip r.notFollowing.toList).flatMap fun x =>
      leBytes 1 x.1.code ++ flagBytes x.2).length = 8 := by
    rw [flatMap_length _ 2 _ fun _ _ => by simp, List.length_zip]
    simp
  have retired := listBytes_length (leBytes 1) 1 r.retired (leBytes_length 1)
  have debounced := length_flatMap_vector flagBytes_length r.debounced
  have effective := length_flatMap_vector flagBytes_length r.effective
  unfold StatusReport.bytes
  simp only [List.length_append, links, retired, debounced, effective, leBytes_length,
    optBytes_length, flagBytes_length, optOwed_length, ceffBytes_length]
  omega

/-! ### Snapshot records (R203) -/

theorem snapBand_length_le (b : SnapBand) : b.bytes.length ≤ 12 := by
  cases h : b.billable <;> simp [SnapBand.bytes, h]

theorem snapshot_length (r : Snapshot) : r.bytes.length = 74 + (r.bands.flatMap SnapBand.bytes).length := by
  unfold Snapshot.bytes
  simp only [List.length_append, leBytes_length, optBytes_length, optDay_length, Vector.length_toList]
  omega

theorem snapshot_length_le {r : Snapshot} (h : r.bands.length ≤ 8) : r.bytes.length ≤ 170 := by
  have bands := length_flatMap_le snapBand_length_le r.bands
  rw [snapshot_length]
  omega

/-! ### READ_REGISTERS (R202) -/

/-- The pieces of READ_REGISTERS. -/
def RegCopy.pieces (r : RegCopy) (left : Option Nat) : List (List Byte) :=
  [leBytes 1 left.isSome.toNat, leBytes 4 r.ti, leBytes 4 r.te, leBytes 2 r.ri, leBytes 2 r.re] ++
    r.imp.toList.map (leBytes 4) ++ r.exp.toList.map (leBytes 4) ++
    [leBytes 4 r.credit, leBytes 4 r.forfeit, leBytes 4 r.period, leBytes 1 r.openTime.isSome.toNat,
      leBytes 4 (r.openTime.getD 0), leBytes 1 r.band, leBytes 1 r.capture.isSome.toNat, leBytes 4 (r.capture.getD 0),
      leBytes 1 left.isSome.toNat, leBytes 2 (left.getD 0), leBytes 4 r.tiOpen, leBytes 4 r.teOpen]

theorem ite_isSome (o : Option Nat) : (if o.isSome then 1 else 0) = o.isSome.toNat := by cases o <;> rfl

theorem regCopy_eq_pieces (r : RegCopy) (left : Option Nat) : r.bytes left = (r.pieces left).flatten := by
  unfold RegCopy.bytes RegCopy.pieces
  simp only [optBytes_eq, ite_isSome, List.flatMap_def]
  simp only [List.flatten_append, List.flatten_cons, List.flatten_nil, List.append_nil, List.append_assoc]

theorem regCopy_length (r : RegCopy) (left : Option Nat) : (r.bytes left).length = 111 := by
  have imp := length_flatMap_vector (leBytes_length 4) r.imp
  have exp := length_flatMap_vector (leBytes_length 4) r.exp
  unfold RegCopy.bytes
  simp only [List.length_append, leBytes_length, optBytes_length, imp, exp]

/-- Fields of one width, one after another (R197). -/
theorem placed_map_leBytes (off k : Nat) (l : List Nat) :
    placed off (l.map (leBytes k)) = l.zipIdx.map fun x => (off + k * x.2, leBytes k x.1) := by
  have key (start : Nat) : placed (off + k * start) (l.map (leBytes k)) =
      (l.zipIdx start).map fun x => (off + k * x.2, leBytes k x.1) := by
    induction l generalizing start with
    | nil => rfl
    | cons n l ih =>
      have next : off + k * start + (leBytes k n).length = off + k * (start + 1) := by
        rw [leBytes_length, Nat.mul_succ, Nat.add_assoc]
      simp only [List.map_cons, placed, next, ih, List.zipIdx_cons]
  simpa using key 0

end Sys2Proof.Machine
end

section
/-! PROOFS. The payloads of answers (R200, R202, R203): all fit 480 bytes, and READ_REGISTERS has its fields where R202
says. -/
namespace Sys2Proof.Machine
open Sys2Proof.Claim

/-- A row of a table as a piece: its offset and its bytes. -/
def fieldOf (x : Nat × Nat × Nat) : Nat × List Byte := (x.1, leBytes x.2.1 x.2.2)

/-- A table holds of bytes whose pieces are its rows in order. -/
theorem holds_of_placed_eq {pieces : List (List Byte)} {table : List (Nat × Nat × Nat)}
    (h : placed 0 pieces = table.map fieldOf) : Holds pieces.flatten table := by
  rw [← List.append_nil pieces.flatten]
  exact holds_of_placed fun x mem => h ▸ List.mem_map_of_mem mem

theorem placed_rowsAt (off : Nat) (l : List Nat) : placed off (l.map (leBytes 4)) = (rowsAt off 4 l).map fieldOf := by
  rw [placed_map_leBytes, rowsAt, List.map_map]
  rfl

theorem registers_holds (r : RegCopy) (left : Option Nat) :
    Holds (r.bytes left) ([(0, 1, left.isSome.toNat), (1, 4, r.ti), (5, 4, r.te), (9, 2, r.ri), (11, 2, r.re)] ++
      rowsAt 13 4 r.imp.toList ++ rowsAt 45 4 r.exp.toList ++ [(77, 4, r.credit), (81, 4, r.forfeit), (85, 4, r.period)] ++
      optAt 89 4 r.openTime ++ [(94, 1, r.band.val)] ++ optAt 95 4 r.capture ++ optAt 100 2 left ++
      [(103, 4, r.tiOpen), (107, 4, r.teOpen)]) := by
  have imp := length_flatMap_vector (leBytes_length 4) r.imp
  have exp := length_flatMap_vector (leBytes_length 4) r.exp
  rw [List.flatMap_def] at imp exp
  rw [regCopy_eq_pieces]
  refine holds_of_placed_eq ?_
  unfold RegCopy.pieces
  simp only [placed_append, placed_rowsAt, List.flatten_append, List.length_append, imp, exp, List.map_append]
  simp [placed, optAt, fieldOf]

theorem answer_length_le {a : Answer} (h : Answer.within a) : a.bytes.length ≤ 480 := by
  cases a with
  | registers copy left => exact (regCopy_length copy left).trans_le (by decide)
  | time r => exact (timeReport_length r).trans_le (by decide)
  | calendarSummary c x =>
    have summary := summary_length_le c
    have extras := summaryExtras_length x
    simp only [Answer.bytes, List.length_append]
    omega
  | calendarPart c p => exact (part_length_le h p).trans (by decide)
  | caps r => exact (capsReport_length r).trans_le (by decide)
  | units r => exact (unitsReport_length r).trans_le (by decide)
  | snapshot r =>
    have record := snapshot_length_le (r := r) h
    simp only [Answer.bytes, List.length_append, leBytes_length]
    omega
  | status r =>
    have retired : r.retired.length ≤ 12 := h
    have report := statusReport_length r
    simp only [Answer.bytes]
    omega
  | overrideMap m => exact (length_flatMap_vector mapEntry_length m).trans_le (by decide)
  | weights w clamped =>
    have weights := length_flatMap_vector (leBytes_length 1) w
    have flags := length_flatMap_vector flagBytes_length clamped
    simp only [Answer.bytes, List.length_append]
    omega
  | owedClose o => exact (owed_length o).trans_le (by decide)
  | empty | detail | method | utc | offset | overrideLine | settlement | closed | capRecord | capCleared | capControl
  | unitConfig | standby | locks | notices | mask | view | released | premLock =>
    simp [Answer.bytes, leIntBytes_length]

theorem sentPayloads : SentPayloads := by
  refine ⟨fun a within => answer_length_le within, fun r left => ⟨regCopy_length r left, registers_holds r left⟩,
    specials_length, fun r => ⟨?_, by simp [Answer.bytes]⟩⟩
  exact holds_of_placed (pieces := [leBytes 2 r.bytes.length]) (behind := r.bytes) (by simp [placed])

end Sys2Proof.Machine
end

section
/-! PROOFS. The snapshot record (R203): a head, the bands one after another, and a tail, as pieces that follow one
another. -/
namespace Sys2Proof.Machine
open Sys2Proof.Claim

/-! ### Entries of one width -/

section Entries
variable {α : Type} {g : α → List (List Byte)} {w : Nat} {l : List α}

theorem flatten_flatMap (g : α → List (List Byte)) (l : List α) :
    (l.flatMap g).flatten = l.flatMap fun a => (g a).flatten := by
  rw [List.flatten_eq_flatMap, List.flatMap_assoc]
  simp only [List.flatten_eq_flatMap]

theorem flatten_flatMap_length (width : ∀ a ∈ l, (g a).flatten.length = w) :
    (l.flatMap g).flatten.length = l.length * w := by
  rw [flatten_flatMap, flatMap_length _ w l width]

/-- The pieces of entries of one width stand at multiples of it. -/
theorem placed_flatMap (width : ∀ a ∈ l, (g a).flatten.length = w) (off start : Nat) :
    placed (off + w * start) (l.flatMap g) = (l.zipIdx start).flatMap fun x => placed (off + w * x.2) (g x.1) := by
  induction l generalizing start with
  | nil => rfl
  | cons a l ih =>
    have next : off + w * start + (g a).flatten.length = off + w * (start + 1) := by
      rw [width a (by simp), Nat.mul_succ, Nat.add_assoc]
    rw [List.flatMap_cons, placed_append, next, ih fun b mem => width b (by simp [mem])]
    rfl

/-- A field each entry has at one offset gives a row for every entry. -/
theorem rowsAt_placed {f : α → Nat} {off o : Nat} (width : ∀ a ∈ l, (g a).flatten.length = w)
    (row : ∀ a ∈ l, ∀ base, (base + o, leBytes 4 (f a)) ∈ placed base (g a)) :
    ∀ x ∈ rowsAt (off + o) w (l.map f), fieldOf x ∈ placed off (l.flatMap g) := by
  intro x mem
  rw [rowsAt, List.zipIdx_map, List.map_map] at mem
  obtain ⟨⟨a, k⟩, entry, rfl⟩ := List.mem_map.mp mem
  have place := placed_flatMap width off 0
  rw [Nat.mul_zero, Nat.add_zero] at place
  rw [place]
  refine List.mem_flatMap.mpr ⟨(a, k), entry, ?_⟩
  have field := row a (List.fst_mem_of_mem_zipIdx entry) (off + w * k)
  rwa [Nat.add_right_comm] at field

end Entries

/-! ### The record's pieces -/

def SnapBand.pieces (b : SnapBand) : List (List Byte) :=
  [leBytes 4 b.imp, leBytes 4 b.exp] ++ b.billable.toList.map (leBytes 4)

theorem snapBand_eq_pieces (b : SnapBand) : b.bytes = b.pieces.flatten := by
  cases h : b.billable <;> simp [SnapBand.bytes, SnapBand.pieces, h]

def Snapshot.head (r : Snapshot) : List (List Byte) :=
  [leBytes 1 1, leBytes 4 r.number, leBytes 1 r.reason.code, leBytes 2 r.merged, leBytes 1 r.openTime.isSome.toNat,
    leBytes 4 (r.openTime.getD 0), leBytes 1 r.closeTime.isSome.toNat, leBytes 4 (r.closeTime.getD 0), r.calName.toList,
    leBytes 1 r.bands.length, leBytes 1 r.mode.code]

/-- An item of the billing date, 0 when there is none. -/
def Snapshot.date (r : Snapshot) (f : Date → Nat) : Nat := (r.billingDate.map fun d => f (dateOf d)).getD 0

def Snapshot.tail (r : Snapshot) : List (List Byte) :=
  [leBytes 5 r.billable, leBytes 5 r.applied, leBytes 4 r.creditIn, leBytes 4 r.creditOut, leBytes 5 r.forfeit,
    leBytes 4 r.ti, leBytes 4 r.te, leBytes 1 r.billingDate.isSome.toNat, leBytes 1 (r.date Date.year - 2000),
    leBytes 1 (r.date Date.month), leBytes 1 (r.date Date.day), leBytes 1 r.flags.byte, leBytes 2 r.counters.missed,
    leBytes 2 r.counters.errors, leBytes 2 r.counters.clamped, leBytes 2 r.counters.dups,
    leBytes 2 r.counters.discarded]

def Snapshot.pieces (r : Snapshot) : List (List Byte) := r.head ++ r.bands.flatMap SnapBand.pieces ++ r.tail

theorem Snapshot.date_of_none {r : Snapshot} (h : r.billingDate = none) (f : Date → Nat) : r.date f = 0 := by
  rw [Snapshot.date, h]
  rfl

theorem Snapshot.date_of_some {r : Snapshot} {d : Nat} (h : r.billingDate = some d) (f : Date → Nat) :
    r.date f = f (dateOf d) := by
  rw [Snapshot.date, h]
  rfl

theorem optDay_billingDate (r : Snapshot) : optDay r.billingDate = leBytes 1 r.billingDate.isSome.toNat ++
    (leBytes 1 (r.date Date.year - 2000) ++ (leBytes 1 (r.date Date.month) ++ leBytes 1 (r.date Date.day))) := by
  cases h : r.billingDate with
  | none =>
    simp only [Snapshot.date_of_none h, Nat.zero_sub]
    rfl
  | some d =>
    simp only [Snapshot.date_of_some h, optDay, optField, List.append_assoc]
    rfl

theorem snapshot_eq_pieces (r : Snapshot) : r.bytes = r.pieces.flatten := by
  unfold Snapshot.bytes Snapshot.pieces Snapshot.head Snapshot.tail
  have bands : r.bands.flatMap SnapBand.bytes = (r.bands.flatMap SnapBand.pieces).flatten := by
    rw [flatten_flatMap, funext snapBand_eq_pieces]
  simp only [optBytes_eq, optDay_billingDate, bands]
  simp only [List.flatten_append, List.flatten_cons, List.flatten_nil, List.append_nil, List.append_assoc]

theorem head_length (r : Snapshot) : r.head.flatten.length = 28 := by simp [Snapshot.head]

/-- Where the record's three stretches stand. -/
theorem placed_snapshot {r : Snapshot} {w : Nat} (width : ∀ b ∈ r.bands, b.pieces.flatten.length = w) :
    placed 0 r.pieces = placed 0 r.head ++ placed 28 (r.bands.flatMap SnapBand.pieces) ++
      placed (28 + w * r.bands.length) r.tail := by
  rw [Snapshot.pieces, placed_append, placed_append, List.flatten_append, List.length_append, head_length,
    flatten_flatMap_length width, Nat.mul_comm]
  simp only [Nat.zero_add]

/-- A piece of the record is read at its offset. -/
theorem snapshot_take_drop {r : Snapshot} {off : Nat} {piece : List Byte} (h : (off, piece) ∈ placed 0 r.pieces) :
    (r.bytes.drop off).take piece.length = piece := by
  have read := take_drop_of_placed (before := []) (behind := []) h
  rwa [List.nil_append, List.append_nil, ← snapshot_eq_pieces] at read

/-! ### Its tables -/

def Snapshot.headTable (r : Snapshot) : List (Nat × Nat × Nat) :=
  [(0, 1, 1), (1, 4, r.number), (5, 1, r.reason.code), (6, 2, r.merged)] ++ optAt 8 4 r.openTime ++
    optAt 13 4 r.closeTime ++ [(26, 1, r.bands.length), (27, 1, r.mode.code)]

def Snapshot.tailTable (r : Snapshot) (tail : Nat) : List (Nat × Nat × Nat) :=
  [(tail, 5, r.billable), (tail + 5, 5, r.applied), (tail + 10, 4, r.creditIn), (tail + 14, 4, r.creditOut),
    (tail + 18, 5, r.forfeit), (tail + 23, 4, r.ti), (tail + 27, 4, r.te), (tail + 31, 1, r.billingDate.isSome.toNat),
    (tail + 32, 1, r.date Date.year - 2000), (tail + 33, 1, r.date Date.month), (tail + 34, 1, r.date Date.day),
    (tail + 36, 2, r.counters.missed), (tail + 38, 2, r.counters.errors), (tail + 40, 2, r.counters.clamped),
    (tail + 42, 2, r.counters.dups), (tail + 44, 2, r.counters.discarded)]

/-- The record's table, with `w` bytes a band. -/
def Snapshot.table (r : Snapshot) (w : Nat) : List (Nat × Nat × Nat) :=
  r.headTable ++ rowsAt 28 w (r.bands.map SnapBand.imp) ++ rowsAt 32 w (r.bands.map SnapBand.exp) ++
    (if r.mode = .banded then rowsAt 36 w (r.bands.map fun b => b.billable.getD 0) else []) ++
    r.tailTable (28 + w * r.bands.length)

theorem headTable_placed (r : Snapshot) : ∀ x ∈ r.headTable, fieldOf x ∈ placed 0 r.head := by
  simp [Snapshot.headTable, Snapshot.head, placed, optAt, fieldOf]

theorem tailTable_placed (r : Snapshot) (tail : Nat) : ∀ x ∈ r.tailTable tail, fieldOf x ∈ placed tail r.tail := by
  simp [Snapshot.tailTable, Snapshot.tail, placed, fieldOf]

theorem getD_of_take_drop {l : List Byte} {n : Nat} {b d : Byte} (h : (l.drop n).take 1 = [b]) : l.getD n d = b := by
  have first : (l.drop n)[0]? = some b := by rw [← List.getElem?_take_of_lt Nat.one_pos, h]; rfl
  rw [List.getElem?_drop, Nat.add_zero] at first
  rw [List.getD_eq_getElem?_getD, first, Option.getD_some]

/-- The byte of the period flags, bit by bit (R197). -/
theorem flags_byte_bits (f : PeriodFlags) : [0, 1, 2, 3, 4, 5, 6, 7].map (BitVec.ofNat 8 f.byte).getLsbD =
    [f.timeInvalidSeen, f.frontendFaultSeen, f.resyncSeen, f.frameLossSeen, f.restartLoss, false, false, false] := by
  obtain ⟨a, b, c, d, e⟩ := f
  decide +revert

section Banded
variable {r : Snapshot} (banded : ∀ b ∈ r.bands, b.billable.isSome = decide (r.mode = .banded))
include banded

theorem snapBand_pieces_length {b : SnapBand} (mem : b ∈ r.bands) :
    b.pieces.flatten.length = if r.mode = .banded then 12 else 8 := by
  have present := banded b mem
  cases h : b.billable <;> simp_all [SnapBand.pieces]

theorem table_placed {w : Nat} (hw : w = if r.mode = .banded then 12 else 8) :
    ∀ x ∈ r.table w, fieldOf x ∈ placed 0 r.pieces := by
  intro x mem
  have width (b : SnapBand) (mem : b ∈ r.bands) : b.pieces.flatten.length = w := hw ▸ snapBand_pieces_length banded mem
  rw [placed_snapshot width, List.mem_append, List.mem_append]
  rcases List.mem_append.mp mem with mem | tail
  · rcases List.mem_append.mp mem with mem | billable
    · rcases List.mem_append.mp mem with mem | exp
      · rcases List.mem_append.mp mem with head | imp
        · exact .inl (.inl (headTable_placed r x head))
        · exact .inl (.inr (rowsAt_placed (o := 0) width (fun b _ base => by simp [SnapBand.pieces, placed]) x imp))
      · exact .inl (.inr (rowsAt_placed (o := 4) width (fun b _ base => by simp [SnapBand.pieces, placed]) x exp))
    · split at billable
      next mode =>
        refine .inl (.inr (rowsAt_placed (o := 8) width (fun b mem base => ?_) x billable))
        obtain ⟨n, value⟩ : ∃ n, b.billable = some n := Option.isSome_iff_exists.mp (by simp [banded b mem, mode])
        simp [SnapBand.pieces, placed, value]
      next => cases billable
  · exact .inr (tailTable_placed r _ x tail)

end Banded

theorem snapshotRecord : SnapshotRecord := by
  intro r banded
  dsimp only
  set width := if r.mode = .banded then 12 else 8 with hw
  have entries (b : SnapBand) (mem : b ∈ r.bands) := snapBand_pieces_length banded mem
  have parts := placed_snapshot entries
  rw [← hw] at parts
  refine ⟨?_, ?_, ?_, ?_, rfl, rfl⟩
  · have bands := flatten_flatMap_length entries
    rw [← hw, Nat.mul_comm] at bands
    rw [snapshot_length, funext snapBand_eq_pieces, ← flatten_flatMap, bands]
    omega
  · have name := snapshot_take_drop (r := r) (off := 18) (piece := r.calName.toList)
      (by rw [parts]; simp [Snapshot.head, placed])
    rwa [Vector.length_toList] at name
  · rw [snapshot_eq_pieces, ← List.append_nil r.pieces.flatten]
    exact holds_of_placed (table_placed banded hw)
  · have flags := snapshot_take_drop (r := r) (off := 28 + width * r.bands.length + 35) (piece := leBytes 1 r.flags.byte)
      (by rw [parts]; simp [Snapshot.tail, placed])
    rw [getD_of_take_drop flags]
    exact flags_byte_bits r.flags

end Sys2Proof.Machine
end

section
/-! PROOFS. The slots of the store (R204): a record and its check, then the erased state; the checkpoint's fields in their
free order (log 9), and the parts of a calendar's image. -/
namespace Sys2Proof.Machine
open Sys2Proof.Claim

/-! ### A record in its slot -/

def slotPieces (kind : Nat) (body : List Byte) : List (List Byte) := [leBytes 1 kind, leBytes 2 body.length, body]

theorem slotPieces_length (kind : Nat) (body : List Byte) :
    (withCrc (slotPieces kind body).flatten).length = body.length + 5 := by
  simp [slotPieces]
  omega

theorem slotOf_eq_pieces (kind : Nat) (body : List Byte) : slotOf kind body =
    withCrc (slotPieces kind body).flatten ++ List.replicate (251 - body.length) 0xFF#8 := by
  have flat : leBytes 1 kind ++ leBytes 2 body.length ++ body = (slotPieces kind body).flatten := by simp [slotPieces]
  have rest : 256 - (body.length + 5) = 251 - body.length := by omega
  simp only [slotOf, flat, slotPieces_length, rest]

/-- A slot is its pieces with the rest behind them. -/
theorem slotOf_eq_append (kind : Nat) (body : List Byte) : slotOf kind body = (slotPieces kind body).flatten ++
    (crcBytes (slotPieces kind body).flatten ++ List.replicate (251 - body.length) 0xFF#8) := by
  rw [slotOf_eq_pieces, withCrc, List.append_assoc]

theorem slotOf_holds (kind : Nat) (body : List Byte) :
    Holds (slotOf kind body) [(0, 1, kind), (1, 2, body.length)] := by
  rw [slotOf_eq_append]
  exact holds_of_placed (by simp [slotPieces, placed])

theorem slotOf_body (kind : Nat) (body : List Byte) : ((slotOf kind body).drop 3).take body.length = body := by
  rw [slotOf_eq_append]
  exact take_drop_of_placed (before := []) (by simp [placed])

theorem slotOf_crcOk (kind : Nat) (body : List Byte) : crcOk ((slotOf kind body).take (body.length + 5)) = true := by
  rw [slotOf_eq_pieces, List.take_left' (slotPieces_length kind body)]
  exact crcOk_withCrc _

theorem slotOf_erased (kind : Nat) (body : List Byte) : ∀ b ∈ (slotOf kind body).drop (body.length + 5), b = 0xFF#8 := by
  rw [slotOf_eq_pieces, List.drop_left' (slotPieces_length kind body)]
  exact fun b mem => List.eq_of_mem_replicate mem

theorem slotBytes_of_recordOf {x : SlotContent} {kind : Nat} {body : List Byte} (h : recordOf x = some (kind, body)) :
    slotBytes (some x) = some (slotOf kind body) := by
  cases x with
  | junk => cases h
  | snapshot | half | part =>
    obtain ⟨rfl, rfl⟩ := Prod.mk.inj (Option.some.inj h)
    rfl

theorem body_length_le {x : SlotContent} {kind : Nat} {body : List Byte} (h : recordOf x = some (kind, body))
    (bands : ∀ r, x = .snapshot r → r.bands.length ≤ 8) : body.length ≤ 251 := by
  cases x with
  | junk => cases h
  | snapshot r =>
    obtain ⟨rfl, rfl⟩ := Prod.mk.inj (Option.some.inj h)
    exact (snapshot_length_le (bands r rfl)).trans (by decide)
  | half n c =>
    obtain ⟨rfl, rfl⟩ := Prod.mk.inj (Option.some.inj h)
    have share := c.share_length n
    simp only [List.length_append, leBytes_length]
    omega
  | part n total c =>
    obtain ⟨rfl, rfl⟩ := Prod.mk.inj (Option.some.inj h)
    have cut := List.length_take_le 249 (c.image.drop (249 * (n - 1)))
    simp only [List.length_append, leBytes_length]
    omega

/-! ### The checkpoint content (R163, R204; log 9) -/

theorem placeField_perm (f : Nat × List Byte) (l : List (Nat × List Byte)) : (placeField f l).Perm (f :: l) := by
  induction l with
  | nil => rfl
  | cons g l ih =>
    unfold placeField
    split
    · rfl
    · exact (ih.cons g).trans (.swap f g l)

theorem foldr_placeField_perm (l : List (Nat × List Byte)) : (l.foldr placeField []).Perm l := by
  induction l with
  | nil => rfl
  | cons f l ih => exact (placeField_perm f _).trans (ih.cons f)

/-- Fields, each with its free rank. -/
def ranked (fields : List (List Byte)) : List (Nat × List Byte) :=
  fields.zipIdx.map fun x => (Config.checkpointOrder x.2, x.1)

theorem ranked_map_snd (fields : List (List Byte)) : (ranked fields).map (·.2) = fields := by
  rw [ranked, List.map_map]
  exact List.zipIdx_map_fst 0 fields

/-- Whatever order the free ranks give, the content is the fields, each once. -/
theorem content_perm (c : Checkpoint) : ∃ fields : List (List Byte), fields.Perm c.fields ∧ c.content = fields.flatten := by
  have perm := (foldr_placeField_perm (ranked c.fields)).map (·.2)
  rw [ranked_map_snd] at perm
  refine ⟨_, perm, ?_⟩
  rw [Checkpoint.content, List.flatMap_def]
  rfl

/-! ### The parts of a calendar's image (R204; log 10, 61) -/

theorem flatMap_chunks {α : Type} (k n : Nat) (l : List α) :
    ((List.range n).flatMap fun i => (l.drop (k * i)).take k) = l.take (k * n) := by
  induction n with
  | zero => simp
  | succ n ih => rw [List.range_succ, List.flatMap_append, ih, List.flatMap_singleton, Nat.mul_succ, List.take_add]

theorem parts_image (c : Calendar) :
    ((List.range c.parts).flatMap fun i => (c.image.drop (249 * i)).take 249) = c.image := by
  rw [flatMap_chunks, List.take_of_length_le]
  rw [Calendar.parts]
  omega

theorem image_length_pos (c : Calendar) : 0 < c.image.length := by
  simp only [Calendar.image, List.length_append, specials_length]
  omega

theorem parts_le {c : Calendar} (h : Calendar.within c) : 1 ≤ c.parts ∧ c.parts ≤ 5 := by
  have most := image_length_le h
  have least := image_length_pos c
  rw [Calendar.parts]
  omega

theorem slotLayout : SlotLayout := by
  refine ⟨fun x kind body record fits => ⟨slotOf kind body, slotBytes_of_recordOf record, slotOf_length kind fits,
    slotOf_holds kind body, slotOf_body kind body, slotOf_crcOk kind body, slotOf_erased kind body⟩, ?_, rfl, rfl,
    fun c => ⟨c.shares, content_perm c⟩, fun c => ⟨parts_image c, parts_le⟩⟩
  exact fun x kind body record bands => body_length_le record bands

/-- Settles O37: every message and record is its pieces one after another, and each piece is read where it stands. -/
theorem linkMessagesReadBack : Obligations.LinkMessagesReadBack :=
  ⟨phaseFrameReadBack, unitReplyReadBack, unitReplyMissed, sentFrames, sentPayloads, snapshotRecord, slotLayout⟩

end Sys2Proof.Machine
end

section
/-! PROOFS. The reservation of a log slot (R143 to R145, R148): the free slots of a sector, the next sector of a ring,
the candidate with its margin, the grant, and the log pre-erase, each said once for the statement and for the slots the
pending queue is bound to. -/
namespace Sys2Proof.Machine
open Sys2Proof.Claim

/-! ### Sectors and their free slots (R142, R144) -/

theorem Store.blank_iff (m : Store) (k : Nat) : Store.blank m k = true ↔ Store.at m k = none := by simp [Store.blank]

theorem free_iff (h : Hst) (k : Nat) :
    h.free k = true ↔ Store.blank h.store k = true ∧ ∀ e ∈ h.queue, e.slot ≠ k := by
  simp [Hst.free]

theorem sectorBlank_iff (m : Store) (x : Nat) :
    Store.sectorBlank m x = true ↔ ∀ k, k / 16 = x → Store.blank m k = true := by
  simp only [Store.sectorBlank, List.all_eq_true, List.mem_range]
  refine ⟨fun all k sector => ?_, fun all i low => all _ (by omega)⟩
  have slot : 16 * x + k % 16 = k := by omega
  exact slot ▸ all (k % 16) (by omega)

theorem sectorFull_iff (m : Store) (x : Nat) :
    Store.sectorFull m x = true ↔ ∀ k, k / 16 = x → Store.blank m k = false := by
  simp only [Store.sectorFull, List.all_eq_true, List.mem_range, Bool.not_eq_true']
  refine ⟨fun all k sector => ?_, fun all i low => all _ (by omega)⟩
  have slot : 16 * x + k % 16 = k := by omega
  exact slot ▸ all (k % 16) (by omega)

/-- A sector with no slot BLANK is not all BLANK. -/
theorem Store.sectorBlank_of_full {m : Store} {x : Nat} (full : Store.sectorFull m x = true) :
    Store.sectorBlank m x = false := by
  have first : Store.blank m (16 * x) = false := (sectorFull_iff m x).mp full _ (by omega)
  rw [← Bool.not_eq_true, sectorBlank_iff]
  exact fun blank => by simp [blank (16 * x) (by omega)] at first

theorem mem_freeAfter (h : Hst) (ptr x j : Nat) :
    j ∈ h.freeAfter ptr x ↔ ptr < j ∧ j / 16 = x ∧ h.free j = true := by
  simp only [Hst.freeAfter, List.mem_filter, List.mem_map, List.mem_range, Bool.and_eq_true, decide_eq_true_eq]
  constructor
  · rintro ⟨⟨i, low, rfl⟩, behind, free⟩
    exact ⟨behind, by omega, free⟩
  · rintro ⟨behind, sector, free⟩
    exact ⟨⟨j % 16, by omega, by omega⟩, behind, free⟩

theorem freeAfter_sorted (h : Hst) (ptr x : Nat) : (h.freeAfter ptr x).Pairwise (· < ·) := by
  refine List.Pairwise.filter _ (List.Pairwise.map _ (R := (· < ·)) (fun a b less => ?_) List.pairwise_lt_range)
  omega

theorem freeAfter_nodup (h : Hst) (ptr x : Nat) : (h.freeAfter ptr x).Nodup :=
  (freeAfter_sorted h ptr x).imp Nat.ne_of_lt

theorem freeAfter_eq_nil_iff (h : Hst) (ptr x : Nat) :
    h.freeAfter ptr x = [] ↔ ∀ j, ptr < j → j / 16 = x → h.free j = false := by
  simp only [List.eq_nil_iff_forall_not_mem, mem_freeAfter, not_and, Bool.not_eq_true]

/-- The first of the free slots behind a slot number. -/
theorem freeAfter_eq_cons {h : Hst} {ptr x k : Nat} (behind : ptr < k) (sector : k / 16 = x) (free : h.free k = true)
    (first : ∀ j, ptr < j → j < k → j / 16 = x → h.free j = false) :
    h.freeAfter ptr x = k :: (h.freeAfter ptr x).tail := by
  cases slots : h.freeAfter ptr x with
  | nil => simp [(freeAfter_eq_nil_iff h ptr x).mp slots k behind sector] at free
  | cons a rest =>
    have sorted := slots ▸ freeAfter_sorted h ptr x
    obtain ⟨aBehind, aSector, aFree⟩ := (mem_freeAfter h ptr x a).mp (by simp [slots])
    have listed : k ∈ a :: rest := slots ▸ (mem_freeAfter h ptr x k).mpr ⟨behind, sector, free⟩
    rcases List.mem_cons.mp listed with rfl | later
    · rfl
    · have before : a < k := (List.pairwise_cons.mp sorted).1 k later
      simp [first a aBehind before aSector] at aFree

/-! ### The next sector of a ring (R143, R144, R151, R160) -/

theorem nextSectorRule : NextSectorRule := by
  intro h first len x n low high one most
  dsimp only
  intro retired
  have place (i : Nat) : first + (x - first + 1 + i) % len = first + (x - first + (i + 1)) % len := by
    rw [Nat.add_assoc, Nat.add_comm 1 i]
  have found : h.nextSector first len x = (((List.range len).find? fun i =>
      !h.retired.contains (first + (x - first + (i + 1)) % len)).map
        fun i => first + (x - first + (i + 1)) % len).getD x := by
    simp only [Hst.nextSector, ringAfter, place, List.find?_map, Function.comp_def]
  refine ⟨fun usable => ?_, fun all last => ?_, rfl, rfl⟩
  · have is : (List.range len).find? (fun i => !h.retired.contains (first + (x - first + (i + 1)) % len)) =
        some (n - 1) := by
      rw [List.find?_range_eq_some]
      refine ⟨?_, List.mem_range.mpr (by omega), fun i before => ?_⟩
      · simpa [Nat.sub_add_cancel one] using usable
      · simpa using retired (i + 1) (by omega) (by omega)
    rw [found, is]
    simp [Nat.sub_add_cancel one]
  · have none : (List.range len).find? (fun i => !h.retired.contains (first + (x - first + (i + 1)) % len)) = none := by
      rw [List.find?_range_eq_none]
      intro i before
      by_cases final : i + 1 = n
      · simpa [final] using last
      · simpa using retired (i + 1) (by omega) (by omega)
    rw [found, none]
    rfl

/-- The next sector is the sector itself, or another of its ring that is not retired. -/
theorem nextSector_cases (h : Hst) (first len x : Nat) : h.nextSector first len x = x ∨
    first ≤ h.nextSector first len x ∧ h.nextSector first len x < first + len ∧
      h.nextSector first len x ∉ h.retired := by
  unfold Hst.nextSector
  cases found : (ringAfter first len x).find? fun y => !h.retired.contains y with
  | none => exact .inl rfl
  | some y =>
    obtain ⟨i, low, rfl⟩ := List.mem_map.mp (List.mem_of_find?_eq_some found)
    have inRing := Nat.mod_lt (x - first + 1 + i) (Nat.lt_of_le_of_lt (Nat.zero_le i) (List.mem_range.mp low))
    refine .inr ⟨Nat.le_add_right .., by simpa using inRing, ?_⟩
    simpa using List.find?_some found

/-! ### The candidate and its margin (R144) -/

/-- Behind a sector stands another sector, all BLANK (R144). -/
def Hst.nextBlank (h : Hst) (x : Nat) : Bool := h.nextLog x != x && Store.sectorBlank h.store (h.nextLog x)

theorem nextBlank_iff (h : Hst) (x : Nat) :
    h.nextBlank x = true ↔ h.nextLog x ≠ x ∧ Store.sectorBlank h.store (h.nextLog x) = true := by
  simp [Hst.nextBlank]

theorem candidate_here {h : Hst} {k : Nat} {rest : List Nat} (free : h.freeAfter h.writePtr h.curLog = k :: rest) :
    h.candidate = some k := by
  simp only [Hst.candidate, free]

theorem candidate_next {h : Hst} (full : h.freeAfter h.writePtr h.curLog = []) :
    h.candidate = if h.nextBlank h.curLog then some (16 * h.nextLog h.curLog) else none := by
  simp only [Hst.candidate, full]
  rfl

theorem margin_eq (h : Hst) (k : Nat) :
    h.margin k = (h.freeAfter k (k / 16)).length + if h.nextBlank (k / 16) then 16 else 0 := rfl

theorem candidateRule : CandidateRule := by
  intro h
  dsimp only
  refine ⟨fun k => by rw [free_iff, Store.blank_iff], fun k behind sector free first => ?_, fun full next => ?_,
    fun full noNext => ?_, fun k => ⟨fun next => ?_, fun noNext => ?_⟩, mem_freeAfter h, freeAfter_nodup h⟩
  · exact candidate_here (freeAfter_eq_cons behind sector free first)
  · rw [candidate_next ((freeAfter_eq_nil_iff _ _ _).mpr full), if_pos ((nextBlank_iff _ _).mpr next)]
  · rw [candidate_next ((freeAfter_eq_nil_iff _ _ _).mpr full), if_neg (mt (nextBlank_iff _ _).mp noNext)]
  · rw [margin_eq, if_pos ((nextBlank_iff _ _).mpr next)]
  · rw [margin_eq, if_neg (mt (nextBlank_iff _ _).mp noNext), Nat.add_zero]

/-! ### The grant and the log pre-erase (R144, R145, R148) -/

theorem grantRule : GrantRule := by
  intro h k
  unfold Hst.grant
  cases candidate : h.candidate with
  | none => simp
  | some j =>
    by_cases same : j = k
    · subst same
      simp [and_assoc]
    · simp [same]

/-- The log pre-erase is due: the current sector has few slots left, and the next one is another and not all BLANK. -/
def Hst.preEraseDue (h : Hst) : Prop :=
  (h.freeAfter h.writePtr h.curLog).length ≤ 4 ∧ Store.sectorBlank h.store (h.nextLog h.curLog) = false ∧
    h.nextLog h.curLog ≠ h.curLog

theorem judgeLogPreErase_due {h : Hst} (due : h.preEraseDue) :
    h.judgeLogPreErase = h.enterErase (h.nextLog h.curLog) := by
  obtain ⟨few, dirty, another⟩ := due
  exact if_pos (by simp [few, dirty, another])

theorem judgeLogPreErase_rests {h : Hst} (rests : ¬h.preEraseDue) : h.judgeLogPreErase = h :=
  if_neg (by simpa [Hst.preEraseDue, and_assoc] using rests)

theorem logPreErase : LogPreErase := by
  intro h
  dsimp only
  constructor
  · rintro ⟨few, dirty, another, listed, suspended, erasing⟩
    rw [judgeLogPreErase_due ⟨few, dirty, another⟩, enterErase_enters listed suspended erasing]
  · intro notDue
    by_cases due : h.preEraseDue
    · rw [judgeLogPreErase_due due, enterErase_stays]
      by_contra there
      simp only [not_or] at there
      exact notDue ⟨due.1, due.2.1, due.2.2, there⟩
    · exact judgeLogPreErase_rests due

/-- Settles O28: the free slots as members of the lists the rules count, and the next sector as the first found. -/
theorem reservationRule : Obligations.ReservationRule := ⟨candidateRule, grantRule, nextSectorRule, logPreErase⟩

end Sys2Proof.Machine
end

section
/-! PROOFS. What a step does to the History Store, said once (chapter 8; R154 to R179): the moves it can make, each with
its occasion, and that every command leads from the state before it to the state after it by such moves. A property of
the store that each move keeps is kept by every step. -/
namespace Sys2Proof.Machine
open Sys2Proof.Claim

/-! ### The moves -/

/-- What the pending queue and the slots of the store depend on: the History Store, the open period's number, and how
far recovery and the supply stand. -/
structure StoreView where
  hst : Hst
  period : Nat
  stage : Stage
  supply : Supply
  unread : List Nat

def State.view (s : State) : StoreView :=
  { hst := s.hst, period := s.reg.period, stage := s.sup.stage, supply := s.sup.supply, unread := s.sup.unread }

/-- The sectors that calendar image writes are, or will be, made to. -/
def Hst.writeSectors (h : Hst) : List Nat := h.calWaiting.map (·.sector) ++ h.calJob.toList.map (·.sector)

/-- `k` differs from `h` in the outstanding checkpoints and in marks that bind no slot: areas FAILED other than the log,
the interval and the gap. -/
def Hst.NotesOnly (h k : Hst) : Prop :=
  k = { h with
    ckptLast := k.ckptLast, ckptReq := k.ckptReq, ckptRetry := k.ckptRetry, newestSeq := k.newestSeq,
    periodicFrom := k.periodicFrom, periodicFired := k.periodicFired, ckptFailed := k.ckptFailed,
    calFailed := k.calFailed, gap := k.gap }

/-- Recovery's read in progress has ended. -/
def Hst.readsEnded (h : Hst) : Hst :=
  match h.engine with
  | .read .recovery _ => { h with engine := .idle }
  | _ => h

/-- The store as the log scan leaves it, with the recovery erases entered (R175, R176). -/
def Hst.logScanned (designation : Option Nat) (h : Hst) : Hst :=
  { h.readsEnded.scanLog with
    eraseList := (List.range 12).filter (h.readsEnded.scanLog.needsErase designation) }

/-- What occasions an operation that a free engine begins, but for an erase (R154). -/
def StoreView.MayStart (v : StoreView) : Engine → Prop
  | .read .recovery _ => v.unread ≠ []
  | .read (.port p n) k => (p, n, k) ∈ v.hst.reads
  | .snapshot => v.hst.logFailed = false
  | .checkpoint _ p _ => v.hst.nextPosition = some p
  | .part => True
  | .erase _ | .idle => False

/-- What occasions the erase of a sector: it is listed and not archive-locked, or an image write waits for it (R149,
R153, R154). -/
def Hst.MayErase (h : Hst) (x : Nat) : Prop := x ∈ h.eraseList ∧ h.locked x = false ∨ x ∈ h.writeSectors

/-- The entries after the program of the oldest, `e`, has read back INVALID, and the log FAILED at its second failure
(R158). -/
def Hst.programFailed (e : PendingSnap) (h : Hst) : Hst :=
  { (({ h with store := Store.put h.store e.slot .junk, engine := .idle } : Hst).rebind) with
    logFailed := h.logFailed || decide (1 ≤ e.fails) }

/-- One thing that happens to the History Store, with what occasions it. -/
inductive StoreMove : StoreView → StoreView → Prop
  | notes {v h} (only : v.hst.NotesOnly h) : StoreMove v { v with hst := h }
  | writes {v} (waiting : List CalWrite) (job : Option CalJob)
      (images : ∀ w ∈ waiting, 10 ≤ w.sector ∨ w.sector ∈ v.hst.writeSectors)
      (image : ∀ j ∈ job, j.sector ∈ v.hst.writeSectors) :
      StoreMove v { v with hst := { v.hst with calWaiting := waiting, calJob := job } }
  | closes {v} {k : Nat} {snap : Snapshot} (run : v.supply = .run) (granted : v.hst.grant = some k)
      (number : snap.number = v.period) :
      StoreMove v { v with
        hst := { v.hst.reserve k with queue := v.hst.queue ++ [{ snap := snap, slot := k, fails := 0 }] }
        period := v.period + 1 }
  | logPreErase {v} : StoreMove v { v with hst := v.hst.judgeLogPreErase }
  | ringPreErase {v} {x : Nat} (ring : x < 4) (used : Store.sectorBlank v.hst.store x = false) :
      StoreMove v { v with hst := v.hst.enterErase x }
  | logFails {v} (free : v.hst.engine ≠ .snapshot) : StoreMove v { v with hst := { v.hst with logFailed := true } }
  | programmed {v e rest} (engine : v.hst.engine = .snapshot) (oldest : v.hst.queue = e :: rest) :
      StoreMove v { v with hst := { v.hst with
        store := Store.put v.hst.store e.slot (.snapshot e.snap), queue := rest,
        index := v.hst.index ++ [(e.snap.number, e.slot)], engine := .idle } }
  | programFailed {v e rest} (engine : v.hst.engine = .snapshot) (oldest : v.hst.queue = e :: rest) :
      StoreMove v { v with hst := v.hst.programFailed e }
  | halves {v c p r} (valid0 valid1 : Bool) (engine : v.hst.engine = .checkpoint c p r) :
      StoreMove v { v with hst := v.hst.programHalves c p valid0 valid1 }
  | part {v j} (content : SlotContent) (engine : v.hst.engine = .part) (job : v.hst.calJob = some j) :
      StoreMove v { v with hst := { v.hst with
        store := Store.put v.hst.store (16 * j.sector + j.slot) content, engine := .idle } }
  | starts {v} {e : Engine} (free : v.hst.engine = .idle) (may : v.MayStart e) :
      StoreMove v { v with hst := { v.hst with engine := e } }
  | erases {v} {x : Nat} (run : v.supply = .run) (free : v.hst.engine = .idle) (none : v.hst.suspended = none)
      (noRead : v.hst.reads = []) (may : v.hst.MayErase x) : StoreMove v { v with hst := v.hst.beginErase x }
  | resumes {v} {x : Nat} (free : v.hst.engine = .idle) (suspended : v.hst.suspended = some x) :
      StoreMove v { v with hst := { v.hst with suspended := none, engine := .erase x } }
  | suspends {v} : StoreMove v { v with hst := v.hst.suspendErase }
  | erased {v} {x : Nat} (notBlank : BitVec 16) (engine : v.hst.engine = .erase x) :
      StoreMove v { v with hst := { v.hst with
        store := Store.erased v.hst.store x notBlank, engine := .idle
        retired := if notBlank = 0 then v.hst.retired else v.hst.retired ++ [x] } }
  | asks {v} {n k : Nat} (p : Port) (held : (n, k) ∈ v.hst.index) :
      StoreMove v { v with hst := { v.hst with reads := v.hst.reads ++ [(p, n, k)] } }
  | read {v who k} (decayed : Bool) (engine : v.hst.engine = .read who k) :
      StoreMove v { v with hst := { v.hst with
        engine := .idle, store := if decayed then Store.put v.hst.store k .junk else v.hst.store } }
  | forgets {v index reads unread} (pairs : index.Sublist v.hst.index) (asked : reads.Sublist v.hst.reads)
      (left : unread.Sublist v.unread) :
      StoreMove v { v with hst := { v.hst with index := index, reads := reads }, unread := unread }
  | locks {v} (on : Bool) (named : List Nat) : StoreMove v { v with hst := v.hst.setLocks on named }
  | resets {v} (m : Store) :
      StoreMove v { hst := .reset m, period := 1, stage := .ring, supply := .starting, unread := List.range 64 }
  | ringScanned {v} {x : Nat} (period : Nat) (unread : List Nat) (starting : v.supply = .starting)
      (stage : v.stage = .ring) (sector : x < 4) :
      StoreMove v { hst := { v.hst.readsEnded with ckptSector := x }, period := period, stage := .log,
                    supply := .starting, unread := unread }
  | logScanned {v} {period : Nat} (designation : Option Nat) (unread : List Nat) (starting : v.supply = .starting)
      (stage : v.stage = .log) (below : ∀ x ∈ (v.hst.logScanned designation).index, x.1 < period) :
      StoreMove v { hst := v.hst.logScanned designation, period := period, stage := .images, supply := .starting,
                    unread := unread }
  | imagesLoaded {v} (starting : v.supply = .starting) (stage : v.stage = .images) :
      StoreMove v { v with hst := v.hst.readsEnded, stage := .done, unread := [] }
  | supply {v} {u : Supply} (left : u ≠ .starting)
      (ready : v.supply ≠ .starting ∨
        v.stage = .done ∧ v.unread = [] ∧ ∀ k, v.hst.engine ≠ .read .recovery k) :
      StoreMove v { v with supply := u }

/-- Some moves of the History Store, one after another, lead from one state to another. -/
def Leads (s t : State) : Prop := Relation.ReflTransGen StoreMove s.view t.view

/-- A property of the store that every move keeps is kept wherever moves lead. -/
theorem Leads.keeps {P : StoreView → Prop} (moves : ∀ v w, StoreMove v w → P v → P w) {s t : State} (h : Leads s t)
    (holds : P s.view) : P t.view := by
  unfold Leads at h
  generalize t.view = w at h ⊢
  induction h with
  | refl => exact holds
  | tail _ move ih => exact moves _ _ move ih

theorem Leads.refl (s : State) : Leads s s := Relation.ReflTransGen.refl

theorem Leads.trans {s t u : State} (h : Leads s t) (h' : Leads t u) : Leads s u := Relation.ReflTransGen.trans h h'

theorem Leads.move {s t : State} (m : StoreMove s.view t.view) : Leads s t := .single m

theorem Leads.of_view {s t : State} (h : t.view = s.view) : Leads s t := by
  rw [Leads, h]

theorem Leads.of_frame {s t : State} (hst : t.hst = s.hst) (period : t.reg.period = s.reg.period)
    (sup : t.sup = s.sup) : Leads s t := .of_view (by simp [State.view, hst, period, sup])

/-- Checkpoints are requested, dropped or marked. -/
theorem Leads.of_notes {s t : State} (hst : s.hst.NotesOnly t.hst) (period : t.reg.period = s.reg.period)
    (stage : t.sup.stage = s.sup.stage) (supply : t.sup.supply = s.sup.supply)
    (unread : t.sup.unread = s.sup.unread) : Leads s t := by
  have move := StoreMove.notes (v := s.view) hst
  refine .move ?_
  simpa only [State.view, period, stage, supply, unread] using move

/-- What leads on from every state leads on from where a course has come. -/
theorem Leads.then {f : State → State} (h : ∀ t, Leads t (f t)) {s : State} : ∀ t, Leads s t → Leads s (f t) :=
  fun t before => before.trans (h t)

theorem Leads.draws {s t : State} (h : Leads s t) (n : Nat) : Leads s { t with draws := n } := h

theorem Leads.ite {s a b : State} {c : Prop} [Decidable c] (yes : c → Leads s a) (no : ¬c → Leads s b) :
    Leads s (if c then a else b) := by
  split_ifs with h
  · exact yes h
  · exact no h

/-! ### Notes, writes and pre-erases -/

theorem raise_leads (n : Notice) (s : State) : Leads s (raise n s) := .of_view rfl

theorem updPort_leads (p : Port) (f : PortState → PortState) (s : State) : Leads s (s.updPort p f) :=
  .of_frame (by simp) (by simp) (by simp)

theorem evalBand_leads (s : State) : Leads s (evalBand s) := .of_frame (by simp) (by simp) (by simp)

theorem requestCheckpoint_notes (c : Cause) (s : State) : s.hst.NotesOnly (requestCheckpoint c s).hst := by
  unfold requestCheckpoint
  split_ifs <;> rfl

theorem requestCheckpoint_leads (c : Cause) (s : State) : Leads s (requestCheckpoint c s) :=
  .of_notes (requestCheckpoint_notes c s) (by simp) (by simp) (by simp) (by simp)

theorem Leads.requestCheckpoint {s t : State} (h : Leads s t) (c : Cause) : Leads s (Machine.requestCheckpoint c t) :=
  h.trans (requestCheckpoint_leads c t)

theorem failCheckpoints_leads (s : State) : Leads s (failCheckpoints s) := .of_notes rfl rfl rfl rfl rfl

theorem withdrawLost_leads (s : State) : Leads s (withdrawLost s) := by
  unfold withdrawLost
  exact .ite (fun _ => .of_notes rfl rfl rfl rfl rfl) fun _ => .refl s

theorem logPreErase_leads (s : State) : Leads s (updHst Hst.judgeLogPreErase s) := .move .logPreErase

/-- The ring's judgement enters a used sector of the ring, or marks the checkpoint area (R151). -/
theorem judgeRing_cases (s : State) : s.hst.NotesOnly (judgeRing s).hst ∨
    ∃ x < 4, Store.sectorBlank s.hst.store x = false ∧ (judgeRing s).hst = s.hst.enterErase x := by
  by_cases another : s.hst.nextRing s.hst.ckptSector = s.hst.ckptSector
  · rw [judgeRing_alone another]
    split_ifs <;> exact .inl rfl
  · rw [judgeRing_goesOn another]
    split_ifs with due
    · refine .inr ⟨_, ?_, due.2, rfl⟩
      have inRing := (nextSector_cases s.hst 0 4 s.hst.ckptSector).resolve_left another
      simpa [Hst.nextRing] using inRing.2.1
    · exact .inl rfl

/-- The ring's judgement, whatever the rest of the view holds. -/
theorem judgeRing_moves {s : State} {v : StoreView} (hst : v.hst = s.hst) :
    StoreMove v { v with hst := (judgeRing s).hst } := by
  rcases judgeRing_cases s with only | ⟨x, ring, used, entered⟩
  · exact .notes (hst ▸ only)
  · rw [entered, ← hst]
    exact .ringPreErase ring (hst ▸ used)

theorem judgeRing_leads (s : State) : Leads s (judgeRing s) := by
  refine .move ?_
  have move := judgeRing_moves (s := s) (v := s.view) rfl
  simpa [State.view] using move

theorem Leads.judgeRing {s t : State} (h : Leads s t) : Leads s (Machine.judgeRing t) := h.trans (judgeRing_leads t)

/-- An update of the image writes, whose sectors stay among those written or are image sectors. -/
theorem writes_leads {s t : State} (waiting : List CalWrite) (job : Option CalJob)
    (view : t.view = { s.view with hst := { s.hst with calWaiting := waiting, calJob := job } })
    (images : ∀ w ∈ waiting, 10 ≤ w.sector ∨ w.sector ∈ s.hst.writeSectors)
    (image : ∀ j ∈ job, j.sector ∈ s.hst.writeSectors) : Leads s t := by
  refine .move ?_
  rw [view]
  exact .writes waiting job images image

theorem mem_writeSectors (h : Hst) (x : Nat) :
    x ∈ h.writeSectors ↔ (∃ w ∈ h.calWaiting, w.sector = x) ∨ ∃ j, h.calJob = some j ∧ j.sector = x := by
  simp [Hst.writeSectors]

theorem waiting_mem_writeSectors {h : Hst} {w : CalWrite} (mem : w ∈ h.calWaiting) : w.sector ∈ h.writeSectors :=
  (mem_writeSectors h _).mpr (.inl ⟨w, mem, rfl⟩)

theorem job_mem_writeSectors {h : Hst} {j : CalJob} (job : h.calJob = some j) : j.sector ∈ h.writeSectors :=
  (mem_writeSectors h _).mpr (.inr ⟨j, job, rfl⟩)

/-- A change of the write in progress that leaves its sector. -/
theorem map_job_mem {h : Hst} {f : CalJob → CalJob} (sector : ∀ j, (f j).sector = j.sector) :
    ∀ j ∈ h.calJob.map f, j.sector ∈ h.writeSectors := by
  intro j mem
  obtain ⟨k, job, rfl⟩ := Option.map_eq_some_iff.mp mem
  exact sector k ▸ job_mem_writeSectors job

/-! ### Image writes and activations (R64, R71, R76) -/

theorem writeSector_ge (c : Cal) : 10 ≤ c.writeSector := by
  unfold Cal.writeSector
  split_ifs <;> omega

theorem requestImage_leads (s : State) : Leads s (requestImage s) := by
  unfold requestImage
  refine .ite (fun _ => .of_view rfl) fun _ => writes_leads _ _ rfl (fun w mem => ?_) fun j => job_mem_writeSectors
  split_ifs at mem
  · obtain ⟨x, old, rfl⟩ := List.mem_map.mp mem
    split_ifs
    · exact .inl (writeSector_ge s.cal)
    · exact .inr (waiting_mem_writeSectors old)
  · rcases List.mem_append.mp mem with old | new
    · exact .inr (waiting_mem_writeSectors old)
    · obtain rfl := List.mem_singleton.mp new
      exact .inl (writeSector_ge s.cal)

theorem passiveEdit_leads (c : Calendar) (s : State) : Leads s (passiveEdit c s) := by
  unfold passiveEdit
  dsimp only
  set u := updHst _ _ with hu
  have edited : Leads s u := by
    refine writes_leads _ _ rfl (fun w mem => ?_) (map_job_mem fun j => ?_)
    · exact .inr (waiting_mem_writeSectors (List.mem_of_mem_filter mem))
    · split_ifs <;> rfl
  exact .ite (fun _ => edited.requestCheckpoint _) fun _ => edited

theorem activate_leads (s : State) : Leads s (activate s) := by
  unfold activate
  split
  · exact .refl s
  · refine Leads.trans ?_ (requestCheckpoint_leads _ _)
    refine Leads.trans ?_ (raise_leads _ _)
    refine Leads.trans ?_ (evalBand_leads _)
    refine writes_leads _ _ rfl (fun w mem => ?_) (map_job_mem fun j => rfl)
    obtain ⟨x, old, rfl⟩ := List.mem_map.mp mem
    have sector : x.sector ∈ s.hst.writeSectors := waiting_mem_writeSectors old
    exact .inr sector

/-! ### Closes (R81 to R92) -/

theorem periodOpened_leads (o : CloseOrder) {k : Nat} {s : State} (can : closable k s) :
    Leads s (periodOpened o k s) := by
  obtain ⟨run, -, -, granted⟩ := can
  have closes := StoreMove.closes (v := s.view) (snap := snapshotNow o s) run granted rfl
  exact (Relation.ReflTransGen.single closes).tail .logPreErase

theorem closeEnded_leads (o : CloseOrder) (s : State) : Leads s (closeEnded o s) := by
  rw [closeEnded_eq]
  exact .of_view rfl

theorem performClose_leads (o : CloseOrder) {k : Nat} {s : State} (can : closable k s) :
    Leads s (performClose o k s) := by
  rw [performClose_eq]
  refine Leads.trans ?_ (closeEnded_leads o _)
  have opened := periodOpened_leads o can
  exact .ite (fun _ => opened.trans (activate_leads _)) fun _ => opened

theorem trigger_leads (r : Reason) (date : Option Nat) (s : State) : Leads s (trigger r date s) := by
  cases owed : s.set.owed with
  | some o =>
    rw [trigger_merges r date owed]
    exact .of_view rfl
  | none =>
    by_cases can : ∃ k, closable k s
    · obtain ⟨k, can⟩ := can
      rw [trigger_performs r date owed can]
      exact performClose_leads _ can
    · rw [trigger_defers r date owed (not_exists.mp can)]
      exact .of_view rfl

theorem retryOwed_leads (s : State) : Leads s (retryOwed s) := by
  by_cases can : ∃ o k, s.set.owed = some o ∧ closable k s
  · obtain ⟨o, k, owed, can⟩ := can
    rw [retryOwed_performs owed can]
    exact performClose_leads _ can
  · have waits : s.set.owed = none ∨ ∀ k, ¬closable k s := by
      cases owed : s.set.owed with
      | none => exact .inl rfl
      | some o => exact .inr fun k closes => can ⟨o, k, owed, closes⟩
    rw [retryOwed_waits waits]
    exact .refl s

theorem retryIf_leads (b : Bool) (s : State) : Leads s (if b then retryOwed s else s) :=
  .ite (fun _ => retryOwed_leads s) fun _ => .refl s

theorem localMidnight_leads (s : State) : Leads s (localMidnight s) := by
  unfold localMidnight
  dsimp only
  refine Leads.trans ?_ (retryOwed_leads _)
  exact .ite (fun _ => trigger_leads _ _ s) fun _ => .refl s

theorem stepTrigger_leads (due : Option Nat) (s : State) : Leads s (stepTrigger due s) := by
  unfold stepTrigger
  split
  · exact .ite (fun _ => .refl s) fun _ => trigger_leads _ _ s
  · exact .refl s

theorem checkActivation_leads (s : State) : Leads s (checkActivation s) := by
  unfold checkActivation
  have untimed : Leads s { s with cal := { s.cal with activation := none } } := .of_view rfl
  exact .ite (fun _ => untimed.trans (trigger_leads _ _ _)) fun _ => .refl s

/-! ### The wall-time events (R47 to R50, R72, R81, R82) -/

theorem calendarEvent_leads (s : State) : Leads s (calendarEvent s) :=
  eitherIf_keeps _ (.refl s) (fun h => h.draws _) (.then evalBand_leads) (.then checkActivation_leads)

theorem localMinute_leads (s : State) : Leads s (localMinute s) := by
  unfold localMinute
  split_ifs
  · refine anyOrder_keeps (P := Leads s) (.refl s) (fun n h => h.draws n) fun f mem => ?_
    simp only [List.mem_cons, List.not_mem_nil, or_false] at mem
    rcases mem with rfl | rfl | rfl
    · exact .then evalBand_leads
    · exact .then checkActivation_leads
    · exact .then localMidnight_leads
  · exact (evalBand_leads s).trans (localMidnight_leads _)
  · exact calendarEvent_leads s

theorem takeStep_leads (resume : Bool) (earlier : Option Nat) (s : State) : Leads s (takeStep resume earlier s) := by
  unfold takeStep
  split_ifs
  · refine anyOrder_keeps (P := Leads s) (.refl s) (fun n h => h.draws n) fun f mem => ?_
    simp only [List.mem_cons, List.not_mem_nil, or_false] at mem
    rcases mem with rfl | rfl | rfl | rfl
    · exact .then evalBand_leads
    · exact .then checkActivation_leads
    · exact .then (stepTrigger_leads _)
    · exact .then (retryIf_leads _)
  · exact eitherIf_keeps (P := Leads s) _ (evalBand_leads s) (fun h => h.draws _) (.then (stepTrigger_leads _))
      (.then (retryIf_leads _))

theorem capExpiry_leads (s : State) : Leads s (capExpiry s) := .of_frame (by simp) (by simp) (by simp)

theorem stepEvent_leads (resume : Bool) (earlier : Option Nat) (s : State) : Leads s (stepEvent resume earlier s) :=
  (capExpiry_leads s).trans (takeStep_leads resume earlier _)

theorem markCountEnd_period (before : Tim) (s : State) : (markCountEnd before s).reg.period = s.reg.period := by
  unfold markCountEnd
  split_ifs <;> rfl

theorem secondTick_leads (s : State) : Leads s (secondTick s) := by
  unfold secondTick
  dsimp only
  set u := markCountEnd _ _ with hu
  have counted : Leads s u := .of_frame (by simp [hu]) (by simp [hu, markCountEnd_period]) (by simp [hu])
  refine .ite (fun _ => counted.trans ?_) fun _ => counted
  unfold secondInRun secondEvents
  dsimp only
  refine .ite (fun _ => stepEvent_leads _ _ u) fun _ => .ite (fun _ => ?_) fun _ => .refl u
  exact .ite (fun _ => (capExpiry_leads u).trans (localMinute_leads _)) fun _ => capExpiry_leads u

end Sys2Proof.Machine
end

section
/-! PROOFS. What a step does to the History Store, continued: the log scan's index, the store engine, the resets, the
supply, recovery, the requests, and the step. -/
namespace Sys2Proof.Machine
open Sys2Proof.Claim

/-! ### The index of the log scan and the period after reconciliation (R175, R177) -/

/-- Every pair of the scanned index names a slot that holds the snapshot of its number. -/
theorem scanLog_index_held {h : Hst} {x : Nat × Nat} (mem : x ∈ h.scanLog.index) :
    ∃ r, Store.at h.store x.2 = some (.snapshot r) ∧ r.number = x.1 := by
  unfold Hst.scanLog at mem
  split at mem
  · obtain ⟨pre, r, post, slots, number, -⟩ := (mem_joinIndex _ x.1 x.2).mp mem
    have slot : (x.2, r) ∈ logSlots h.store (scanOrder _) := slots ▸ List.mem_append_right _ (.head _)
    exact ⟨r, ((mem_logSlots _ _ _ _).mp slot).2, number⟩
  · cases mem

theorem scanLog_index_ascending (h : Hst) : h.scanLog.index.Pairwise fun a b => a.1 < b.1 := by
  unfold Hst.scanLog
  split
  · exact joinIndex_ascending _
  · exact .nil

theorem snapshotAt_eq_some_iff (m : Store) (k : Nat) (r : Snapshot) :
    snapshotAt m k = some r ↔ Store.at m k = some (.snapshot r) := by
  unfold snapshotAt
  split
  next x slot => simp [slot]
  next other => exact ⟨fun h => (by cases h), fun h => (other r h).elim⟩

theorem mem_newerSnapshots {h : Hst} {n : Nat} {r : Snapshot} :
    r ∈ h.newerSnapshots n ↔ ∃ x ∈ h.index, n ≤ x.1 ∧ snapshotAt h.store x.2 = some r := by
  simp [Hst.newerSnapshots, and_assoc]

/-- Reconciliation leaves the open period numbered above every snapshot of the index. -/
theorem reconcile_period {s : State} (ascending : s.hst.index.Pairwise fun a b => a.1 < b.1)
    (held : ∀ x ∈ s.hst.index, ∃ r, Store.at s.hst.store x.2 = some (.snapshot r) ∧ r.number = x.1) :
    ∀ x ∈ s.hst.index, x.1 < (reconcile s).reg.period := by
  intro x mem
  have newer {y : Nat × Nat} (inIndex : y ∈ s.hst.index) (open' : s.reg.period ≤ y.1) :
      ∃ r ∈ s.hst.newerSnapshots s.reg.period, r.number = y.1 := by
    obtain ⟨r, slot, number⟩ := held y inIndex
    exact ⟨r, mem_newerSnapshots.mpr ⟨y, inIndex, open', (snapshotAt_eq_some_iff _ _ _).mpr slot⟩, number⟩
  have sorted : (s.hst.newerSnapshots s.reg.period).Pairwise fun a b => a.number < b.number := by
    refine List.Pairwise.filterMap _ (R := fun a b : Nat × Nat => a.1 < b.1 ∧ a ∈ s.hst.index ∧ b ∈ s.hst.index)
      ?_ ?_
    · rintro a b ⟨less, aIn, bIn⟩ r hr q hq
      obtain ⟨r', slot, number⟩ := held a aIn
      obtain ⟨q', slot', number'⟩ := held b bIn
      obtain rfl := Option.some.inj (hr.symm.trans ((snapshotAt_eq_some_iff _ _ _).mpr slot))
      obtain rfl := Option.some.inj (hq.symm.trans ((snapshotAt_eq_some_iff _ _ _).mpr slot'))
      omega
    · exact (ascending.imp_of_mem fun aIn bIn less => ⟨less, aIn, bIn⟩).filter _
  cases last : (s.hst.newerSnapshots s.reg.period).getLast? with
  | none =>
    have kept : (reconcile s).reg.period = s.reg.period := by simp [reconcile, last]
    rw [kept]
    by_contra notBelow
    obtain ⟨r, mem, -⟩ := newer mem (Nat.le_of_not_lt notBelow)
    rw [List.getLast?_eq_none_iff.mp last] at mem
    cases mem
  | some r =>
    have advanced : (reconcile s).reg.period = r.number + 1 := by simp [reconcile, last, RegBank.reconcile]
    obtain ⟨before, list⟩ := List.getLast?_eq_some_iff.mp last
    have highest {q : Snapshot} (mem : q ∈ s.hst.newerSnapshots s.reg.period) : q.number ≤ r.number := by
      rw [list] at mem sorted
      rcases List.mem_append.mp mem with earlier | same
      · exact Nat.le_of_lt ((List.pairwise_append.mp sorted).2.2 q earlier r (by simp))
      · rw [List.mem_singleton.mp same]
    have some_newer : s.reg.period ≤ r.number := by
      have newest : r ∈ s.hst.newerSnapshots s.reg.period := by simp [list]
      obtain ⟨y, inIndex, open', slot⟩ := mem_newerSnapshots.mp newest
      obtain ⟨q, at_q, number⟩ := held y inIndex
      obtain rfl := Option.some.inj (slot.symm.trans ((snapshotAt_eq_some_iff _ _ _).mpr at_q))
      omega
    rw [advanced]
    by_cases open' : s.reg.period ≤ x.1
    · obtain ⟨q, inNewer, number⟩ := newer mem open'
      have := highest inNewer
      omega
    · omega

/-! ### The store engine (R154) -/

theorem nextErase_leads {s : State} (run : s.sup.supply = .run) (free : s.hst.engine = .idle)
    (none : s.hst.suspended = none) (noRead : s.hst.reads = []) : Leads s (updHst Hst.nextErase s) := by
  cases found : s.hst.eraseList.find? fun x => !s.hst.locked x with
  | none =>
    rw [updHst, nextErase_none fun y listed => by simpa using List.find?_eq_none.mp found y listed]
    exact .refl s
  | some x =>
    have may : s.hst.MayErase x := .inl ⟨List.mem_of_find?_eq_some found, by simpa using List.find?_some found⟩
    have begun : s.hst.nextErase = s.hst.beginErase x := by rw [Hst.nextErase, found]
    rw [updHst, begun]
    exact .move (.erases run free none noRead may)

theorem beginErase_writeSectors (x : Nat) (h : Hst) : (h.beginErase x).writeSectors = h.writeSectors := by
  simp [Hst.writeSectors]

/-- The write that is granted, as its erase begins (R153). -/
def CalWrite.granted (w : CalWrite) (c : Cal) : CalJob :=
  { sector := w.sector, ofActive := w.ofActive, grantedActive := w.ofActive, edited := false, content := w.content c,
    parts := (w.content c).parts, next := 1, slot := 0, failed := false, erasing := true }

theorem grantWrite_leads {s : State} {w : CalWrite} {rest : List CalWrite} (run : s.sup.supply = .run)
    (free : s.hst.engine = .idle) (none : s.hst.suspended = none) (noRead : s.hst.reads = [])
    (waiting : s.hst.calWaiting = w :: rest) : Leads s (grantWrite w rest s) := by
  have mine : w.sector ∈ s.hst.writeSectors := waiting_mem_writeSectors (by simp [waiting])
  have begins : StoreMove s.view { s.view with hst := s.hst.beginErase w.sector } :=
    .erases run free none noRead (.inr mine)
  refine (Relation.ReflTransGen.single begins).tail (.writes rest (some (w.granted s.cal)) (fun x mem => .inr ?_)
    fun j new => ?_)
  · rw [beginErase_writeSectors]
    exact waiting_mem_writeSectors (by simp [waiting, mem])
  · obtain rfl := Option.some.inj new
    rw [beginErase_writeSectors]
    exact mine

theorem arbitrateRun_leads {s : State} (run : s.sup.supply = .run) (free : s.hst.engine = .idle)
    (noRead : s.hst.reads = []) : Leads s (arbitrateRun s) := by
  unfold arbitrateRun
  split
  next x suspended => exact .move (.resumes free suspended)
  next none =>
    split
    · exact .ite (fun _ => nextErase_leads run free none noRead) fun _ => .move (.starts (e := .part) free trivial)
    next waiting => exact grantWrite_leads run free none noRead waiting
    · exact nextErase_leads run free none noRead

theorem grantCheckpoint_leads {s : State} {p : Nat} (free : s.hst.engine = .idle)
    (position : s.hst.nextPosition = some p) : Leads s (grantCheckpoint p s) := by
  unfold grantCheckpoint
  have starts (c : Checkpoint) (r : Bool) : StoreMove s.view { s.view with
      hst := { s.hst with engine := .checkpoint c p r } } := .starts free position
  split
  · exact (Relation.ReflTransGen.single (starts _ _)).tail (.notes rfl)
  · split
    · exact (Relation.ReflTransGen.single (starts _ _)).tail (.notes rfl)
    · exact .refl s

theorem waitingRead_mayStart {s : State} {who : Reader} {k : Nat} (read : waitingRead s = some (who, k)) :
    s.view.MayStart (.read who k) := by
  unfold waitingRead at read
  split at read
  next unread =>
    cases read
    exact fun none => by cases unread.symm.trans none
  next =>
    split at read
    next reads =>
      cases read
      rw [StoreView.MayStart, State.view, reads]
      exact List.mem_cons_self
    next => cases read

theorem arbitrate_leads (s : State) : Leads s (arbitrate s) := by
  by_cases free : s.hst.engine = .idle ∧ s.sup.supply ≠ .down
  · cases read : waitingRead s with
    | some r =>
      rw [arbitrate_read free read]
      exact .move (.starts free.1 (waitingRead_mayStart read))
    | none =>
      cases snap : s.hst.snapEligible with
      | true =>
        rw [arbitrate_snapshot free read snap]
        have working : s.hst.logFailed = false := by simp_all [Hst.snapEligible]
        exact .move (.starts free.1 working)
      | false =>
        cases ckpt : s.hst.ckptEligible with
        | true =>
          have available : s.hst.nextPosition.isSome = true := by simp_all [Hst.ckptEligible]
          obtain ⟨p, position⟩ := Option.isSome_iff_exists.mp available
          rw [arbitrate_checkpoint free read snap ckpt position]
          exact grantCheckpoint_leads free.1 position
        | false =>
          rw [arbitrate_rest free read snap ckpt]
          have noRead := ((waitingRead_eq_none_iff s).mp read).2
          exact .ite (fun run => arbitrateRun_leads run free.1 noRead) fun _ => .refl s
  · rw [arbitrate_busy free]
    exact .refl s

/-! ### Resets and the end of a command (R156, R170, R171) -/

theorem resetWith_leads (utc subMs : Nat) (valid : Bool) (s : State) : Leads s (resetWith utc subMs valid s) :=
  .move (.resets (tornStore s))

theorem resetEngine_leads (s : State) : Leads s (resetEngine s) := resetWith_leads _ _ _ s

theorem powerOn_leads (s : State) : Leads s (powerOn s) :=
  .ite (fun _ => resetEngine_leads s) fun _ => resetWith_leads _ _ _ s

theorem supplyLost_leads (s : State) : Leads s (supplyLost s) := (resetEngine_leads s).trans (.of_view rfl)

theorem finish_leads (s : State) : Leads s (finish s) := by
  unfold finish
  refine Leads.trans ?_ (withdrawLost_leads _)
  refine Leads.trans ?_ (arbitrate_leads _)
  exact .ite (fun _ => resetEngine_leads s) fun _ => .refl s

theorem Leads.finish {s t : State} (h : Leads s t) : Leads s (Machine.finish t) := h.trans (finish_leads t)

theorem Leads.command {s : State} {f : State → State} (h : Leads s (f s)) : Leads s (Machine.command f s) :=
  .ite (fun _ => h.finish) fun _ => .refl s

/-! ### The ends of programs, erases and reads (R146, R151, R153, R158 to R160) -/

theorem judgeLogPreErase_logFailed (b : Bool) (h : Hst) :
    ({ h with logFailed := b } : Hst).judgeLogPreErase = { h.judgeLogPreErase with logFailed := b } := by
  by_cases due : h.preEraseDue
  · rw [judgeLogPreErase_due due, judgeLogPreErase_due (h := { h with logFailed := b }) due]
    have same : ({ h with logFailed := b } : Hst).underErase = h.underErase := rfl
    simp only [Hst.enterErase, same, show ({ h with logFailed := b } : Hst).nextLog = h.nextLog from rfl]
    split_ifs <;> rfl
  · rw [judgeLogPreErase_rests due, judgeLogPreErase_rests (h := { h with logFailed := b }) due]

@[simp] theorem rebind_logFailed (h : Hst) : h.rebind.logFailed = h.logFailed := by
  have chosen (k : Nat) : (h.chooseSlot k).2.logFailed = h.logFailed := by
    unfold Hst.chooseSlot
    split <;> rfl
  unfold Hst.rebind
  split <;> simp [chosen]

theorem judgeLogPreErase_keeps_logFailed (h : Hst) : h.judgeLogPreErase.logFailed = h.logFailed := by
  have same := congrArg Hst.logFailed (judgeLogPreErase_logFailed h.logFailed h)
  exact same

theorem snapshotFailed_hst (e : PendingSnap) (s : State) :
    (snapshotFailed e s).hst = (s.hst.programFailed e).judgeLogPreErase := by
  simp only [Hst.programFailed, judgeLogPreErase_logFailed]
  unfold snapshotFailed
  by_cases again : 2 ≤ e.fails + 1
  · have second : 1 ≤ e.fails := by omega
    simp only [if_pos again, second, decide_true, Bool.or_true]
    rfl
  · have first : ¬1 ≤ e.fails := by omega
    simp only [if_neg again, first, decide_false, Bool.or_false, updHst_hst]
    set k := ({ s.hst with store := Store.put s.hst.store e.slot .junk, engine := .idle } : Hst).rebind with hk
    have kept : k.judgeLogPreErase.logFailed = s.hst.logFailed := by
      rw [judgeLogPreErase_keeps_logFailed, hk, rebind_logFailed]
    rw [← kept]

end Sys2Proof.Machine
end

section
/-! PROOFS. What a step does to the History Store, continued: the ends of programs, erases and reads, the supply,
recovery, the requests, and the step. -/
namespace Sys2Proof.Machine
open Sys2Proof.Claim

/-! ### The ends of programs, erases and reads (R146, R151, R153, R158 to R160), continued -/

theorem failLog_leads {s : State} (free : s.hst.engine ≠ .snapshot) : Leads s (failLog s) := .move (.logFails free)

theorem snapshotProgrammed_absent {s : State} (absent : s.hst.engine ≠ .snapshot ∨ s.hst.queue = []) (valid : Bool) :
    snapshotProgrammed valid s = s := by
  unfold snapshotProgrammed
  split
  next engine oldest => rcases absent with h | h <;> simp [engine, oldest] at h
  next => rfl

theorem snapshotProgrammed_eq {s : State} {e : PendingSnap} {rest : List PendingSnap}
    (engine : s.hst.engine = .snapshot) (oldest : s.hst.queue = e :: rest) (valid : Bool) :
    snapshotProgrammed valid s = if valid then snapshotDone e rest s else snapshotFailed e s := by
  simp only [snapshotProgrammed, engine, oldest]

theorem snapshotProgrammed_leads (valid : Bool) (s : State) : Leads s (snapshotProgrammed valid s) := by
  by_cases engine : s.hst.engine = .snapshot
  · cases oldest : s.hst.queue with
    | nil =>
      rw [snapshotProgrammed_absent (.inr oldest)]
      exact .refl s
    | cons e rest =>
      rw [snapshotProgrammed_eq engine oldest]
      refine .ite (fun _ => ?_) fun _ => ?_
      · have done : Leads s (updHst (fun h => { h with
            store := Store.put h.store e.slot (.snapshot e.snap), queue := rest,
            index := h.index ++ [(e.snap.number, e.slot)], engine := .idle }) s) :=
          .move (.programmed engine oldest)
        exact (done.trans (retryOwed_leads _)).requestCheckpoint _
      · have view : (snapshotFailed e s).view =
            { s.view with hst := (s.hst.programFailed e).judgeLogPreErase } := by
          simp [State.view, snapshotFailed_hst]
        rw [Leads, view]
        have fails := StoreMove.programFailed (v := s.view) engine oldest
        have judged := StoreMove.logPreErase (v := { s.view with hst := s.hst.programFailed e })
        exact (Relation.ReflTransGen.single fails).tail judged
  · rw [snapshotProgrammed_absent (.inl engine)]
    exact .refl s

theorem checkpointProgrammed_leads (valid0 valid1 : Bool) (s : State) :
    Leads s (checkpointProgrammed valid0 valid1 s) := by
  by_cases engine : ∃ c p r, s.hst.engine = .checkpoint c p r
  · obtain ⟨c, p, r, engine⟩ := engine
    have programmed : Leads s (updHst (Hst.programHalves c p valid0 valid1) s) := .move (.halves _ _ engine)
    rw [checkpointProgrammed_eq engine]
    refine .ite (fun _ => ?_) fun _ => .ite (fun _ => ?_) fun _ => ?_
    · exact Leads.judgeRing (programmed.trans (.of_notes rfl rfl rfl rfl rfl))
    · exact Leads.judgeRing (programmed.trans (failCheckpoints_leads _))
    · exact Leads.judgeRing (programmed.trans (.of_notes rfl rfl rfl rfl rfl))
  · rw [checkpointProgrammed_absent (by simpa using engine)]
    exact .refl s

theorem failCalendar_leads (s : State) : Leads s (failCalendar s) := by
  have ended : Leads s (updHst (fun h => { h with calJob := none, calWaiting := [] }) s) :=
    writes_leads [] none rfl (by simp) (by simp)
  exact ended.trans (.of_notes rfl rfl rfl rfl rfl)

theorem writeEnded_leads (s : State) : Leads s (writeEnded s) :=
  writes_leads _ none rfl (fun _ mem => .inr (waiting_mem_writeSectors mem)) (by simp)

theorem writeComplete_leads (j : CalJob) (s : State) : Leads s (writeComplete j s) := by
  unfold writeComplete
  refine .ite (fun _ => writeEnded_leads s) fun _ => .ite (fun _ => ?_) fun _ => ?_
  · refine Leads.requestCheckpoint ?_ _
    exact .ite (fun _ => (writeEnded_leads s).trans (.of_view rfl)) fun _ => writeEnded_leads s
  · refine Leads.requestCheckpoint ?_ _
    exact (writeEnded_leads s).trans (.of_view rfl)

theorem partWritten_leads {s : State} {j : CalJob} (engine : s.hst.engine = .part) (job : s.hst.calJob = some j)
    (valid : Bool) (c : SlotContent) : Leads s (partWritten j valid c s) := by
  refine (Relation.ReflTransGen.single (StoreMove.part (v := s.view) c engine job)).tail
    (.writes s.hst.calWaiting _ (fun _ mem => .inr (waiting_mem_writeSectors mem)) fun k new => ?_)
  obtain rfl := Option.some.inj new
  have mine : j.sector ∈ s.hst.writeSectors := job_mem_writeSectors job
  exact mine

theorem partProgrammed_leads (valid : Bool) (s : State) : Leads s (partProgrammed valid s) := by
  by_cases engine : s.hst.engine = .part
  · cases job : s.hst.calJob with
    | none =>
      rw [partProgrammed_absent (.inr job)]
      exact .refl s
    | some j =>
      have written := partWritten_leads engine job valid
      rw [partProgrammed_eq engine job]
      refine .ite (fun _ => .ite (fun _ => ?_) fun _ => written _) fun _ => .ite (fun _ => ?_) fun _ => written _
      · exact (written _).trans (writeComplete_leads _ _)
      · exact (written _).trans (failCalendar_leads _)
  · rw [partProgrammed_absent (.inl engine)]
    exact .refl s

theorem areaLoses_leads {s : State} (x : Nat) (free : s.hst.engine ≠ .snapshot) : Leads s (areaLoses x s) := by
  unfold areaLoses
  refine .ite (fun _ => ?_) fun _ => .ite (fun _ => ?_) fun _ => failCalendar_leads s
  · exact .ite (fun _ => failCheckpoints_leads s) fun _ => judgeRing_leads s
  · exact .ite (fun _ => failLog_leads free) fun _ => .refl s

theorem sectorErased_leads (x : Nat) (s : State) : Leads s (sectorErased x s) := by
  have goesOn : Leads s (updHst (fun h => { h with calJob := h.calJob.map fun j =>
      if j.sector = x then { j with erasing := false } else j }) s) := by
    refine writes_leads _ _ rfl (fun _ mem => .inr (waiting_mem_writeSectors mem)) (map_job_mem fun j => ?_)
    split_ifs <;> rfl
  unfold sectorErased
  refine Leads.trans ?_ (logPreErase_leads _)
  exact .ite (fun _ => goesOn.trans (retryOwed_leads _)) fun _ => goesOn

theorem eraseDone_leads (notBlank : BitVec 16) (s : State) : Leads s (eraseDone notBlank s) := by
  by_cases engine : ∃ x, s.hst.engine = .erase x
  · obtain ⟨x, engine⟩ := engine
    have erased := StoreMove.erased (v := s.view) notBlank engine
    rw [eraseDone_eq engine]
    refine .ite (fun clean => ?_) fun dirty => ?_
    · rw [if_pos clean] at erased
      exact Leads.trans (t := erasedHst x notBlank s) (.move erased) (sectorErased_leads x _)
    · rw [if_neg dirty] at erased
      refine Leads.trans (t := raise .storeFault (updHst (fun h => { h with retired := h.retired ++ [x] })
        (erasedHst x notBlank s))) (.move erased) ?_
      exact (areaLoses_leads x Engine.noConfusion).trans (logPreErase_leads _)
  · rw [eraseDone_absent (not_exists.mp engine)]
    exact .refl s

theorem respond_leads (p : Port) (code : Nat) (st : Status) (a : Answer) (s : State) :
    Leads s (respond p code st a s) := updPort_leads _ _ s

/-- Pairs leave the index, reads are taken out, or a read of recovery is made. -/
theorem forgets_leads {s t : State} (index : List (Nat × Nat)) (reads : List (Port × Nat × Nat)) (unread : List Nat)
    (view : t.view = { s.view with hst := { s.hst with index := index, reads := reads }, unread := unread })
    (pairs : index.Sublist s.hst.index) (asked : reads.Sublist s.hst.reads) (left : unread.Sublist s.sup.unread) :
    Leads s t := by
  refine .move ?_
  rw [view]
  exact .forgets pairs asked left

theorem answerRead_leads (p : Port) (n k : Nat) (s : State) : Leads s (answerRead p n k s) := by
  unfold answerRead
  split
  · exact respond_leads _ _ _ _ s
  · refine Leads.trans ?_ (respond_leads _ _ _ _ _)
    exact forgets_leads _ s.hst.reads s.sup.unread rfl List.filter_sublist (.refl _) (.refl _)

/-- What the end of a read leaves of the store and the engine. -/
def readEnded (decayed : Bool) (k : Nat) (s : State) : State :=
  updHst (fun h => { h with engine := .idle, store := if decayed then Store.put h.store k .junk else h.store }) s

theorem readDone_recovery {s : State} {k : Nat} (engine : s.hst.engine = .read .recovery k) (decayed : Bool) :
    readDone decayed s = { readEnded decayed k s with sup := { s.sup with unread := s.sup.unread.tail } } := by
  simp only [readDone, engine]
  rfl

theorem readDone_port {s : State} {p : Port} {n k : Nat} (engine : s.hst.engine = .read (.port p n) k)
    (decayed : Bool) : readDone decayed s =
      answerRead p n k (updHst (fun h => { h with reads := h.reads.tail }) (readEnded decayed k s)) := by
  simp only [readDone, engine]
  rfl

theorem readDone_absent {s : State} (engine : ∀ who k, s.hst.engine ≠ .read who k) (decayed : Bool) :
    readDone decayed s = s := by
  unfold readDone
  split
  next who k read => exact absurd read (engine who k)
  next => rfl

theorem readDone_leads (decayed : Bool) (s : State) : Leads s (readDone decayed s) := by
  by_cases engine : ∃ who k, s.hst.engine = .read who k
  · obtain ⟨who, k, engine⟩ := engine
    have ended : Leads s (readEnded decayed k s) := .move (.read decayed engine)
    cases who with
    | recovery =>
      rw [readDone_recovery engine]
      exact ended.trans (forgets_leads s.hst.index s.hst.reads _ rfl (.refl _) (.refl _) (List.tail_sublist _))
    | port p n =>
      rw [readDone_port engine]
      refine Leads.trans (ended.trans ?_) (answerRead_leads _ _ _ _)
      exact forgets_leads s.hst.index _ s.sup.unread rfl (.refl _) (List.tail_sublist _) (.refl _)
  · rw [readDone_absent (by simpa using engine)]
    exact .refl s

theorem eraseSuspend_leads (s : State) : Leads s (if suspendDue s then updHst Hst.suspendErase s else s) :=
  .ite (fun _ => .move .suspends) fun _ => .refl s

theorem passTo_leads (t : Nat) (s : State) : Leads s (passTo t s) := .of_frame (by simp) (by simp) (by simp)

/-- The interval has ended at a run time (R164). -/
theorem intervalFired_leads (n : Nat) (s : State) :
    Leads s (updHst (fun h => { h with periodicFired := true }) (passTo n s)) :=
  (passTo_leads n s).trans (.of_notes rfl rfl rfl rfl rfl)

theorem intervalEnds_leads (s : State) : Leads s (intervalEnds s) :=
  .ite (fun _ => .refl s) fun _ => (intervalFired_leads (s.hst.periodicFrom + 900000) s).requestCheckpoint _

/-! ### Changes of the supply state (R165 to R169) -/

theorem setSupply_leads {s : State} {u : Supply} (left : u ≠ .starting) (run : s.sup.supply ≠ .starting) :
    Leads s (setSupply u s) := .move (.supply left (.inl run))

/-- STARTING is left once recovery is done and reads no more. -/
theorem setSupply_recovered {s : State} {u : Supply} (left : u ≠ .starting) (done : s.sup.stage = .done)
    (unread : s.sup.unread = []) (free : ∀ k, s.hst.engine ≠ .read .recovery k) : Leads s (setSupply u s) :=
  .move (.supply left (.inr ⟨done, unread, free⟩))

theorem beginCycle_leads (s : State) : Leads s (beginCycle s) := .of_frame (by simp) (by simp) (by simp)

theorem takeUpRun_leads (s : State) : Leads s (takeUpRun s) :=
  eitherIf_keeps (P := Leads s) _ (.of_view rfl) (fun h => h.draws _) (.then beginCycle_leads)
    (.then (stepEvent_leads _ _))

theorem rideThrough_leads {s : State} (run : s.sup.supply ≠ .starting) : Leads s (rideThrough s) := by
  unfold rideThrough enterRun
  refine Leads.trans ?_ (takeUpRun_leads _)
  set u := requestCheckpoint .periodic _ with hu
  have requested : Leads s u := by
    refine Leads.requestCheckpoint ?_ _
    exact .of_view rfl
  exact requested.trans (setSupply_leads nofun (by simpa [hu] using run))

theorem enterDown_leads {s : State} (run : s.sup.supply ≠ .starting) : Leads s (enterDown s) :=
  .move (.supply nofun (.inl run))

theorem enterWarning_leads {s : State} (run : s.sup.supply ≠ .starting) : Leads s (enterWarning s) := by
  have suspended : Leads s (updHst Hst.suspendErase s) := .move .suspends
  refine Leads.requestCheckpoint (suspended.trans ?_) _
  exact .move (.supply nofun (.inl run))

theorem endSequence_leads {s : State} (run : s.sup.supply ≠ .starting) : Leads s (endSequence s) :=
  .ite (fun _ => resetEngine_leads s) fun _ => .ite (fun _ => enterDown_leads run) fun _ => rideThrough_leads run

theorem mainsWarns_leads (s : State) : Leads s (mainsWarns s) := by
  have level : Leads s { s with sup := { s.sup with mainsWarn := true } } := .of_view rfl
  cases supply : s.sup.supply with
  | run =>
    rw [mainsWarns_run supply]
    exact level.trans (enterWarning_leads (by simp [supply]))
  | down =>
    rw [mainsWarns_down supply]
    exact .of_view rfl
  | starting | warning =>
    rw [mainsWarns_level (by simp [supply])]
    exact level

theorem mainsClears_leads (s : State) : Leads s (mainsClears s) := by
  unfold mainsClears
  exact .ite (fun _ => .of_view rfl) fun _ => .of_view rfl

theorem mainsLevel_leads (level : Bool) {f : State → State} {s : State} (h : Leads s (f s)) :
    Leads s (mainsLevel level f s) :=
  .ite (fun _ => .refl s) fun _ => .ite (fun _ => h.finish) fun _ => .of_view rfl

theorem supplySettles_leads (s : State) : Leads s (supplySettles s) := by
  unfold supplySettles
  split
  next t down _ =>
    exact (passTo_leads t s).trans (rideThrough_leads (by simp [down]))
  · exact .refl s

/-! ### Recovery (R172 to R179) -/

theorem endReads_hst (g : Stage) (l : List Nat) (s : State) : (endReads g l s).hst = s.hst.readsEnded := rfl

theorem readsEnded_free (h : Hst) (k : Nat) : h.readsEnded.engine ≠ .read .recovery k := by
  unfold Hst.readsEnded
  split
  · exact Engine.noConfusion
  next other => exact other k

theorem firstBlankRing_lt (m : Store) : firstBlankRing m < 4 := by
  unfold firstBlankRing
  cases found : (List.range 4).find? fun x => Store.sectorBlank m x with
  | none => exact Nat.zero_lt_succ 3
  | some x => exact List.mem_range.mp (List.mem_of_find?_eq_some found)

theorem scanRing_leads {s : State} (starting : s.sup.supply = .starting) (stage : s.sup.stage = .ring) :
    Leads s (scanRing s) := by
  have scans {x : Nat} (sector : x < 4) (period : Nat) := StoreMove.ringScanned (v := s.view) period
    ((List.range 96).map (64 + ·)) starting stage sector
  unfold scanRing
  dsimp only
  split
  next p c newest =>
    have position := ((mem_ringCheckpoints _ _ _).mp ((selectNewest_mem _).2 _ newest)).1
    refine (Relation.ReflTransGen.single (scans (x := p / 8) (by omega) c.reg.period)).tail ?_
    rw [← starting]
    exact .notes rfl
  · refine Leads.trans (t := factory _) ?_ (.ite (fun _ => raise_leads _ _) fun _ => .refl _)
    refine (Relation.ReflTransGen.single (scans (firstBlankRing_lt s.hst.store) 1)).tail ?_
    rw [← starting]
    exact .notes rfl

end Sys2Proof.Machine
end

section
/-! PROOFS. What a step does to the History Store, continued: the log scan, the end of recovery, the requests, and the
step. -/
namespace Sys2Proof.Machine
open Sys2Proof.Claim

/-! ### Recovery (R175 to R179), continued -/

theorem scanLog_fields (h : Hst) : h.scanLog.eraseList = h.eraseList ∧ h.scanLog.engine = h.engine ∧
    h.scanLog.suspended = h.suspended ∧ h.scanLog.queue = h.queue ∧ h.scanLog.reads = h.reads ∧
    h.scanLog.locks = h.locks ∧ h.scanLog.ckptSector = h.ckptSector ∧ h.scanLog.logFailed = h.logFailed := by
  unfold Hst.scanLog
  split <;> simp

@[simp] theorem enterErase_index (x : Nat) (h : Hst) : (h.enterErase x).index = h.index := by
  unfold Hst.enterErase
  split_ifs <;> rfl

@[simp] theorem judgeLogPreErase_index (h : Hst) : h.judgeLogPreErase.index = h.index := by
  by_cases due : h.preEraseDue
  · rw [judgeLogPreErase_due due, enterErase_index]
  · rw [judgeLogPreErase_rests due]

theorem NotesOnly_index {h k : Hst} (only : h.NotesOnly k) : k.index = h.index := by
  rw [only]

theorem judgeRing_index (s : State) : (judgeRing s).hst.index = s.hst.index := by
  rcases judgeRing_cases s with only | ⟨x, -, -, entered⟩
  · exact NotesOnly_index only
  · rw [entered, enterErase_index]

/-- Stages 3 before its pre-erases: the log scanned and the recovery erases entered (R175, R176). -/
def logRead (s : State) : State :=
  updHst (fun h => { h with eraseList := (List.range 12).filter (h.needsErase s.cal.designation) })
    (updHst Hst.scanLog (endReads .images ((List.range 32).map (160 + ·)) s))

theorem logRead_sup (s : State) :
    (logRead s).sup = { s.sup with stage := .images, unread := (List.range 32).map (160 + ·) } := rfl

theorem logRead_hst (s : State) : (logRead s).hst = s.hst.logScanned s.cal.designation := rfl

/-- The pre-erases have been judged behind it (R176). -/
def erasesEntered (s : State) : State := updHst Hst.judgeLogPreErase (judgeRing (logRead s))

theorem scanLog_eq (s : State) : scanLog s = markRecovered (erasesEntered s).reg.period
    (!((erasesEntered s).hst.newerSnapshots (erasesEntered s).reg.period).isEmpty) (reconcile (erasesEntered s)) := rfl

theorem reconcile_notes (s : State) : s.hst.NotesOnly (reconcile s).hst := by
  unfold reconcile
  dsimp only
  split
  · exact requestCheckpoint_notes _ _
  · rfl

theorem markRecovered_leads (n : Nat) (applied : Bool) (s : State) : Leads s (markRecovered n applied s) :=
  .of_notes rfl rfl (by simp) (by simp) (by simp)

/-- The view of a store whose recovery has come to the images (R172). -/
def Hst.inImages (period : Nat) (unread : List Nat) (h : Hst) : StoreView :=
  { hst := h, period := period, stage := .images, supply := .starting, unread := unread }

theorem inImages_judgeRing (period : Nat) (unread : List Nat) (s : State) :
    StoreMove (s.hst.inImages period unread) ((judgeRing s).hst.inImages period unread) := judgeRing_moves rfl

theorem inImages_preErase (period : Nat) (unread : List Nat) (h : Hst) :
    StoreMove (h.inImages period unread) (h.judgeLogPreErase.inImages period unread) := .logPreErase

theorem inImages_notes (period : Nat) (unread : List Nat) {h k : Hst} (only : h.NotesOnly k) :
    StoreMove (h.inImages period unread) (k.inImages period unread) := .notes only

theorem scanLog_leads {s : State} (starting : s.sup.supply = .starting) (stage : s.sup.stage = .log) :
    Leads s (scanLog s) := by
  set t := erasesEntered s with ht
  have index : t.hst.index = (s.hst.logScanned s.cal.designation).index := by
    rw [ht, erasesEntered, updHst_hst, judgeLogPreErase_index, judgeRing_index, logRead_hst]
  have store : t.hst.store = s.hst.readsEnded.store := by
    rw [ht, erasesEntered, updHst_hst, (judgeLogPreErase_images _).1, (judgeRing_images _).1, logRead_hst]
    exact Hst.scanLog_store _
  have below : ∀ x ∈ (s.hst.logScanned s.cal.designation).index, x.1 < (reconcile t).reg.period := by
    rw [← index]
    refine reconcile_period ?_ ?_
    · rw [index]
      exact scanLog_index_ascending _
    · rw [index, store]
      exact fun x mem => scanLog_index_held mem
  generalize hperiod : (reconcile t).reg.period = period at below
  generalize hasked : (List.range 32).map (160 + ·) = asked
  have scanned : StoreMove s.view ((logRead s).hst.inImages period asked) := by
    rw [logRead_hst]
    exact .logScanned _ _ starting stage below
  have judged := ((Relation.ReflTransGen.single scanned).tail (inImages_judgeRing _ _ _)).tail (inImages_preErase _ _ _)
  have reconciled := judged.tail (inImages_notes period asked (reconcile_notes t))
  have view : (reconcile t).view = (reconcile t).hst.inImages period asked := by
    have sup : (reconcile t).sup = { s.sup with stage := .images, unread := asked } := by
      simp only [ht, erasesEntered, reconcile_frame, updHst_frame, judgeRing_frame, logRead_sup, hasked]
    simp only [State.view, Hst.inImages, sup, starting, hperiod]
  have leads : Leads s (reconcile t) := by
    rw [Leads, view]
    exact reconciled
  rw [scanLog_eq]
  exact leads.trans (markRecovered_leads _ _ _)

@[simp] theorem foldActive_period (s : State) : (foldActive s).reg.period = s.reg.period := rfl

/-- Recovery has loaded the images and established the running states, still in STARTING (R179). -/
theorem loaded_leads {s : State} (starting : s.sup.supply = .starting) (stage : s.sup.stage = .images) :
    Leads s (establish (foldActive (loadPassive (loadActive (endReads .done [] s))))) := by
  have read : Leads s (endReads .done [] s) := .move (.imagesLoaded starting stage)
  exact read.trans (.of_frame (by simp) (by simp) (by simp))

theorem leaveStarting_leads {s : State} (done : s.sup.stage = .done) (unread : s.sup.unread = [])
    (free : ∀ k, s.hst.engine ≠ .read .recovery k) : Leads s (leaveStarting s) := by
  have leaves {u : Supply} (left : u ≠ .starting) : Leads s (setSupply u s) :=
    setSupply_recovered left done unread free
  refine .ite (fun _ => .ite (fun _ => ?_) fun _ => ?_) fun _ => ?_
  · exact (leaves (u := .warning) nofun).requestCheckpoint _
  · exact (leaves (u := .down) nofun).trans (.of_view rfl)
  · exact (leaves (u := .run) nofun).trans (takeUpRun_leads _)

theorem loadCalendars_leads {s : State} (starting : s.sup.supply = .starting) (stage : s.sup.stage = .images) :
    Leads s (loadCalendars s) := by
  refine (loaded_leads starting stage).trans (leaveStarting_leads (by simp) ?_ fun k => ?_)
  · simp [endReads]
  · simpa [endReads_hst] using readsEnded_free s.hst k

theorem atStage_leads {s : State} {g : Stage} {f : State → State}
    (h : s.sup.supply = .starting → s.sup.stage = g → Leads s (f s)) : Leads s (atStage g f s) :=
  .ite (fun due => h due.1 due.2) fun _ => .refl s

/-! ### The requests on the store and the calendars (R63 to R73, R149, R150, R157) -/

theorem Leads.setting {s t : State} (h : Leads s t) : Leads s (Machine.setting t) := h.requestCheckpoint _

/-- A record found in a slot is a pair of the index (R157). -/
theorem lookup_slot_mem {h : Hst} {key : SnapshotKey} {n k : Nat} (found : h.lookup key = some (n, .slot k)) :
    (n, k) ∈ h.index := by
  have held : (n, HeldAt.slot k) ∈ h.records := by
    cases key with
    | number m => exact List.mem_of_find?_eq_some found
    | offset m => exact List.mem_reverse.mp (List.mem_of_getElem? found)
  simpa [Hst.records] using held

theorem ownReadSnapshot_leads (p : Port) (key : SnapshotKey) (s : State) : Leads s (ownReadSnapshot p key s).1 := by
  unfold ownReadSnapshot
  split_ifs
  · exact .refl s
  · split
    · exact .refl s
    · exact .refl s
    next found => exact .move (.asks p (lookup_slot_mem found))

theorem ownArchive_leads (on : Bool) (l : SectorList) (s : State) : Leads s (ownArchive on l s).1 := by
  unfold ownArchive
  split
  · exact .refl s
  next named _ => exact (Relation.ReflTransGen.single (StoreMove.locks (v := s.view) on named)).tail .logPreErase

theorem edit_leads (fault : Option CalFault) (f : Calendar → Calendar) (s : State) : Leads s (edit fault f s).1 := by
  unfold edit
  split
  · exact .refl s
  · split
    · exact .refl s
    · exact passiveEdit_leads _ s

theorem scheduleImage_leads (s : State) : Leads s (scheduleImage s) :=
  .ite (fun _ => (Leads.refl s).setting) fun _ => requestImage_leads s

theorem ownPassiveActivateAt_leads (t : RawDateTime) (s : State) : Leads s (ownPassiveActivateAt t s).1 := by
  unfold ownPassiveActivateAt
  split_ifs
  · split
    · exact .refl s
    · split
      · exact .refl s
      · dsimp only
        set u := cancelOwedActivation _ with hu
        have timed : Leads s u := .of_view rfl
        refine Leads.trans (Leads.trans ?_ (scheduleImage_leads _)) (checkActivation_leads _)
        exact .ite (fun _ => timed.setting) fun _ => timed
  · exact .refl s

theorem ownPassiveActivateNow_leads (s : State) : Leads s (ownPassiveActivateNow s).1 := by
  unfold ownPassiveActivateNow
  split
  · exact .refl s
  · split
    · exact .refl s
    · dsimp only
      have untimed : Leads s { s with cal := { s.cal with activation := none } } := .of_view rfl
      set u := (if s.cal.persisted then _ else _ : State) with hu
      have imaged : Leads s u := by
        rw [hu]
        exact .ite (fun _ => untimed) fun _ => untimed.trans (requestImage_leads _)
      have triggered := imaged.trans (trigger_leads .calendar none u)
      split_ifs
      · exact triggered
      · exact triggered

/-! ### The requests on time, the lines and settlement (R44 to R49, R59 to R62, R79, R83) -/

theorem ownSetTime_leads (t : Nat) (s : State) : Leads s (ownSetTime t s).1 := by
  have moved : Leads s (raise .time { s with tim := { s.tim with utc := t, subMs := 0, valid := true } }) :=
    .of_view rfl
  by_cases h : timeInRange t = true
  · rw [ownSetTime_inRange s h]
    exact moved.trans (stepEvent_leads _ _ _)
  · rw [ownSetTime_outOfRange s h]
    exact .refl s

theorem ownSetLocalOffset_leads (o : Option Int) (s : State) : Leads s (ownSetLocalOffset o s).1 := by
  cases o with
  | none => exact .refl s
  | some o =>
    have moved : Leads s (raise .time { s with tim := { s.tim with offset := o } }) := .of_view rfl
    by_cases h : offsetInRange o = true
    · by_cases stays : o = s.tim.offset
      · subst stays
        rw [ownSetLocalOffset_same s h]
        exact (Leads.refl s).setting
      · rw [ownSetLocalOffset_moved h stays]
        exact (moved.trans (stepEvent_leads _ _ _)).setting
    · rw [ownSetLocalOffset_outOfRange s h]
      exact .refl s

theorem overrideChange_leads (s : State) : Leads s (overrideChange s) := .of_frame (by simp) (by simp) (by simp)

theorem updLine_leads (i : Fin 2) (f : OvLine → OvLine) (s : State) : Leads s (updLine i f s) :=
  .of_frame (by simp) (by simp) (by simp)

theorem ownSetOverrideMap_leads (m : Option (Vector RawMapEntry 4)) (s : State) :
    Leads s (ownSetOverrideMap m s).1 := by
  unfold ownSetOverrideMap
  split
  · exact .refl s
  · split
    · exact .refl s
    · refine Leads.setting (Leads.trans ?_ (overrideChange_leads _))
      exact .of_view rfl

theorem ownSetOverrideSource_leads (line : Nat) (source : Option Nat) (s : State) :
    Leads s (ownSetOverrideSource line source s).1 := by
  unfold ownSetOverrideSource
  split
  · exact .refl s
  · exact (updLine_leads _ _ s).setting

theorem ownSetOverride_leads (line value : Nat) (s : State) : Leads s (ownSetOverride line value s).1 := by
  unfold ownSetOverride
  split_ifs
  · exact (updLine_leads _ _ s).setting
  · exact .refl s

theorem ownSetSettlement_leads (mode cap day : Option Nat) (s : State) :
    Leads s (ownSetSettlement mode cap day s).1 := by
  unfold ownSetSettlement
  dsimp only
  split_ifs
  · exact .refl s
  · exact .refl s
  · exact .of_view rfl
  · refine Leads.setting ?_
    exact .of_view rfl

theorem ownClosePeriod_leads (s : State) : Leads s (ownClosePeriod s).1 := by
  unfold ownClosePeriod
  split_ifs
  · exact .refl s
  · dsimp only
    split <;> exact trigger_leads .commanded none s

/-! ### The requests that only ask for a checkpoint -/

theorem ownSetNettingMethod_leads (m : Option Nat) (s : State) : Leads s (ownSetNettingMethod m s).1 := by
  unfold ownSetNettingMethod
  split
  · exact .refl s
  · refine Leads.setting ?_
    exact .of_view rfl

theorem setCap_leads (src : CapSource) (limit hyst : Nat) (expiry : Option Nat) (s : State) :
    Leads s (setCap src limit hyst expiry s).1 := by
  unfold setCap
  split_ifs
  · refine Leads.setting ?_
    exact .of_frame (by simp) (by simp) (by simp)
  · exact .refl s

theorem clearCap_leads (src : CapSource) (s : State) : Leads s (clearCap src s).1 := by
  unfold clearCap
  split_ifs
  · refine Leads.setting ?_
    exact .of_frame (by simp) (by simp) (by simp)
  · exact .refl s

theorem ownSetCapControl_leads (fsc enable trip hold : Option Nat) (s : State) :
    Leads s (ownSetCapControl fsc enable trip hold s).1 := by
  unfold ownSetCapControl
  dsimp only
  split_ifs
  · exact .refl s
  · refine Leads.setting ?_
    exact .of_frame (by simp) (by simp) (by simp)
  · exact .refl s

theorem ownSetUnitConfig_leads (unit : Nat) (enable slot maskOff : Option Nat) (s : State) :
    Leads s (ownSetUnitConfig unit enable slot maskOff s).1 := by
  unfold ownSetUnitConfig
  split
  · split
    · exact .refl s
    · split
      · exact .refl s
      · split
        · exact .refl s
        · dsimp only
          split
          · exact .refl s
          · refine Leads.setting ?_
            exact .of_frame (by simp) (by simp) (by simp)
  · exact .refl s

theorem ownSetUnitStandby_leads (unit : Nat) (standby : Option Nat) (s : State) :
    Leads s (ownSetUnitStandby unit standby s).1 := by
  unfold ownSetUnitStandby
  split_ifs
  · split
    · exact .refl s
    · split
      · refine Leads.setting ?_
        exact .of_frame (by simp) (by simp) (by simp)
      · exact .refl s
  · exact .refl s

theorem ownSetProfileWeights_leads (w : Vector (Option Nat) 4) (s : State) :
    Leads s (ownSetProfileWeights w s).1 := by
  unfold ownSetProfileWeights
  dsimp only
  split_ifs
  · exact .refl s
  · refine Leads.setting ?_
    exact .of_frame (by simp) (by simp) (by simp)

theorem ownSetNoticeMask_leads (p : Port) (m : Option (BitVec 16)) (s : State) :
    Leads s (ownSetNoticeMask p m s).1 := by
  unfold ownSetNoticeMask
  split
  · exact .refl s
  · split_ifs
    · exact (updPort_leads p _ s).setting
    · exact .refl s

theorem ownLock_leads (b : Bool) (s : State) : Leads s (ownLock b s).1 := by
  refine Leads.setting ?_
  exact .of_view rfl

theorem ownRestart_leads (s : State) : Leads s (ownRestart s).1 := by
  unfold ownRestart
  split_ifs
  · exact .refl s
  · refine Leads.requestCheckpoint ?_ _
    exact .of_view rfl

/-- Every owner leads on by moves of the store. -/
theorem serve_leads (p : Port) (q : Request) (s : State) : Leads s (serve p q s).1 := by
  have frames (hst : (serve p q s).1.hst = s.hst) (reg : (serve p q s).1.reg = s.reg)
      (sup : (serve p q s).1.sup = s.sup) : Leads s (serve p q s).1 := .of_frame hst (by rw [reg]) sup
  cases q with
  | setNettingMethod m => exact ownSetNettingMethod_leads m s
  | setTime t => exact ownSetTime_leads t s
  | setLocalOffset o => exact ownSetLocalOffset_leads o s
  | setOverrideSource line source => exact ownSetOverrideSource_leads line source s
  | setOverride line value => exact ownSetOverride_leads line value s
  | setOverrideMap m => exact ownSetOverrideMap_leads m s
  | passiveClear name => exact passiveEdit_leads (.empty name) s
  | passiveBands nb fb l => exact edit_leads _ _ s
  | passiveSeason i x => exact edit_leads _ _ s
  | passiveWeek i w => exact edit_leads _ _ s
  | passiveDay i d => exact edit_leads _ _ s
  | passiveSpecial i x => exact edit_leads _ _ s
  | passiveActivateAt t => exact ownPassiveActivateAt_leads t s
  | passiveActivateNow => exact ownPassiveActivateNow_leads s
  | setSettlement m k d => exact ownSetSettlement_leads m k d s
  | closePeriod => exact ownClosePeriod_leads s
  | setUtilityCap l h e => exact setCap_leads .utility l h e s
  | clearUtilityCap => exact clearCap_leads .utility s
  | setPremisesCap l h e => exact setCap_leads .premises l h e s
  | clearPremisesCap => exact clearCap_leads .premises s
  | setCapControl f e t h => exact ownSetCapControl_leads f e t h s
  | setUnitConfig u e slot m => exact ownSetUnitConfig_leads u e slot m s
  | setUnitStandby u r => exact ownSetUnitStandby_leads u r s
  | setProfileWeights w => exact ownSetProfileWeights_leads w s
  | readSnapshot key => exact ownReadSnapshot_leads p key s
  | lockArchive l => exact ownArchive_leads true l s
  | unlockArchive l => exact ownArchive_leads false l s
  | restart => exact ownRestart_leads s
  | setNoticeMask m => exact ownSetNoticeMask_leads p m s
  | lockPremises => exact ownLock_leads true s
  | unlockPremises => exact ownLock_leads false s
  | clearFrameLoss | readTime | readCaps | readUnits | getStatus => exact .of_view rfl
  | readCalendar | readRegisters | readNotices | freezeView | releaseView =>
    exact frames (by simp [serve]) (by simp [serve]) (by simp [serve])

/-- Whatever reaches a port leads on by moves of the store. -/
theorem leads_keptByOwners (s : State) : KeptByOwners (Leads s) where
  port p f before := before.trans (updPort_leads p f _)
  serve p q _ before := before.trans (serve_leads p q _)

/-! ### Frames and their silences leave the store and the period -/

theorem changeHealth_period (h : Health) (relock : Nat) (s : State) :
    (changeHealth h relock s).reg.period = s.reg.period := by
  unfold changeHealth
  dsimp only
  split_ifs <;> simp

theorem arrivalHealth_leads (s : State) : Leads s (arrivalHealth s) := by
  unfold arrivalHealth
  exact .ite (fun _ => .of_view rfl) fun _ => .of_frame (by simp) (changeHealth_period _ _ s) (by simp)

theorem takeArrival_period (f : PhaseFrame) (s : State) : (takeArrival f s).reg.period = s.reg.period := by
  have accepted (j : SeqJudge) : (acceptFrame f j s).reg.period = s.reg.period := by
    simp [acceptFrame, bookFrame, RegBank.book, acceptMarks]
  unfold takeArrival
  split_ifs
  · split
    · simp
    · exact accepted _
  · simp

theorem collectRun_leads (r : LinkRun) (s : State) : Leads s (collectRun r s) := by
  have arrives (f : PhaseFrame) (t : State) : Leads t (arrival f t) :=
    eitherIf_keeps (P := Leads t) _ (.of_view rfl) (fun h => h.draws _) (.then arrivalHealth_leads)
      (.then fun u => .of_frame (by simp) (takeArrival_period f u) (by simp))
  have ends (run : List RxChar) (t : State) : Leads t (runEnded run t) := by
    unfold runEnded
    split
    · exact arrives _ t
    · exact .of_view rfl
  unfold collectRun
  exact .ite (fun _ => Leads.trans (t := { s with frx := { s.frx with run := [] } }) (.of_view rfl) (ends _ _))
    fun _ => .of_view rfl

theorem silence500_leads (s : State) : Leads s (silence500 s) := by
  refine .of_frame (by simp) ?_ (by simp)
  unfold silence500
  split <;> simp [changeHealth_period]

theorem silence2000_leads (s : State) : Leads s (silence2000 s) := by
  refine .of_frame (by simp) ?_ (by simp)
  unfold silence2000
  split <;> simp [changeHealth_period]

/-! ### Every command -/

/-- A command that carries no request leads on by moves of the store. -/
theorem exec_event_leads {i : Instr} (event : i.request = none) (s : State) :
    ∃ t, exec i s = .next t ∧ Leads s t := by
  have same {f : State → State} (hst : (f s).hst = s.hst) (reg : (f s).reg = s.reg) (sup : (f s).sup = s.sup) :
      Leads s (command f s) := Leads.command (.of_frame hst (by rw [reg]) sup)
  cases i with
  | phaseFrame run => exact ⟨_, rfl, (collectRun_leads run s).command⟩
  | silence500 => exact ⟨_, rfl, (silence500_leads s).command⟩
  | silence2000 => exact ⟨_, rfl, (silence2000_leads s).command⟩
  | secondTick =>
    exact ⟨_, rfl, .ite (fun _ => (secondTick_leads s).finish) fun _ => .of_frame (by simp) (by simp) (by simp)⟩
  | backupDomainLoss => exact ⟨_, rfl, .of_frame (by simp) (by simp) (by simp)⟩
  | overrideLineLevelChange line level => exact ⟨_, rfl, .of_frame (by simp) (by simp) (by simp)⟩
  | overrideDebounceExpiry line => exact ⟨_, rfl, same (by simp) (by simp) (by simp)⟩
  | mainsWarnAssert => exact ⟨_, rfl, mainsLevel_leads true (mainsWarns_leads s)⟩
  | mainsWarnDeassert => exact ⟨_, rfl, mainsLevel_leads false (mainsClears_leads s)⟩
  | supplyDebounceExpiry => exact ⟨_, rfl, (supplySettles_leads s).command⟩
  | writeSequenceEnd =>
    refine ⟨_, rfl, Leads.command (.ite (fun ended => ?_) fun _ => .refl s)⟩
    exact endSequence_leads (by simp [ended.1])
  | powerOnReset => exact ⟨_, rfl, powerOn_leads s⟩
  | resetLine => exact ⟨_, rfl, (resetEngine_leads s).command⟩
  | mainSupplyLoss => exact ⟨_, rfl, .ite (fun _ => supplyLost_leads s) fun _ => .refl s⟩
  | recoveryCheckpointScan => exact ⟨_, rfl, (atStage_leads scanRing_leads).command⟩
  | recoveryLogScan => exact ⟨_, rfl, (atStage_leads scanLog_leads).command⟩
  | recoveryCalendarLoad => exact ⟨_, rfl, (atStage_leads loadCalendars_leads).command⟩
  | periodicCheckpointTimer => exact ⟨_, rfl, (intervalEnds_leads s).command⟩
  | snapshotProgramComplete valid => exact ⟨_, rfl, (snapshotProgrammed_leads valid s).command⟩
  | checkpointProgramComplete valid0 valid1 => exact ⟨_, rfl, (checkpointProgrammed_leads valid0 valid1 s).command⟩
  | calendarPartProgramComplete valid => exact ⟨_, rfl, (partProgrammed_leads valid s).command⟩
  | sectorEraseComplete notBlank => exact ⟨_, rfl, (eraseDone_leads notBlank s).command⟩
  | eraseSuspend => exact ⟨_, rfl, (eraseSuspend_leads s).command⟩
  | slotReadComplete decayed => exact ⟨_, rfl, (readDone_leads decayed s).command⟩
  | requestFrame port chars => exact ⟨_, rfl, ((leads_keptByOwners s).receiveAll port chars (.refl s)).command⟩
  | frameLengthOverflow port length => exact ⟨_, rfl, ((leads_keptByOwners s).receiveAll port _ (.refl s)).command⟩
  | frameStall port => exact ⟨_, rfl, same (by simp) (by simp) (by simp)⟩
  | ignoreIdleExpiry port => exact ⟨_, rfl, same (by simp) (by simp) (by simp)⟩
  | responseTransmitComplete port => exact ⟨_, rfl, same (by simp) (by simp) (by simp)⟩
  | viewExpiry port => exact ⟨_, rfl, same (by simp) (by simp) (by simp)⟩
  | pollCycleStart => exact ⟨_, rfl, same (by simp) (by simp) (by simp)⟩
  | allowanceSent => exact ⟨_, rfl, same (by simp) (by simp) (by simp)⟩
  | unitReport chars => exact ⟨_, rfl, same (by simp) (by simp) (by simp)⟩
  | replyWindowExpiry => exact ⟨_, rfl, same (by simp) (by simp) (by simp)⟩
  | _ => cases event

theorem exec_leads {i : Instr} {s t : State} (h : exec i s = .next t) : Leads s t := by
  cases request : i.request with
  | none =>
    obtain ⟨u, executed, leads⟩ := exec_event_leads request s
    obtain rfl : u = t := Host.Outcome.next.inj (executed.symm.trans h)
    exact leads
  | some r =>
    obtain rfl : command (takeRequest r.1 r.2) s = t :=
      Host.Outcome.next.inj ((exec_request request s).symm.trans h)
    exact ((leads_keptByOwners s).takeRequest r.1 r.2 (.refl s)).command

/-- A step does nothing to the History Store but some of its moves. -/
theorem step_leads {s t : State} (h : step s = .next t) : Leads s t := by
  unfold step at h
  split at h
  next =>
    obtain rfl := Host.Outcome.next.inj h
    exact .of_frame (by simp) (by simp) (by simp)
  next c rest _ =>
    have taken : Leads s { s with pending := rest } := .of_view rfl
    exact taken.trans (exec_leads h)

end Sys2Proof.Machine
end

section
/-! PROOFS. The pending queue (R144 to R146, R175, R177): every move of the History Store keeps at most 2 snapshots
pending, and the snapshot numbers ascending through index and queue to the open period's. -/
namespace Sys2Proof.Machine

/-! ### Soundness of the queue -/

/-- What `State.queueOk` says, by its parts, of the view of the store. -/
structure StoreView.QueueSound (v : StoreView) : Prop where
  short : v.hst.queue.length ≤ 2
  ascending : v.hst.numbers.Pairwise (· < ·)
  below : ∀ n ∈ v.hst.numbers, n < v.period
  stage : v.stage = .done ∨ v.supply = .starting ∧ v.hst.queue = [] ∧ (v.stage = .images ∨ v.hst.index = [])

theorem queueOk_iff (s : State) : s.queueOk = true ↔ s.view.QueueSound := by
  have stages : (match s.sup.stage with
      | .done => true
      | .images => s.sup.supply == .starting && s.hst.queue.isEmpty
      | _ => s.sup.supply == .starting && s.hst.queue.isEmpty && s.hst.index.isEmpty) = true ↔
      s.sup.stage = .done ∨ s.sup.supply = .starting ∧ s.hst.queue = [] ∧
        (s.sup.stage = .images ∨ s.hst.index = []) := by
    cases s.sup.stage <;> simp [and_assoc]
  constructor
  · intro ok
    simp only [State.queueOk, Bool.and_eq_true, decide_eq_true_eq, List.all_eq_true] at ok
    obtain ⟨⟨⟨short, ascending⟩, below⟩, stage⟩ := ok
    exact ⟨short, ascending, below, stages.mp stage⟩
  · rintro ⟨short, ascending, below, stage⟩
    simp only [State.queueOk, Bool.and_eq_true, decide_eq_true_eq, List.all_eq_true]
    exact ⟨⟨⟨short, ascending⟩, below⟩, stages.mpr stage⟩

namespace StoreView.QueueSound
variable {v w : StoreView}

/-- Pairs may leave the index; the numbers pending, the period and the stage stay. -/
theorem of_sublist (S : v.QueueSound) (index : w.hst.index.Sublist v.hst.index)
    (queue : w.hst.queue.map (·.snap.number) = v.hst.queue.map (·.snap.number)) (period : w.period = v.period)
    (stage : w.stage = v.stage) (supply : w.supply = v.supply) : w.QueueSound := by
  have numbers : w.hst.numbers.Sublist v.hst.numbers := by
    rw [Hst.numbers, Hst.numbers, queue]
    exact (index.map _).append_right _
  have length : w.hst.queue.length = v.hst.queue.length := by simpa using congrArg List.length queue
  refine ⟨length ▸ S.short, S.ascending.sublist numbers, fun n mem => period ▸ S.below n (numbers.mem mem), ?_⟩
  rw [stage, supply]
  refine S.stage.imp_right fun ⟨starting, empty, left⟩ => ⟨starting, ?_, left.imp_right fun none => ?_⟩
  · rw [← List.length_eq_zero_iff, length, empty, List.length_nil]
  · exact List.eq_nil_of_sublist_nil (none ▸ index)

/-- With nothing held, in STARTING. -/
theorem of_empty (queue : v.hst.queue = []) (index : v.hst.index = []) (starting : v.supply = .starting) :
    v.QueueSound := by
  have numbers : v.hst.numbers = [] := by simp [Hst.numbers, queue, index]
  refine ⟨by simp [queue], numbers ▸ .nil, ?_, .inr ⟨starting, queue, .inr index⟩⟩
  simp [numbers]

/-- Outside STARTING recovery is done. -/
theorem done (S : v.QueueSound) (run : v.supply ≠ .starting) : v.stage = .done :=
  S.stage.resolve_right fun starting => run starting.1

/-- Until recovery is done nothing is pending; until the log is read the index is empty as well. -/
theorem recovering (S : v.QueueSound) (h : v.stage ≠ .done) :
    v.hst.queue = [] ∧ (v.stage = .images ∨ v.hst.index = []) :=
  (S.stage.resolve_left h).2

/-- A pending snapshot means that recovery is done. -/
theorem done_of_pending (S : v.QueueSound) {e : PendingSnap} {rest : List PendingSnap}
    (oldest : v.hst.queue = e :: rest) : v.stage = .done := by
  by_contra h
  exact List.cons_ne_nil _ _ (oldest.symm.trans (S.recovering h).1)

end StoreView.QueueSound

/-! ### The moves -/

theorem judgeLogPreErase_cases (h : Hst) : h.judgeLogPreErase = h ∨
    h.preEraseDue ∧ h.nextLog h.curLog ∉ h.eraseList ∧ h.underErase (h.nextLog h.curLog) = false ∧
      h.judgeLogPreErase = { h with eraseList := h.eraseList ++ [h.nextLog h.curLog] } := by
  by_cases due : h.preEraseDue
  · rw [judgeLogPreErase_due due, Hst.enterErase]
    split_ifs with there
    · exact .inl rfl
    · simp only [Bool.or_eq_true, not_or, Bool.not_eq_true, List.contains_iff_mem] at there
      exact .inr ⟨due, there.1, there.2, rfl⟩
  · exact .inl (judgeLogPreErase_rests due)

@[simp] theorem enterErase_queue (x : Nat) (h : Hst) : (h.enterErase x).queue = h.queue := by
  unfold Hst.enterErase
  split_ifs <;> rfl

@[simp] theorem judgeLogPreErase_queue (h : Hst) : h.judgeLogPreErase.queue = h.queue := by
  rcases judgeLogPreErase_cases h with same | ⟨-, -, -, entered⟩
  · rw [same]
  · rw [entered]

@[simp] theorem suspendErase_queue (h : Hst) :
    h.suspendErase.queue = h.queue ∧ h.suspendErase.index = h.index := by
  unfold Hst.suspendErase
  split <;> simp

theorem beginErase_queue (x : Nat) (h : Hst) : (h.beginErase x).queue = h.queue ∧
    (h.beginErase x).index = h.index.filter fun y => y.2 / 16 != x := by
  simp only [Hst.beginErase, and_self]

@[simp] theorem readsEnded_queue (h : Hst) : h.readsEnded.queue = h.queue ∧ h.readsEnded.index = h.index := by
  unfold Hst.readsEnded
  split <;> simp

/-- The rebinding moves entries to other slots, and keeps their snapshots. -/
theorem rebind_numbers (h : Hst) :
    h.rebind.queue.map (·.snap.number) = h.queue.map (·.snap.number) ∧ h.rebind.index = h.index := by
  have chosen (k : Nat) : (h.chooseSlot k).2.index = h.index := by
    unfold Hst.chooseSlot
    split <;> rfl
  unfold Hst.rebind
  split
  next empty => exact ⟨rfl, rfl⟩
  next e alone => exact ⟨by simp [alone], chosen _⟩
  next e e2 rest both => exact ⟨by simp [both], chosen _⟩

theorem programFailed_numbers (e : PendingSnap) (h : Hst) :
    (h.programFailed e).queue.map (·.snap.number) = h.queue.map (·.snap.number) ∧
      (h.programFailed e).index = h.index :=
  rebind_numbers { h with store := Store.put h.store e.slot .junk, engine := .idle }

theorem StoreMove.keeps_queue {v w : StoreView} (move : StoreMove v w) (S : v.QueueSound) : w.QueueSound := by
  cases move with
  | notes only => exact S.of_sublist (by rw [only]) (by rw [only]) rfl rfl rfl
  | closes run granted number =>
    have done := S.done (by simp [run])
    have room : v.hst.queue.length < 2 := ((grantRule _ _).mp granted).1
    have numbers (k : Nat) (snap : Snapshot) : ({ v.hst.reserve k with
        queue := v.hst.queue ++ [{ snap := snap, slot := k, fails := 0 }] } : Hst).numbers =
        v.hst.numbers ++ [snap.number] := by
      simp [Hst.numbers, Hst.reserve]
    refine ⟨by simpa using room, ?_, ?_, .inl done⟩
    · rw [numbers, number, List.pairwise_append]
      exact ⟨S.ascending, List.pairwise_singleton _ _, fun n mem m last => List.mem_singleton.mp last ▸ S.below n mem⟩
    · simp only [numbers, number, List.mem_append, List.mem_singleton]
      rintro n (old | rfl)
      · exact (S.below n old).trans (Nat.lt_succ_self _)
      · exact Nat.lt_succ_self _
  | logPreErase => exact S.of_sublist (by simp) (by simp) rfl rfl rfl
  | ringPreErase ring used => exact S.of_sublist (by simp) (by simp) rfl rfl rfl
  | @programmed e rest engine oldest =>
    have numbers : ({ v.hst with
        store := Store.put v.hst.store e.slot (.snapshot e.snap), queue := rest,
        index := v.hst.index ++ [(e.snap.number, e.slot)], engine := .idle } : Hst).numbers = v.hst.numbers := by
      simp [Hst.numbers, oldest]
    refine ⟨?_, numbers ▸ S.ascending, numbers ▸ S.below, .inl (S.done_of_pending oldest)⟩
    have short := S.short
    simp only [oldest, List.length_cons] at short
    exact Nat.le_of_succ_le short
  | programFailed engine oldest =>
    obtain ⟨queue, index⟩ := programFailed_numbers _ v.hst
    exact S.of_sublist (by rw [index]) queue rfl rfl rfl
  | erases run free none noRead may =>
    obtain ⟨queue, index⟩ := beginErase_queue _ v.hst
    refine S.of_sublist ?_ (by rw [queue]) rfl rfl rfl
    rw [index]
    exact List.filter_sublist
  | suspends => exact S.of_sublist (by simp) (by simp) rfl rfl rfl
  | forgets pairs asked left => exact S.of_sublist pairs rfl rfl rfl rfl
  | resets m => exact .of_empty rfl rfl rfl
  | ringScanned period unread starting stage sector =>
    obtain ⟨queue, index⟩ := S.recovering (by simp [stage])
    have none : v.hst.index = [] := index.resolve_left (by simp [stage])
    exact .of_empty ((readsEnded_queue _).1.trans queue) ((readsEnded_queue _).2.trans none) rfl
  | logScanned designation unread starting stage below =>
    have queue : (v.hst.logScanned designation).queue = [] := by
      simp [Hst.logScanned, scanLog_fields, (S.recovering (by simp [stage])).1]
    have numbers : (v.hst.logScanned designation).numbers = (v.hst.logScanned designation).index.map (·.1) := by
      simp [Hst.numbers, queue]
    refine ⟨by simp [queue], ?_, ?_, .inr ⟨rfl, queue, .inl rfl⟩⟩
    · rw [numbers, List.pairwise_map]
      exact scanLog_index_ascending _
    · simpa [numbers] using below
  | imagesLoaded starting stage =>
    have numbers : v.hst.readsEnded.numbers = v.hst.numbers := by simp [Hst.numbers]
    exact ⟨by simpa using S.short, numbers ▸ S.ascending, numbers ▸ S.below, .inl rfl⟩
  | supply left ready => exact ⟨S.short, S.ascending, S.below, .inl (ready.elim S.done (·.1))⟩
  | _ => exact S.of_sublist (.refl _) rfl rfl rfl rfl

/-- Settles O58: a step does nothing to the store but its moves, and each keeps the queue and the numbers. -/
theorem pendingQueueKept : Obligations.PendingQueueKept := by
  intro s t sound h
  rw [queueOk_iff] at sound ⊢
  exact (step_leads h).keeps (P := StoreView.QueueSound) (fun _ _ => StoreMove.keeps_queue) sound

end Sys2Proof.Machine
end

section
/-! PROOFS. The slots of the pending queue (R144, R145, R148, R149, R154, R155, R158): their soundness by its parts, and
the margin behind the write pointer, with what a candidate taken, a slot filled and a sector retired leave of it. -/
namespace Sys2Proof.Machine

/-! ### Soundness by its parts -/

/-- A slot that a pending entry is bound to, as `Hst.boundOk` has it. -/
def Hst.SlotKept (h : Hst) (k : Nat) : Prop :=
  Store.blank h.store k = true ∧ (4 ≤ k / 16 ∧ k / 16 < 10) ∧ k / 16 ∉ h.eraseList ∧
    (k / 16 = h.curLog ∨ 5 ≤ (h.freeAfter h.writePtr h.curLog).length)

/-- What `Hst.boundOk` says. -/
structure Hst.Bound (h : Hst) : Prop where
  short : h.queue.length ≤ 2
  nodup : (h.queue.map (·.slot)).Nodup
  kept : ∀ e ∈ h.queue, h.SlotKept e.slot
  pointer : ∀ k, (h.queue.map (·.slot)).getLast? = some k → k = h.writePtr
  log : 4 ≤ h.curLog ∧ h.curLog < 10
  place : h.writePtr / 16 = h.curLog ∨ h.writePtr = 63 ∧ h.curLog = 4

/-- What `Hst.marginOk` says of a queue of at most 2 entries. -/
def Hst.Margin (h : Hst) : Prop :=
  h.logFailed = true ∨ (∀ e ∈ h.queue, e.fails ≤ 1) ∧
    ∀ e rest, h.queue = e :: rest → rest.length + 2 ≤ h.margin h.writePtr + e.fails

/-- What `State.erasesOk` says. -/
structure StoreView.ErasesSound (v : StoreView) : Prop where
  listed : ∀ x ∈ v.hst.eraseList,
    Store.sectorBlank v.hst.store x = false ∧ v.hst.underErase x = false ∧ x ≠ v.hst.curLog
  one : ∀ x, v.hst.engine = .erase x → v.hst.suspended = none
  begun : ∀ x, v.hst.underErase x = true →
    Store.sectorFull v.hst.store x = true ∧ v.hst.locked x = false ∧ v.supply ≠ .starting

/-- What `State.accessesOk` says of the operation in progress. -/
def StoreView.EngineOk (v : StoreView) : Engine → Prop
  | .checkpoint _ p _ => p < 32
  | .read (.port _ _) k => v.hst.holdsRecord k = true
  | .read .recovery _ => v.supply = .starting
  | .snapshot => v.hst.logFailed = false
  | _ => True

/-- What `State.accessesOk` says. -/
structure StoreView.AccessesSound (v : StoreView) : Prop where
  index : ∀ x ∈ v.hst.index, v.hst.holdsRecord x.2 = true
  reads : ∀ x ∈ v.hst.reads, v.hst.holdsRecord x.2.2 = true
  images : ∀ x ∈ v.hst.writeSectors, 10 ≤ x
  ring : v.hst.ckptSector < 4
  unread : v.unread = [] ∨ v.supply = .starting
  engine : v.EngineOk v.hst.engine

/-- What `State.slotsOk` says of the view of the store. -/
structure StoreView.SlotsSound (v : StoreView) : Prop where
  bound : v.hst.Bound
  margin : v.hst.Margin
  erases : v.ErasesSound
  accesses : v.AccessesSound
  stage : v.stage = .done ∨ v.supply = .starting
  waits : v.supply = .starting → v.hst.queue = []

theorem boundOk_iff (h : Hst) : h.boundOk = true ↔ h.Bound := by
  have last : (match (h.queue.map (·.slot)).getLast? with
      | some k => k == h.writePtr
      | none => true) = true ↔ ∀ k, (h.queue.map (·.slot)).getLast? = some k → k = h.writePtr := by
    cases (h.queue.map (·.slot)).getLast? <;> simp
  have kept : ((h.queue.map (·.slot)).all fun k =>
      Store.blank h.store k && decide (4 ≤ k / 16) && decide (k / 16 < 10) && !h.eraseList.contains (k / 16) &&
      (k / 16 == h.curLog || decide (5 ≤ (h.freeAfter h.writePtr h.curLog).length))) = true ↔
      ∀ e ∈ h.queue, h.SlotKept e.slot := by
    simp [Hst.SlotKept, and_assoc]
  constructor
  · intro ok
    simp only [Hst.boundOk, Bool.and_eq_true, decide_eq_true_eq, kept, Bool.or_eq_true, beq_iff_eq] at ok
    obtain ⟨⟨⟨⟨⟨⟨short, nodup⟩, slots⟩, pointer⟩, low⟩, high⟩, place⟩ := ok
    exact ⟨by simpa using short, nodup, slots, last.mp pointer, ⟨low, high⟩, place⟩
  · rintro ⟨short, nodup, slots, pointer, ⟨low, high⟩, place⟩
    simp only [Hst.boundOk, Bool.and_eq_true, decide_eq_true_eq, kept, Bool.or_eq_true, beq_iff_eq]
    exact ⟨⟨⟨⟨⟨⟨by simpa using short, nodup⟩, slots⟩, last.mpr pointer⟩, low⟩, high⟩, place⟩

theorem marginOk_iff {h : Hst} (short : h.queue.length ≤ 2) : h.marginOk = true ↔ h.Margin := by
  match queue : h.queue with
  | [] => simp [Hst.marginOk, Hst.Margin, queue]
  | [e] => simp [Hst.marginOk, Hst.Margin, queue]
  | [e, e2] => simp [Hst.marginOk, Hst.Margin, queue]
  | _ :: _ :: _ :: _ =>
    simp only [queue, List.length_cons] at short
    omega

theorem erasing_iff (s : State) (x : Nat) : s.erasing x = true ↔
    Store.sectorFull s.hst.store x = true ∧ s.hst.locked x = false ∧ s.sup.supply ≠ .starting := by
  simp [State.erasing, and_assoc]

theorem underErase_iff (h : Hst) (x : Nat) :
    h.underErase x = true ↔ h.suspended = some x ∨ h.engine = .erase x := by
  simp [Hst.underErase]

theorem erasesOk_iff (s : State) : s.erasesOk = true ↔ s.view.ErasesSound := by
  have listed : (s.hst.eraseList.all fun x =>
      !Store.sectorBlank s.hst.store x && !s.hst.underErase x && x != s.hst.curLog) = true ↔
      ∀ x ∈ s.hst.eraseList,
        Store.sectorBlank s.hst.store x = false ∧ s.hst.underErase x = false ∧ x ≠ s.hst.curLog := by
    simp [and_assoc]
  have begun : (match s.hst.engine, s.hst.suspended with
      | .erase x, none => s.erasing x
      | .erase _, some _ => false
      | _, some x => s.erasing x
      | _, none => true) = true ↔ (∀ x, s.hst.engine = .erase x → s.hst.suspended = none) ∧
        ∀ x, s.hst.underErase x = true → s.erasing x = true := by
    simp only [underErase_iff]
    cases s.hst.engine <;> cases s.hst.suspended <;> simp
  have split : s.erasesOk = true ↔ _ ∧ _ := (Bool.and_eq_true_iff ..).trans (and_congr listed begun)
  simp only [split, erasing_iff]
  exact ⟨fun ⟨listed, one, begun⟩ => ⟨listed, one, begun⟩, fun ⟨listed, one, begun⟩ => ⟨listed, one, begun⟩⟩

theorem accessesOk_iff (s : State) : s.accessesOk = true ↔ s.view.AccessesSound := by
  have images : ((s.hst.calWaiting.all fun w => decide (10 ≤ w.sector)) &&
      (match s.hst.calJob with
        | some j => decide (10 ≤ j.sector)
        | none => true)) = true ↔ ∀ x ∈ s.hst.writeSectors, 10 ≤ x := by
    simp only [mem_writeSectors]
    cases s.hst.calJob <;> simp [or_imp, forall_and]
  have engine : (match s.hst.engine with
      | .checkpoint _ p _ => decide (p < 32)
      | .read (.port _ _) k => s.hst.holdsRecord k
      | .read .recovery _ => s.sup.supply == .starting
      | .snapshot => !s.hst.logFailed
      | _ => true) = true ↔ s.view.EngineOk s.view.hst.engine := by
    simp only [State.view, StoreView.EngineOk]
    cases s.hst.engine with
    | read who k => cases who <;> simp
    | _ => simp
  have split : s.accessesOk = true ↔ (∀ x ∈ s.hst.index, s.hst.holdsRecord x.2 = true) ∧
      (∀ x ∈ s.hst.reads, s.hst.holdsRecord x.2.2 = true) ∧ (∀ x ∈ s.hst.writeSectors, 10 ≤ x) ∧
      s.hst.ckptSector < 4 ∧ (s.sup.unread = [] ∨ s.sup.supply = .starting) ∧ s.view.EngineOk s.view.hst.engine := by
    rw [← images, ← engine]
    simp only [State.accessesOk, Bool.and_eq_true, List.all_eq_true, decide_eq_true_eq, Bool.or_eq_true,
      List.isEmpty_iff, beq_iff_eq, and_assoc] <;> rfl
  rw [split]
  exact ⟨fun ⟨index, reads, images, ring, unread, engine⟩ => ⟨index, reads, images, ring, unread, engine⟩,
    fun ⟨index, reads, images, ring, unread, engine⟩ => ⟨index, reads, images, ring, unread, engine⟩⟩

theorem slotsOk_iff (s : State) : s.slotsOk = true ↔ s.view.SlotsSound := by
  have waits : (s.sup.supply != .starting || s.hst.queue.isEmpty) = true ↔
      (s.sup.supply = .starting → s.hst.queue = []) := by
    simp [or_iff_not_imp_left]
  simp only [State.slotsOk, Bool.and_eq_true, boundOk_iff, erasesOk_iff, accessesOk_iff, waits, Bool.or_eq_true,
    beq_iff_eq]
  constructor
  · rintro ⟨⟨⟨⟨⟨bound, margin⟩, erases⟩, accesses⟩, stage⟩, waits⟩
    exact ⟨bound, (marginOk_iff bound.short).mp margin, erases, accesses, stage, waits⟩
  · rintro ⟨bound, margin, erases, accesses, stage, waits⟩
    exact ⟨⟨⟨⟨⟨bound, (marginOk_iff bound.short).mpr margin⟩, erases⟩, accesses⟩, stage⟩, waits⟩

/-! ### Free slots and margins of two states -/

theorem freeAfter_congr {h k : Hst} {ptr x : Nat} (free : ∀ j, ptr < j → j / 16 = x → k.free j = h.free j) :
    k.freeAfter ptr x = h.freeAfter ptr x := by
  refine List.filter_congr fun j mem => ?_
  obtain ⟨i, low, rfl⟩ := List.mem_map.mp mem
  have sector : (16 * x + i) / 16 = x := by
    have := List.mem_range.mp low
    omega
  by_cases behind : ptr < 16 * x + i
  · simp [behind, free _ behind sector]
  · simp [behind]

theorem freeAfter_length_le {h k : Hst} {ptr x : Nat}
    (free : ∀ j, ptr < j → j / 16 = x → h.free j = true → k.free j = true) :
    (h.freeAfter ptr x).length ≤ (k.freeAfter ptr x).length := by
  refine ((freeAfter_nodup h ptr x).subperm fun j mem => ?_).length_le
  obtain ⟨behind, sector, isFree⟩ := (mem_freeAfter h ptr x j).mp mem
  exact (mem_freeAfter k ptr x j).mpr ⟨behind, sector, free j behind sector isFree⟩

/-- Behind the first free slot there is one free slot less. -/
theorem freeAfter_length_of_cons {h : Hst} {ptr x k : Nat} {rest : List Nat} (slots : h.freeAfter ptr x = k :: rest) :
    (h.freeAfter ptr x).length = (h.freeAfter k x).length + 1 := by
  have sorted := slots ▸ freeAfter_sorted h ptr x
  have least := (List.pairwise_cons.mp sorted).1
  have first := (mem_freeAfter h ptr x k).mp (slots ▸ List.mem_cons_self)
  have perm : rest.Perm (h.freeAfter k x) := by
    refine (List.perm_ext_iff_of_nodup (List.nodup_cons.mp (slots ▸ freeAfter_nodup h ptr x)).2
      (freeAfter_nodup h k x)).mpr fun j => ?_
    rw [mem_freeAfter]
    constructor
    · intro mem
      have inList := (mem_freeAfter h ptr x j).mp (slots ▸ List.mem_cons_of_mem k mem)
      exact ⟨least j mem, inList.2⟩
    · rintro ⟨behind, sector, free⟩
      have inList : j ∈ k :: rest := slots ▸ (mem_freeAfter h ptr x j).mpr ⟨first.1.trans behind, sector, free⟩
      exact (List.mem_cons.mp inList).resolve_left (Nat.ne_of_gt behind)
  rw [slots, List.length_cons, perm.length_eq]

/-- Behind the first slot of a sector whose slots are all free stand 15. -/
theorem freeAfter_whole {h : Hst} {x : Nat} (free : ∀ j, 16 * x < j → j / 16 = x → h.free j = true) :
    15 ≤ (h.freeAfter (16 * x) x).length := by
  have nodup : ((List.range 15).map fun i => 16 * x + (i + 1)).Nodup := by
    refine List.nodup_range.map fun a b same => ?_
    simpa using same
  have sub : ((List.range 15).map fun i => 16 * x + (i + 1)) ⊆ h.freeAfter (16 * x) x := by
    intro j mem
    obtain ⟨i, low, rfl⟩ := List.mem_map.mp mem
    have := List.mem_range.mp low
    exact (mem_freeAfter _ _ _ _).mpr ⟨by omega, by omega, free _ (by omega) (by omega)⟩
  simpa using (nodup.subperm sub).length_le

/-- A next sector that no retirement takes away stays the next (R144, R160). -/
theorem nextLog_stays {h k : Hst} {x : Nat} (another : h.nextLog x ≠ x) (retired : ∀ y ∈ h.retired, y ∈ k.retired)
    (usable : h.nextLog x ∉ k.retired) : k.nextLog x = h.nextLog x := by
  unfold Hst.nextLog Hst.nextSector at *
  cases found : (ringAfter 4 6 x).find? fun y => !h.retired.contains y with
  | none => exact absurd (by rw [found]; rfl) another
  | some y =>
    rw [found] at usable
    obtain ⟨-, pre, post, ring, before⟩ := List.find?_eq_some_iff_append.mp found
    have again : (ringAfter 4 6 x).find? (fun y => !k.retired.contains y) = some y := by
      refine List.find?_eq_some_iff_append.mpr ⟨?_, pre, post, ring, fun z mem => ?_⟩
      · simpa using usable
      · have gone : z ∈ h.retired := by simpa using before z mem
        simpa using retired z gone
    rw [again]

theorem nextLog_log {h : Hst} {x : Nat} (another : h.nextLog x ≠ x) : 4 ≤ h.nextLog x ∧ h.nextLog x < 10 :=
  have cases := (nextSector_cases h 4 6 x).resolve_left another
  ⟨cases.1, cases.2.1⟩

theorem nextLog_not_retired {h : Hst} {x : Nat} (another : h.nextLog x ≠ x) : h.nextLog x ∉ h.retired :=
  ((nextSector_cases h 4 6 x).resolve_left another).2.2

/-! ### Moves that leave the bound slots alone -/

/-- `k` has the queue of `h`, and at least its free slots: no log slot is taken but in a listed sector, and no sector is
retired that was all BLANK. -/
structure Hst.KeepsSlots (h k : Hst) : Prop where
  queue : k.queue = h.queue
  pointer : k.writePtr = h.writePtr
  current : k.curLog = h.curLog
  failed : h.logFailed = true → k.logFailed = true
  listed : ∀ x ∈ k.eraseList, x ∈ h.eraseList ∨ ∀ e ∈ h.queue, e.slot / 16 ≠ x
  blank : ∀ j, 4 ≤ j / 16 → j / 16 < 10 → j / 16 ∉ h.eraseList → Store.blank h.store j = true →
    Store.blank k.store j = true
  retired : ∀ x ∈ h.retired, x ∈ k.retired
  gone : ∀ x ∈ k.retired, x ∈ h.retired ∨ Store.sectorBlank h.store x = false

/-- With an entry pending, the write pointer lies in the current sector. -/
theorem Hst.Bound.pointer_sector {h : Hst} (B : h.Bound) (pending : h.queue ≠ []) : h.writePtr / 16 = h.curLog := by
  refine B.place.resolve_right fun ⟨pointer, _⟩ => ?_
  have slots : h.queue.map (·.slot) ≠ [] := by simpa using pending
  have last := B.pointer _ (List.getLast?_eq_some_getLast slots)
  obtain ⟨e, mem, slot⟩ := List.mem_map.mp (List.getLast_mem slots)
  have := (B.kept e mem).2.1.1
  omega

namespace Hst.KeepsSlots
variable {h k : Hst}

theorem free (K : h.KeepsSlots k) {j : Nat} (low : 4 ≤ j / 16) (high : j / 16 < 10) (unlisted : j / 16 ∉ h.eraseList)
    (free : h.free j = true) : k.free j = true := by
  rw [free_iff] at free ⊢
  rw [K.queue]
  exact ⟨K.blank j low high unlisted free.1, free.2⟩

theorem nextBlank (K : h.KeepsSlots k) {x : Nat} (listed : ∀ y ∈ h.eraseList, Store.sectorBlank h.store y = false)
    (next : h.nextBlank x = true) : k.nextBlank x = true := by
  obtain ⟨another, blank⟩ := (nextBlank_iff h x).mp next
  obtain ⟨low, high⟩ := nextLog_log another
  have unlisted : h.nextLog x ∉ h.eraseList := fun mem => by simp [listed _ mem] at blank
  have usable : h.nextLog x ∉ k.retired := fun mem =>
    (K.gone _ mem).elim (nextLog_not_retired another) fun dirty => by simp [dirty] at blank
  rw [nextBlank_iff, nextLog_stays another K.retired usable]
  refine ⟨another, (sectorBlank_iff _ _).mpr fun j sector => ?_⟩
  exact K.blank j (sector ▸ low) (sector ▸ high) (sector ▸ unlisted) ((sectorBlank_iff _ _).mp blank j sector)

theorem margin_le (K : h.KeepsSlots k) {j : Nat} (low : 4 ≤ j / 16) (high : j / 16 < 10)
    (unlisted : j / 16 ∉ h.eraseList) (listed : ∀ y ∈ h.eraseList, Store.sectorBlank h.store y = false) :
    h.margin j ≤ k.margin j := by
  have slots : (h.freeAfter j (j / 16)).length ≤ (k.freeAfter j (j / 16)).length :=
    freeAfter_length_le fun i _ sector => K.free (sector ▸ low) (sector ▸ high) (sector ▸ unlisted)
  rw [margin_eq, margin_eq]
  by_cases next : h.nextBlank (j / 16) = true
  · simpa [next, K.nextBlank listed next] using slots
  · rw [if_neg next]
    omega

variable (K : h.KeepsSlots k)
  (listed : ∀ x ∈ h.eraseList, Store.sectorBlank h.store x = false ∧ x ≠ h.curLog)
include K listed

theorem bound (B : h.Bound) : k.Bound := by
  have unlisted : h.curLog ∉ h.eraseList := fun mem => (listed _ mem).2 rfl
  have spare : (h.freeAfter h.writePtr h.curLog).length ≤ (k.freeAfter h.writePtr h.curLog).length :=
    freeAfter_length_le fun j _ sector => K.free (sector ▸ B.log.1) (sector ▸ B.log.2) (sector ▸ unlisted)
  refine ⟨K.queue ▸ B.short, K.queue ▸ B.nodup, ?_, ?_, K.current ▸ B.log, ?_⟩
  · rw [K.queue]
    intro e mem
    obtain ⟨blank, log, unlisted, spread⟩ := B.kept e mem
    refine ⟨K.blank _ log.1 log.2 unlisted blank, log, fun entered => ?_, ?_⟩
    · exact (K.listed _ entered).elim unlisted fun others => others e mem rfl
    · rw [K.pointer, K.current]
      exact spread.imp_right fun five => five.trans spare
  · rw [K.queue, K.pointer]
    exact B.pointer
  · rw [K.pointer, K.current]
    exact B.place

theorem margin (B : h.Bound) (M : h.Margin) : k.Margin := by
  refine M.imp K.failed fun ⟨fails, room⟩ => ?_
  rw [K.queue]
  refine ⟨fails, fun e rest oldest => (room e rest oldest).trans ?_⟩
  have sector := B.pointer_sector (by simp [oldest])
  have unlisted : h.curLog ∉ h.eraseList := fun mem => (listed _ mem).2 rfl
  have more : h.margin h.writePtr ≤ k.margin h.writePtr :=
    K.margin_le (sector ▸ B.log.1) (sector ▸ B.log.2) (sector ▸ unlisted) fun y mem => (listed y mem).1
  rw [K.pointer]
  omega

end Hst.KeepsSlots

/-! ### A candidate taken (R144, R158) -/

/-- The candidate is free, in the log, and in no listed sector. -/
theorem candidate_spec {h : Hst} {k : Nat} (candidate : h.candidate = some k) (log : 4 ≤ h.curLog ∧ h.curLog < 10) :
    Store.blank h.store k = true ∧ (4 ≤ k / 16 ∧ k / 16 < 10) ∧
      ((k / 16 = h.curLog ∧ h.free k = true ∧
          (h.freeAfter h.writePtr h.curLog).length = (h.freeAfter k (k / 16)).length + 1) ∨
        h.freeAfter h.writePtr h.curLog = [] ∧ h.nextBlank h.curLog = true ∧ k = 16 * h.nextLog h.curLog) := by
  cases slots : h.freeAfter h.writePtr h.curLog with
  | cons a rest =>
    obtain rfl : a = k := Option.some.inj ((candidate_here slots).symm.trans candidate)
    obtain ⟨-, sector, free⟩ := (mem_freeAfter h h.writePtr h.curLog a).mp (by simp [slots])
    have length := freeAfter_length_of_cons slots
    rw [slots] at length
    exact ⟨((free_iff h a).mp free).1, sector ▸ log, .inl ⟨sector, free, by rw [sector]; exact length⟩⟩
  | nil =>
    rw [candidate_next slots] at candidate
    split_ifs at candidate with next
    obtain rfl := Option.some.inj candidate
    obtain ⟨another, blank⟩ := (nextBlank_iff _ _).mp next
    have sector : 16 * h.nextLog h.curLog / 16 = h.nextLog h.curLog := by omega
    exact ⟨(sectorBlank_iff _ _).mp blank _ sector, by rw [sector]; exact nextLog_log another, .inr ⟨rfl, next, rfl⟩⟩

theorem candidate_unlisted {h : Hst} {k : Nat} (candidate : h.candidate = some k)
    (log : 4 ≤ h.curLog ∧ h.curLog < 10)
    (listed : ∀ x ∈ h.eraseList, Store.sectorBlank h.store x = false ∧ x ≠ h.curLog) : k / 16 ∉ h.eraseList := by
  intro mem
  obtain ⟨dirty, away⟩ := listed _ mem
  obtain ⟨-, -, here | ⟨-, next, rfl⟩⟩ := candidate_spec candidate log
  · exact away here.1
  · have sector : 16 * h.nextLog h.curLog / 16 = h.nextLog h.curLog := by omega
    rw [sector, ((nextBlank_iff _ _).mp next).2] at dirty
    cases dirty

/-- While a margin is left behind the write pointer there is a candidate (assumption 31). -/
theorem candidate_of_margin {h : Hst} (sector : h.writePtr / 16 = h.curLog) (room : 1 ≤ h.margin h.writePtr) :
    ∃ k, h.candidate = some k := by
  cases slots : h.freeAfter h.writePtr h.curLog with
  | cons k rest => exact ⟨k, candidate_here slots⟩
  | nil =>
    rw [margin_eq, sector, slots] at room
    split_ifs at room with next
    · exact ⟨_, (candidate_next slots).trans (if_pos next)⟩
    · simp at room

/-- Where the candidate opens the next sector, the slots behind it are all free. -/
theorem opens_whole {h : Hst} {slot : Nat}
    (spread : ∀ e ∈ h.queue, e.slot / 16 = h.curLog ∨ 5 ≤ (h.freeAfter h.writePtr h.curLog).length)
    (full : h.freeAfter h.writePtr h.curLog = []) (next : h.nextBlank h.curLog = true)
    (first : slot = 16 * h.nextLog h.curLog) : 15 ≤ (h.freeAfter slot (slot / 16)).length := by
  obtain ⟨another, blank⟩ := (nextBlank_iff _ _).mp next
  have sector : slot / 16 = h.nextLog h.curLog := by omega
  rw [sector, first]
  refine freeAfter_whole fun j _ inNext => (free_iff h j).mpr ⟨(sectorBlank_iff _ _).mp blank j inNext, ?_⟩
  rintro e mem rfl
  rcases spread e mem with here | five
  · exact another (inNext.symm.trans here)
  · simp [full] at five

/-- `k` is `h` with its candidate taken for a pending entry: no other slot becomes bound, and none that is BLANK becomes
free. -/
structure Hst.Takes (h k : Hst) (slot : Nat) : Prop where
  candidate : h.candidate = some slot
  store : k.store = h.store
  retired : k.retired = h.retired
  listed : k.eraseList = h.eraseList
  pointer : k.writePtr = slot
  current : k.curLog = slot / 16
  slots : ∀ j, Store.blank h.store j = true → j ≠ slot → ((∀ e ∈ k.queue, e.slot ≠ j) ↔ ∀ e ∈ h.queue, e.slot ≠ j)

namespace Hst.Takes
variable {h k : Hst} {slot : Nat} (T : h.Takes k slot)
include T

theorem free_eq {j : Nat} (other : j ≠ slot) : k.free j = h.free j := by
  rw [Bool.eq_iff_iff, free_iff, free_iff, T.store]
  exact and_congr_right fun blank => T.slots j blank other

theorem freeAfter_eq (x : Nat) : k.freeAfter slot x = h.freeAfter slot x :=
  freeAfter_congr fun _ behind _ => T.free_eq (Nat.ne_of_gt behind)

theorem nextBlank_eq (x : Nat) : k.nextBlank x = h.nextBlank x := by
  simp only [Hst.nextBlank, Hst.nextLog, Hst.nextSector, T.store, T.retired]

theorem margin_eq' : k.margin slot = h.margin slot := by
  rw [margin_eq, margin_eq, T.freeAfter_eq, T.nextBlank_eq]

variable (log : 4 ≤ h.curLog ∧ h.curLog < 10)
  (spread : ∀ e ∈ h.queue, e.slot / 16 = h.curLog ∨ 5 ≤ (h.freeAfter h.writePtr h.curLog).length)
include log spread

/-- An entry that was bound in the current sector is in it still, or 5 free slots lie ahead. -/
theorem spread_of_current {j : Nat} (here : j / 16 = h.curLog) :
    j / 16 = k.curLog ∨ 5 ≤ (k.freeAfter k.writePtr k.curLog).length := by
  rw [T.current, T.pointer, T.freeAfter_eq]
  obtain ⟨-, -, same | ⟨full, next, first⟩⟩ := candidate_spec T.candidate log
  · exact .inl (here.trans same.1.symm)
  · exact .inr ((by omega : 5 ≤ 15).trans (opens_whole spread full next first))

/-- A candidate taken costs one of the margin. -/
theorem margin_le (sector : h.writePtr / 16 = h.curLog) : h.margin h.writePtr ≤ k.margin slot + 1 := by
  rw [T.margin_eq', margin_eq, margin_eq, sector]
  obtain ⟨-, -, ⟨same, -, length⟩ | ⟨full, next, first⟩⟩ := candidate_spec T.candidate log
  · rw [length, same]
    omega
  · have := opens_whole spread full next first
    rw [full, if_pos next, List.length_nil]
    omega

end Hst.Takes

end Sys2Proof.Machine
end

section
/-! PROOFS. The slots of the pending queue, continued: the moves that leave the bound slots as they are (R148 to
R155). -/
namespace Sys2Proof.Machine

/-! ### What is BLANK after a program and after an erase -/

theorem Store.blank_put (m : Store) (k j : Nat) (c : SlotContent) :
    Store.blank (Store.put m k c) j = (j != k && Store.blank m j) := by
  by_cases same : j = k
  · subst same
    simp [Store.blank, Store.at_put_self]
  · simp [Store.blank, Store.at_put_of_ne m c same, same]

/-- A program leaves nothing BLANK that was not. -/
theorem Store.blank_put_of_used {m : Store} {j : Nat} (k : Nat) (c : SlotContent) (used : Store.blank m j = false) :
    Store.blank (Store.put m k c) j = false := by
  simp [Store.blank_put, used]

theorem Store.blank_erased_of_ne {m : Store} {x j : Nat} (b : BitVec 16) (away : j / 16 ≠ x) :
    Store.blank (Store.erased m x b) j = Store.blank m j := by
  rw [Store.blank, Store.at_erased, if_neg away, Store.blank]

theorem Store.sectorBlank_eq_false_iff (m : Store) (x : Nat) :
    Store.sectorBlank m x = false ↔ ∃ k, k / 16 = x ∧ Store.blank m k = false := by
  rw [← Bool.not_eq_true, sectorBlank_iff]
  simp

theorem holdsRecord_iff (h : Hst) (k : Nat) :
    h.holdsRecord k = true ↔ Store.blank h.store k = false ∧ h.underErase (k / 16) = false := by
  simp [Hst.holdsRecord]

/-! ### Moves that empty no slot -/

/-- `w` comes of `v` by programs, marks and requests: no slot is emptied, the erase under way stays, and what is new in
the lists of the engine is sound. -/
structure StoreView.Steady (v w : StoreView) : Prop where
  filled : ∀ j, Store.blank v.hst.store j = false → Store.blank w.hst.store j = false := by exact fun _ => id
  under : ∀ x, w.hst.underErase x = v.hst.underErase x := by exact fun _ => rfl
  one : ∀ x, w.hst.engine = .erase x →
    (v.hst.engine = .erase x ∧ w.hst.suspended = v.hst.suspended) ∨ w.hst.suspended = none := by
      exact fun _ same => .inl ⟨same, rfl⟩
  unlocked : ∀ x, v.hst.underErase x = true → v.hst.locked x = false → w.hst.locked x = false := by
    exact fun _ _ => id
  listed : ∀ x ∈ w.hst.eraseList, x ∈ v.hst.eraseList ∨
    Store.sectorBlank v.hst.store x = false ∧ v.hst.underErase x = false ∧ x ≠ w.hst.curLog := by exact fun _ => .inl
  current : w.hst.curLog = v.hst.curLog ∨ w.hst.curLog ∉ w.hst.eraseList := by exact .inl rfl
  index : ∀ x ∈ w.hst.index, x ∈ v.hst.index ∨ w.hst.holdsRecord x.2 = true := by exact fun _ => .inl
  reads : ∀ x ∈ w.hst.reads, x ∈ v.hst.reads ∨ ∃ n, (n, x.2.2) ∈ v.hst.index := by exact fun _ => .inl
  images : ∀ x ∈ w.hst.writeSectors, 10 ≤ x ∨ x ∈ v.hst.writeSectors := by exact fun _ => .inr
  ring : w.hst.ckptSector = v.hst.ckptSector ∨ w.hst.ckptSector < 4 := by exact .inl rfl
  engine : w.hst.engine = v.hst.engine ∨ w.EngineOk w.hst.engine := by exact .inl rfl
  failed : w.hst.logFailed = v.hst.logFailed ∨ w.hst.engine ≠ .snapshot := by exact .inl rfl
  starting : w.supply = .starting → v.supply = .starting := by exact id
  recovery : w.supply = v.supply ∨ w.supply ≠ .starting ∧ w.unread = [] ∧ ∀ k, v.hst.engine ≠ .read .recovery k := by
    exact .inl rfl
  unread : w.supply = .starting ∨ (v.unread = [] → w.unread = []) := by exact .inr id
  stage : w.stage = v.stage ∧ w.supply = v.supply ∨ w.stage = .done ∨ w.supply = .starting := by exact .inl ⟨rfl, rfl⟩
  queue : v.hst.queue = [] → w.supply = .starting → w.hst.queue = [] := by exact fun none _ => none

namespace StoreView.Steady
variable {v w : StoreView} (R : v.Steady w)
include R

theorem holdsRecord {k : Nat} (held : v.hst.holdsRecord k = true) : w.hst.holdsRecord k = true := by
  rw [holdsRecord_iff] at held ⊢
  rw [R.under]
  exact held.imp_left (R.filled k)

theorem sectorUsed {x : Nat} (used : Store.sectorBlank v.hst.store x = false) :
    Store.sectorBlank w.hst.store x = false := by
  rw [Store.sectorBlank_eq_false_iff] at used ⊢
  obtain ⟨k, sector, notBlank⟩ := used
  exact ⟨k, sector, R.filled k notBlank⟩

theorem erases (S : v.ErasesSound) : w.ErasesSound := by
  refine ⟨fun x mem => ?_, fun x running => ?_, fun x under => ?_⟩
  · rw [R.under]
    rcases R.listed x mem with old | ⟨used, free, away⟩
    · obtain ⟨used, free, away⟩ := S.listed x old
      refine ⟨R.sectorUsed used, free, ?_⟩
      rcases R.current with same | unlisted
      · exact same ▸ away
      · rintro rfl
        exact unlisted mem
    · exact ⟨R.sectorUsed used, free, away⟩
  · rcases R.one x running with ⟨before, same⟩ | none
    · exact same.trans (S.one x before)
    · exact none
  · rw [R.under] at under
    obtain ⟨full, unlocked, run⟩ := S.begun x under
    refine ⟨(sectorFull_iff _ _).mpr fun k sector => R.filled k ((sectorFull_iff _ _).mp full k sector),
      R.unlocked x under unlocked, fun starting => run (R.starting starting)⟩

theorem engineOk (same : w.hst.engine = v.hst.engine) (sound : v.EngineOk v.hst.engine) :
    w.EngineOk w.hst.engine := by
  rw [same]
  cases operation : v.hst.engine with
  | checkpoint c p retry => simpa only [operation, StoreView.EngineOk] using sound
  | read who k =>
    cases who with
    | port p n =>
      have held : v.hst.holdsRecord k = true := by simpa only [operation, StoreView.EngineOk] using sound
      exact R.holdsRecord held
    | recovery =>
      have starting : v.supply = .starting := by simpa only [operation, StoreView.EngineOk] using sound
      rcases R.recovery with supply | ⟨-, -, noRead⟩
      · exact supply.trans starting
      · exact (noRead k operation).elim
  | snapshot =>
    have works : v.hst.logFailed = false := by simpa only [operation, StoreView.EngineOk] using sound
    rcases R.failed with kept | other
    · exact kept.trans works
    · exact (other (same.trans operation)).elim
  | _ => trivial

theorem accesses (S : v.AccessesSound) : w.AccessesSound := by
  refine ⟨fun x mem => ?_, fun x mem => ?_, fun x mem => ?_, ?_, ?_, ?_⟩
  · exact (R.index x mem).elim (fun old => R.holdsRecord (S.index x old)) id
  · rcases R.reads x mem with old | ⟨n, pair⟩
    · exact R.holdsRecord (S.reads x old)
    · exact R.holdsRecord (S.index (n, x.2.2) pair)
  · exact (R.images x mem).elim id (S.images x)
  · exact R.ring.elim (fun same => same ▸ S.ring) id
  · rcases R.recovery with same | ⟨-, none, -⟩
    · rcases R.unread with starting | left
      · exact .inr starting
      · rw [same]
        exact S.unread.imp_left left
    · exact .inl none
  · exact R.engine.elim (fun same => R.engineOk same S.engine) id

/-- What is steady keeps the soundness of the slots, where the bound slots and their margin are kept. -/
theorem slots (S : v.SlotsSound) (bound : w.hst.Bound) (margin : w.hst.Margin) : w.SlotsSound := by
  refine ⟨bound, margin, R.erases S.erases, R.accesses S.accesses, ?_, fun starting => ?_⟩
  · rcases R.stage with ⟨stage, supply⟩ | done | starting
    · rw [stage, supply]
      exact S.stage
    · exact .inl done
    · exact .inr starting
  · exact R.queue (S.waits (R.starting starting)) starting

end StoreView.Steady

namespace StoreView.SlotsSound
variable {v w : StoreView} (S : v.SlotsSound)
include S

theorem listedUsed : ∀ x ∈ v.hst.eraseList, Store.sectorBlank v.hst.store x = false ∧ x ≠ v.hst.curLog :=
  fun x mem => ⟨(S.erases.listed x mem).1, (S.erases.listed x mem).2.2⟩

theorem steady (K : v.hst.KeepsSlots w.hst) (R : v.Steady w) : w.SlotsSound :=
  R.slots S (K.bound S.listedUsed S.bound) (K.margin S.listedUsed S.bound S.margin)

/-- The sector of a bound slot is not under erase. -/
theorem bound_notUnderErase {e : PendingSnap} (mem : e ∈ v.hst.queue) : v.hst.underErase (e.slot / 16) = false := by
  by_contra under
  obtain ⟨full, -, -⟩ := S.erases.begun _ (Bool.not_eq_false _ ▸ under)
  have used := (sectorFull_iff _ _).mp full e.slot rfl
  simp [(S.bound.kept e mem).1] at used

end StoreView.SlotsSound

/-- A state of the store with nothing pending. -/
theorem Hst.Bound.of_empty {h : Hst} (queue : h.queue = []) (log : 4 ≤ h.curLog ∧ h.curLog < 10)
    (place : h.writePtr / 16 = h.curLog ∨ h.writePtr = 63 ∧ h.curLog = 4) : h.Bound := by
  refine ⟨?_, ?_, ?_, ?_, log, place⟩ <;> simp [queue]

theorem Hst.Margin.of_empty {h : Hst} (queue : h.queue = []) : h.Margin := by
  refine .inr ⟨?_, ?_⟩ <;> simp [queue]

/-- The log pre-erase is due only while every bound slot lies in the current sector (R148). -/
theorem Hst.Bound.listed_preErase {h : Hst} (B : h.Bound) (due : h.preEraseDue) :
    ∀ e ∈ h.queue, e.slot / 16 ≠ h.nextLog h.curLog := by
  obtain ⟨few, -, another⟩ := due
  intro e mem next
  obtain ⟨-, -, -, here | five⟩ := B.kept e mem
  · exact another (next.symm.trans here)
  · omega

/-! ### The moves that leave the bound slots alone -/

/-- Moves that change neither queue nor store keep the bound slots, but for sectors newly listed. -/
theorem Hst.KeepsSlots.of_listed {h k : Hst} (queue : k.queue = h.queue) (pointer : k.writePtr = h.writePtr)
    (current : k.curLog = h.curLog) (failed : h.logFailed = true → k.logFailed = true) (store : k.store = h.store)
    (retired : k.retired = h.retired)
    (listed : ∀ x ∈ k.eraseList, x ∈ h.eraseList ∨ ∀ e ∈ h.queue, e.slot / 16 ≠ x) : h.KeepsSlots k :=
  ⟨queue, pointer, current, failed, listed, fun _ _ _ _ blank => store ▸ blank, fun _ mem => retired ▸ mem,
    fun _ mem => .inl (retired ▸ mem)⟩

theorem enterErase_cases (x : Nat) (h : Hst) : h.enterErase x = h ∨
    h.underErase x = false ∧ h.enterErase x = { h with eraseList := h.eraseList ++ [x] } := by
  unfold Hst.enterErase
  split_ifs with there
  · exact .inl rfl
  · simp only [Bool.or_eq_true, not_or, Bool.not_eq_true] at there
    exact .inr ⟨there.2, rfl⟩

/-- A sector entered in the ERASE list that is used, not under erase, not the current one and holds no bound slot. -/
theorem StoreView.SlotsSound.enter {v : StoreView} (S : v.SlotsSound) {x : Nat}
    (used : Store.sectorBlank v.hst.store x = false) (free : v.hst.underErase x = false) (away : x ≠ v.hst.curLog)
    (unbound : ∀ e ∈ v.hst.queue, e.slot / 16 ≠ x) :
    ({ v with hst := { v.hst with eraseList := v.hst.eraseList ++ [x] } } : StoreView).SlotsSound := by
  have entered {y : Nat} (mem : y ∈ v.hst.eraseList ++ [x]) : y ∈ v.hst.eraseList ∨ y = x := by simpa using mem
  refine S.steady (.of_listed rfl rfl rfl id rfl rfl fun y mem => ?_) { listed := fun y mem => ?_ }
  · exact (entered mem).imp_right (by rintro rfl; exact unbound)
  · exact (entered mem).imp_right (by rintro rfl; exact ⟨used, free, away⟩)

theorem readsEnded_cases (h : Hst) : ∃ e, h.readsEnded = { h with engine := e } ∧
    (∀ x, e = .erase x ↔ h.engine = .erase x) ∧ (e = h.engine ∨ e = .idle) := by
  unfold Hst.readsEnded
  split
  next k reading => exact ⟨.idle, rfl, by simp [reading], .inr rfl⟩
  · exact ⟨h.engine, rfl, fun _ => .rfl, .inl rfl⟩

theorem underErase_congr {h k : Hst} {x : Nat}
    (same : (k.suspended = some x ∨ k.engine = .erase x) ↔ (h.suspended = some x ∨ h.engine = .erase x)) :
    k.underErase x = h.underErase x := by
  rwa [Bool.eq_iff_iff, underErase_iff, underErase_iff]

theorem underErase_engine {h : Hst} {e : Engine} (same : ∀ x, e = .erase x ↔ h.engine = .erase x) (x : Nat) :
    ({ h with engine := e } : Hst).underErase x = h.underErase x :=
  underErase_congr (or_congr_right (same x))

/-- An operation other than an erase begins or ends. -/
theorem StoreView.SlotsSound.engine {v : StoreView} (S : v.SlotsSound) {e : Engine}
    (same : ∀ x, e = .erase x ↔ v.hst.engine = .erase x) (sound : v.EngineOk e) :
    ({ v with hst := { v.hst with engine := e } } : StoreView).SlotsSound := by
  refine S.steady (.of_listed rfl rfl rfl id rfl rfl fun _ => .inl) {
    under := underErase_engine same
    one := fun x begun => .inl ⟨(same x).mp begun, rfl⟩
    engine := .inr ?_ }
  cases e with
  | read who k =>
    cases who with
    | port p n =>
      have held : v.hst.holdsRecord k = true := sound
      rw [StoreView.EngineOk, holdsRecord_iff, underErase_engine same]
      exact (holdsRecord_iff _ _).mp held
    | recovery => exact sound
  | _ => exact sound

theorem nextPosition_lt {h : Hst} {p : Nat} (ring : h.ckptSector < 4) (position : h.nextPosition = some p) :
    p < 32 := by
  rw [nextPosition_eq] at position
  split at position
  next i found =>
    have low := List.mem_range.mp (List.mem_of_find?_eq_some found)
    have := Option.some.inj position
    omega
  next =>
    unfold Hst.nextSectorPosition at position
    split_ifs at position with next
    have inRing : h.nextRing h.ckptSector < 4 := by
      rcases nextSector_cases h 0 4 h.ckptSector with same | ⟨-, inside, -⟩
      · rwa [Hst.nextRing, same]
      · simpa [Hst.nextRing] using inside
    have := Option.some.inj position
    omega

theorem StoreView.MayStart.not_erase {v : StoreView} {e : Engine} (may : v.MayStart e) (x : Nat) : e ≠ .erase x := by
  rintro rfl
  exact may

/-- What a free engine begins is sound (R154). -/
theorem StoreView.SlotsSound.mayStart {v : StoreView} (S : v.SlotsSound) {e : Engine} (may : v.MayStart e) :
    v.EngineOk e := by
  cases e with
  | read who k =>
    cases who with
    | port p n => exact S.accesses.reads _ may
    | recovery => exact S.accesses.unread.resolve_left may
  | checkpoint c p retry => exact nextPosition_lt S.accesses.ring may
  | snapshot => exact may
  | _ => trivial

theorem suspendErase_cases (h : Hst) : h.suspendErase = h ∨
    ∃ x, h.engine = .erase x ∧ h.suspendErase = { h with engine := .idle, suspended := some x } := by
  unfold Hst.suspendErase
  split
  next x running => exact .inr ⟨x, running, rfl⟩
  · exact .inl rfl

/-- A sector under erase cannot be locked (R149, R150). -/
theorem setLocks_unlocked {h : Hst} {x : Nat} (on : Bool) (named : List Nat) (under : h.underErase x = true)
    (unlocked : h.locked x = false) : (h.setLocks on named).locked x = false := by
  unfold Hst.locked Hst.setLocks at *
  split_ifs at unlocked ⊢ with log
  · have sector : 4 + (x - 4) = x := by omega
    simp only [Vector.getElem_ofFn, sector, under, Bool.and_true, Fin.getElem_fin]
    split_ifs with set
    · cases on <;> simp_all
    · exact unlocked
  · rfl

end Sys2Proof.Machine
end

section
/-! PROOFS. The slots of the pending queue, continued: the begin and the end of an erase, the slot of the oldest entry
used, the rebinding and a close (R144 to R146, R148, R155, R158). -/
namespace Sys2Proof.Machine

/-! ### The begin and the end of an erase (R148, R155, R160) -/

theorem locked_of_image {h : Hst} {x : Nat} (image : 10 ≤ x) : h.locked x = false := dif_neg (by omega)

theorem sectorBlank_congr {m m' : Store} {x : Nat} (same : ∀ j, j / 16 = x → Store.blank m' j = Store.blank m j) :
    Store.sectorBlank m' x = Store.sectorBlank m x := by
  rw [Bool.eq_iff_iff, sectorBlank_iff, sectorBlank_iff]
  exact forall₂_congr fun j sector => by rw [same j sector]

theorem erased_full (m : Store) (x : Nat) : Store.sectorFull (Store.erased m x (BitVec.allOnes 16)) x = true := by
  refine (sectorFull_iff _ _).mpr fun k sector => ?_
  have low : k % 16 < 16 := Nat.mod_lt _ (by decide)
  rw [Store.blank, Store.at_erased, if_pos sector, BitVec.getLsbD_allOnes, if_pos (by simpa using low)]
  rfl

/-- A sector whose erase may begin is not locked, and no entry is bound in it. -/
theorem StoreView.SlotsSound.mayErase {v : StoreView} (S : v.SlotsSound) {x : Nat} (may : v.hst.MayErase x) :
    v.hst.locked x = false ∧ (x ∈ v.hst.eraseList ∨ 10 ≤ x) :=
  may.elim (fun ⟨listed, unlocked⟩ => ⟨unlocked, .inl listed⟩) fun write =>
    have image := S.accesses.images x write
    ⟨locked_of_image image, .inr image⟩

/-- An erase begins that makes of the store `m`. -/
theorem StoreView.SlotsSound.erasing {v : StoreView} (S : v.SlotsSound) {x : Nat} {m : Store} (run : v.supply = .run)
    (alone : v.hst.suspended = none) (noRead : v.hst.reads = []) (may : v.hst.MayErase x)
    (full : Store.sectorFull m x = true)
    (away : ∀ {j}, j / 16 ≠ x → Store.blank m j = Store.blank v.hst.store j) : ({ v with hst := { v.hst with
      engine := .erase x, eraseList := v.hst.eraseList.filter (· != x),
      index := v.hst.index.filter fun y => y.2 / 16 != x, store := m } } : StoreView).SlotsSound := by
  obtain ⟨unlocked, place⟩ := S.mayErase may
  set k : Hst := { v.hst with
    engine := .erase x, eraseList := v.hst.eraseList.filter (· != x),
    index := v.hst.index.filter fun y => y.2 / 16 != x, store := m } with hk
  have under (y : Nat) : k.underErase y = true ↔ x = y := by simp [hk, Hst.underErase, alone]
  have listed {y : Nat} (mem : y ∈ k.eraseList) : y ∈ v.hst.eraseList ∧ y ≠ x := by simpa [hk] using mem
  have K : v.hst.KeepsSlots k := by
    refine ⟨rfl, rfl, rfl, id, fun y mem => .inl (listed mem).1, fun j low high unlisted blank => ?_, fun _ => id,
      fun _ => .inl⟩
    have other : j / 16 ≠ x := by
      rintro rfl
      rcases place with entered | image
      · exact unlisted entered
      · omega
    exact (away other).trans blank
  refine ⟨K.bound S.listedUsed S.bound, K.margin S.listedUsed S.bound S.margin, ⟨fun y mem => ?_, fun _ _ => alone,
    fun y begun => ?_⟩, ⟨fun y mem => ?_, fun y mem => ?_, S.accesses.images, S.accesses.ring, S.accesses.unread,
    trivial⟩, S.stage, S.waits⟩
  · obtain ⟨entered, other⟩ := listed mem
    obtain ⟨used, -, notCurrent⟩ := S.erases.listed y entered
    refine ⟨(sectorBlank_congr fun j sector => away (sector ▸ other)).trans used, ?_, notCurrent⟩
    exact Bool.eq_false_iff.mpr fun erasing => other ((under y).mp erasing).symm
  · obtain rfl := (under y).mp begun
    exact ⟨full, unlocked, by simp [run]⟩
  · obtain ⟨pair, other⟩ : y ∈ v.hst.index ∧ y.2 / 16 ≠ x := by simpa [hk] using mem
    refine (holdsRecord_iff _ _).mpr ⟨(away other).trans ((holdsRecord_iff _ _).mp (S.accesses.index y pair)).1, ?_⟩
    exact Bool.eq_false_iff.mpr fun erasing => other ((under _).mp erasing).symm
  · have none : y ∈ v.hst.reads := mem
    rw [noRead] at none
    cases none

theorem StoreView.SlotsSound.begins {v : StoreView} (S : v.SlotsSound) {x : Nat} (run : v.supply = .run)
    (alone : v.hst.suspended = none) (noRead : v.hst.reads = []) (may : v.hst.MayErase x) :
    ({ v with hst := v.hst.beginErase x } : StoreView).SlotsSound :=
  S.erasing run alone noRead may (erased_full v.hst.store x) (Store.blank_erased_of_ne _)

theorem StoreView.SlotsSound.ended {v : StoreView} (S : v.SlotsSound) {x : Nat} (notBlank : BitVec 16)
    (engine : v.hst.engine = .erase x) : ({ v with hst := { v.hst with
      store := Store.erased v.hst.store x notBlank, engine := .idle
      retired := if notBlank = 0 then v.hst.retired else v.hst.retired ++ [x] } } : StoreView).SlotsSound := by
  have alone := S.erases.one x engine
  have running : v.hst.underErase x = true := (underErase_iff _ _).mpr (.inr engine)
  have full := (S.erases.begun x running).1
  have away {j : Nat} (other : j / 16 ≠ x) :
      Store.blank (Store.erased v.hst.store x notBlank) j = Store.blank v.hst.store j :=
    Store.blank_erased_of_ne _ other
  have other {k : Nat} (held : v.hst.holdsRecord k = true) : k / 16 ≠ x := by
    rintro rfl
    simp [((holdsRecord_iff _ _).mp held).2] at running
  set w : Hst := { v.hst with
    store := Store.erased v.hst.store x notBlank, engine := .idle
    retired := if notBlank = 0 then v.hst.retired else v.hst.retired ++ [x] } with hw
  have under (y : Nat) : w.underErase y = false := by simp [hw, Hst.underErase, alone]
  have held {k : Nat} (before : v.hst.holdsRecord k = true) : w.holdsRecord k = true :=
    (holdsRecord_iff _ _).mpr ⟨(away (other before)).trans ((holdsRecord_iff _ _).mp before).1, under _⟩
  have K : v.hst.KeepsSlots w := by
    refine ⟨rfl, rfl, rfl, id, fun _ => .inl, fun j _ _ _ blank => ?_, fun y mem => ?_, fun y mem => ?_⟩
    · have notErased : j / 16 ≠ x := fun sector => by simp [(sectorFull_iff _ _).mp full j sector] at blank
      exact (away notErased).trans blank
    · simp only [hw]
      split_ifs
      · exact mem
      · exact List.mem_append_left _ mem
    · simp only [hw] at mem
      split_ifs at mem
      · exact .inl mem
      · refine (List.mem_append.mp mem).imp_right fun last => ?_
        rw [List.mem_singleton.mp last]
        exact Store.sectorBlank_of_full full
  refine ⟨K.bound S.listedUsed S.bound, K.margin S.listedUsed S.bound S.margin, ⟨fun y mem => ?_, nofun,
    fun y begun => ?_⟩, ⟨fun y mem => held (S.accesses.index y mem), fun y mem => held (S.accesses.reads y mem),
    S.accesses.images, S.accesses.ring, S.accesses.unread, trivial⟩, S.stage, S.waits⟩
  · obtain ⟨used, free, notCurrent⟩ := S.erases.listed y mem
    have notErased : y ≠ x := by
      rintro rfl
      simp [free] at running
    exact ⟨(sectorBlank_congr fun j sector => away (sector ▸ notErased)).trans used, under y, notCurrent⟩
  · cases (under y).symm.trans begun

/-! ### The slot of the oldest entry is used (R146, R158) -/

/-- `k` is `h` with the slot of the oldest entry used, and the entry there still or gone. -/
structure Hst.Uses (h k : Hst) (e : PendingSnap) (rest : List PendingSnap) : Prop where
  oldest : h.queue = e :: rest
  left : k.queue = rest ∨ k.queue = e :: rest
  blank : ∀ j, Store.blank k.store j = (j != e.slot && Store.blank h.store j)
  pointer : k.writePtr = h.writePtr
  current : k.curLog = h.curLog
  retired : k.retired = h.retired
  listed : k.eraseList = h.eraseList

namespace Hst.Uses
variable {h k : Hst} {e : PendingSnap} {rest : List PendingSnap} (U : h.Uses k e rest)
include U

theorem free_eq (j : Nat) : k.free j = h.free j := by
  rw [Bool.eq_iff_iff, free_iff, free_iff, U.blank, U.oldest]
  by_cases same : j = e.slot
  · simp [same]
  · have other : e.slot ≠ j := fun h => same h.symm
    rcases U.left with left | left <;> simp [left, same, other]

theorem freeAfter_eq (x : Nat) : k.freeAfter h.writePtr x = h.freeAfter h.writePtr x :=
  freeAfter_congr fun j _ _ => U.free_eq j

theorem kept {e' : PendingSnap} (S : h.SlotKept e'.slot) (other : e'.slot ≠ e.slot) : k.SlotKept e'.slot := by
  obtain ⟨blank, log, unlisted, spread⟩ := S
  refine ⟨by simp [U.blank, blank, other], log, U.listed ▸ unlisted, ?_⟩
  rw [U.current, U.pointer, U.freeAfter_eq]
  exact spread

variable (B : h.Bound)
include B

theorem sector : h.writePtr / 16 = h.curLog := B.pointer_sector (by simp [U.oldest])

/-- The margin is what it was, or 5 free slots are left in the current sector. -/
theorem margin_le : h.margin h.writePtr ≤ k.margin h.writePtr ∨ 5 ≤ k.margin h.writePtr := by
  rw [margin_eq, margin_eq, U.sector B, U.freeAfter_eq]
  obtain ⟨-, -, -, here | five⟩ := B.kept e (by simp [U.oldest])
  · have next : h.nextBlank h.curLog = true → k.nextBlank h.curLog = true := by
      simp only [nextBlank_iff, Hst.nextLog, Hst.nextSector, U.retired]
      refine fun ⟨another, blank⟩ => ⟨another, (sectorBlank_congr fun j sector => ?_).trans blank⟩
      have other : j ≠ e.slot := by
        rintro rfl
        exact another (sector.symm.trans here)
      simp [U.blank, other]
    left
    split_ifs with before after
    · exact le_rfl
    · exact (after (next before)).elim
    all_goals omega
  · exact .inr (by omega)

end Hst.Uses

/-- The slots of the two entries that may be pending. -/
theorem Hst.Bound.queue_two {h : Hst} (B : h.Bound) {e : PendingSnap} {rest : List PendingSnap}
    (oldest : h.queue = e :: rest) : (rest = [] ∧ e.slot = h.writePtr) ∨
      ∃ e2, rest = [e2] ∧ e2.slot ≠ e.slot ∧ e2.slot = h.writePtr := by
  have short := B.short
  have nodup := B.nodup
  have pointer := B.pointer
  match rest, oldest with
  | [], oldest => exact .inl ⟨rfl, pointer _ (by simp [oldest])⟩
  | [e2], oldest =>
    refine .inr ⟨e2, rfl, ?_, pointer _ (by simp [oldest])⟩
    simp only [oldest, List.map_cons, List.map_nil, List.nodup_cons, List.mem_singleton] at nodup
    exact fun same => nodup.1 same.symm
  | _ :: _ :: _, oldest =>
    simp only [oldest, List.length_cons] at short
    omega

theorem StoreView.SlotsSound.programmed {v : StoreView} (S : v.SlotsSound) {e : PendingSnap} {rest : List PendingSnap}
    (engine : v.hst.engine = .snapshot) (oldest : v.hst.queue = e :: rest) :
    ({ v with hst := { v.hst with
      store := Store.put v.hst.store e.slot (.snapshot e.snap), queue := rest,
      index := v.hst.index ++ [(e.snap.number, e.slot)], engine := .idle } } : StoreView).SlotsSound := by
  set k : Hst := { v.hst with
    store := Store.put v.hst.store e.slot (.snapshot e.snap), queue := rest,
    index := v.hst.index ++ [(e.snap.number, e.slot)], engine := .idle } with hk
  have B := S.bound
  have U : v.hst.Uses k e rest := ⟨oldest, .inl rfl, fun j => Store.blank_put _ _ _ _, rfl, rfl, rfl, rfl⟩
  have idle (x : Nat) : k.engine = .erase x ↔ v.hst.engine = .erase x := by simp [hk, engine]
  have under : ∀ x, k.underErase x = v.hst.underErase x := underErase_engine idle
  have R : v.Steady { v with hst := k } := {
    filled := fun j => Store.blank_put_of_used _ _
    under := under
    one := by simp [hk]
    index := fun x mem => (List.mem_append.mp mem).imp_right fun last => by
      rw [List.mem_singleton.mp last, holdsRecord_iff, under]
      exact ⟨by simp [hk, Store.blank_put], S.bound_notUnderErase (by simp [oldest])⟩
    engine := .inr trivial
    queue := fun none => by simp [oldest] at none }
  have works : v.hst.logFailed = false := by
    have sound := S.accesses.engine
    rwa [engine] at sound
  obtain ⟨fails, room⟩ := S.margin.resolve_left (by simp [works])
  rcases B.queue_two oldest with ⟨rfl, pointer⟩ | ⟨e2, rfl, other, pointer⟩
  · exact R.slots S (.of_empty rfl B.log B.place) (.of_empty rfl)
  · have kept := B.kept e2 (by simp [oldest])
    refine R.slots S ⟨by simp [hk], by simp [hk], ?_, ?_, B.log, B.place⟩ (.inr ⟨?_, ?_⟩)
    · simpa [hk] using U.kept kept other
    · simpa [hk, eq_comm] using pointer
    · simpa [hk] using fails e2 (by simp [oldest])
    · intro e' rest' last
      obtain ⟨rfl, rfl⟩ : e2 = e' ∧ [] = rest' := by simpa [hk] using last
      have before := room e [e2] oldest
      have once := fails e (by simp [oldest])
      have margin : v.hst.margin v.hst.writePtr ≤ k.margin k.writePtr ∨ 5 ≤ k.margin k.writePtr := U.margin_le B
      simp only [List.length_cons, List.length_nil] at before ⊢
      change 0 + 2 ≤ k.margin k.writePtr + e2.fails
      omega

end Sys2Proof.Machine
end

section
/-! PROOFS. The slots of the pending queue, continued: the rebinding, a close, recovery, and the invariant (R144, R145,
R158, R172 to R176). -/
namespace Sys2Proof.Machine

/-! ### The rebinding (R158) -/

/-- The one entry takes the candidate. -/
theorem rebind_one {h : Hst} {e : PendingSnap} {k : Nat} (queue : h.queue = [e]) (candidate : h.candidate = some k) :
    h.rebind = { h.reserve k with queue := [{ e with slot := k, fails := e.fails + 1 }] } := by
  simp only [Hst.rebind, queue, Hst.chooseSlot, candidate]

/-- The oldest entry takes the slot of the second, and that one the candidate. -/
theorem rebind_two {h : Hst} {e e2 : PendingSnap} {rest : List PendingSnap} {k : Nat}
    (queue : h.queue = e :: e2 :: rest) (candidate : h.candidate = some k) : h.rebind = { h.reserve k with
      queue := { e with slot := e2.slot, fails := e.fails + 1 } :: { e2 with slot := k } :: rest } := by
  simp only [Hst.rebind, queue, Hst.chooseSlot, candidate]

/-- No entry is bound to the candidate. -/
theorem candidate_unbound {h : Hst} {k : Nat} (candidate : h.candidate = some k) (log : 4 ≤ h.curLog ∧ h.curLog < 10)
    (spread : ∀ e ∈ h.queue, e.slot / 16 = h.curLog ∨ 5 ≤ (h.freeAfter h.writePtr h.curLog).length) :
    ∀ e ∈ h.queue, e.slot ≠ k := by
  obtain ⟨-, -, ⟨-, free, -⟩ | ⟨full, next, rfl⟩⟩ := candidate_spec candidate log
  · exact ((free_iff h k).mp free).2
  · intro e mem same
    have another := ((nextBlank_iff _ _).mp next).1
    rcases spread e mem with here | five
    · omega
    · simp [full] at five

/-- A slot that was sound stays so as the candidate is taken, where its entry was bound in the current sector. -/
theorem Hst.Takes.kept {h k : Hst} {slot j : Nat} (T : h.Takes k slot) (log : 4 ≤ h.curLog ∧ h.curLog < 10)
    (spread : ∀ e ∈ h.queue, e.slot / 16 = h.curLog ∨ 5 ≤ (h.freeAfter h.writePtr h.curLog).length)
    (S : h.SlotKept j) (here : j / 16 = h.curLog) : k.SlotKept j := by
  obtain ⟨blank, inLog, unlisted, -⟩ := S
  exact ⟨T.store ▸ blank, inLog, T.listed ▸ unlisted, T.spread_of_current log spread here⟩

/-- The candidate taken is sound. -/
theorem Hst.Takes.taken {h k : Hst} {slot : Nat} (T : h.Takes k slot) (log : 4 ≤ h.curLog ∧ h.curLog < 10)
    (listed : ∀ x ∈ h.eraseList, Store.sectorBlank h.store x = false ∧ x ≠ h.curLog) : k.SlotKept slot := by
  obtain ⟨blank, inLog, -⟩ := candidate_spec T.candidate log
  exact ⟨T.store ▸ blank, inLog, T.listed ▸ candidate_unlisted T.candidate log listed, .inl T.current.symm⟩

/-- The store after the program of `e` has read back INVALID, before the rebinding. -/
def Hst.spoiled (e : PendingSnap) (h : Hst) : Hst := { h with store := Store.put h.store e.slot .junk, engine := .idle }

theorem programFailed_eq (e : PendingSnap) (h : Hst) :
    h.programFailed e = { (h.spoiled e).rebind with logFailed := h.logFailed || decide (1 ≤ e.fails) } := rfl

theorem spoiled_uses {h : Hst} {e : PendingSnap} {rest : List PendingSnap} (oldest : h.queue = e :: rest) :
    h.Uses (h.spoiled e) e rest :=
  ⟨oldest, .inr oldest, fun _ => Store.blank_put _ _ _ _, rfl, rfl, rfl, rfl⟩

/-- `k` is `h` after the program of its oldest entry `e` has failed, with `slot` taken: each entry has the slot of the
one behind it, and the last has the slot taken. -/
structure Hst.Rebound (h k : Hst) (e : PendingSnap) (rest : List PendingSnap) (slot : Nat) : Prop where
  candidate : (h.spoiled e).candidate = some slot
  frame : k = { h.spoiled e with
    queue := k.queue, writePtr := slot, curLog := slot / 16, logFailed := h.logFailed || decide (1 ≤ e.fails) }
  slots : k.queue.map (·.slot) = rest.map (·.slot) ++ [slot]
  fails : k.queue.map (·.fails) = (e.fails + 1) :: rest.map (·.fails)

theorem programFailed_rebound {h : Hst} {e : PendingSnap} {rest : List PendingSnap} {k : Nat} (B : h.Bound)
    (oldest : h.queue = e :: rest) (candidate : (h.spoiled e).candidate = some k) :
    h.Rebound (h.programFailed e) e rest k := by
  rw [programFailed_eq]
  rcases B.queue_two oldest with ⟨rfl, -⟩ | ⟨e2, rfl, -, -⟩
  · rw [rebind_one (h := h.spoiled e) oldest candidate]
    exact ⟨candidate, rfl, rfl, rfl⟩
  · rw [rebind_two (h := h.spoiled e) oldest candidate]
    exact ⟨candidate, rfl, rfl, rfl⟩

theorem unbound_iff (l : List PendingSnap) (j : Nat) : (∀ e ∈ l, e.slot ≠ j) ↔ j ∉ l.map (·.slot) := by simp

theorem Hst.Rebound.takes {h k : Hst} {e : PendingSnap} {rest : List PendingSnap} {slot : Nat}
    (R : h.Rebound k e rest slot) (oldest : h.queue = e :: rest) : (h.spoiled e).Takes k slot := by
  have frame := R.frame
  refine ⟨R.candidate, by rw [frame], by rw [frame], by rw [frame], by rw [frame], by rw [frame],
    fun j blank other => ?_⟩
  have unspoiled : j ≠ e.slot := by
    rintro rfl
    simp [Hst.spoiled, Store.blank_put] at blank
  have before : (h.spoiled e).queue = e :: rest := oldest
  rw [unbound_iff, unbound_iff, R.slots, before]
  simp [other, unspoiled]

theorem Hst.Rebound.steady {v : StoreView} {k : Hst} {e : PendingSnap} {rest : List PendingSnap} {slot : Nat}
    (R : v.hst.Rebound k e rest slot) (engine : v.hst.engine = .snapshot)
    (oldest : v.hst.queue = e :: rest) (unlisted : slot / 16 ∉ v.hst.eraseList) : v.Steady { v with hst := k } := by
  have idle (x : Nat) : Engine.idle = .erase x ↔ v.hst.engine = .erase x := by simp [engine]
  rw [R.frame]
  exact {
    filled := fun j => Store.blank_put_of_used _ _
    under := underErase_engine idle
    one := nofun
    current := .inr unlisted
    engine := .inr trivial
    failed := .inr nofun
    queue := fun none => by simp [oldest] at none }

section
variable {h k : Hst} {e : PendingSnap} {rest : List PendingSnap} {slot : Nat} (R : h.Rebound k e rest slot)
  (B : h.Bound) (oldest : h.queue = e :: rest)

/-- The listed sectors of the spoiled store are as used as before. -/
theorem spoiled_listed (e : PendingSnap)
    (listed : ∀ x ∈ h.eraseList, Store.sectorBlank h.store x = false ∧ x ≠ h.curLog) :
    ∀ x ∈ (h.spoiled e).eraseList, Store.sectorBlank (h.spoiled e).store x = false ∧ x ≠ (h.spoiled e).curLog := by
  intro x mem
  refine (listed x mem).imp_left fun used => ?_
  obtain ⟨k, sector, notBlank⟩ := (Store.sectorBlank_eq_false_iff _ _).mp used
  exact (Store.sectorBlank_eq_false_iff _ _).mpr ⟨k, sector, Store.blank_put_of_used _ _ notBlank⟩

include B oldest

theorem spoiled_spread : ∀ e' ∈ (h.spoiled e).queue, e'.slot / 16 = (h.spoiled e).curLog ∨
    5 ≤ ((h.spoiled e).freeAfter (h.spoiled e).writePtr (h.spoiled e).curLog).length := by
  intro e' mem
  have U := spoiled_uses oldest
  rw [U.current, U.pointer, U.freeAfter_eq]
  exact (B.kept e' mem).2.2.2

/-- Where the log works, the margin leaves a candidate for the rebinding (assumption 31). -/
theorem spoiled_candidate (works : h.logFailed = false) (M : h.Margin) : ∃ k, (h.spoiled e).candidate = some k := by
  obtain ⟨fails, room⟩ := M.resolve_left (by simp [works])
  have once := fails e (by simp [oldest])
  have before := room e rest oldest
  have U := spoiled_uses oldest
  have margin := U.margin_le B
  refine candidate_of_margin ?_ ?_
  · rw [U.pointer, U.current]
    exact U.sector B
  · rw [U.pointer]
    omega

include R

theorem Hst.Rebound.bound (listed : ∀ x ∈ h.eraseList, Store.sectorBlank h.store x = false ∧ x ≠ h.curLog) :
    k.Bound := by
  have U := spoiled_uses oldest
  have T := R.takes oldest
  have spread := spoiled_spread B oldest
  have log : 4 ≤ (h.spoiled e).curLog ∧ (h.spoiled e).curLog < 10 := B.log
  have fresh := candidate_unbound R.candidate log spread
  have taken := T.taken log (spoiled_listed e listed)
  have nodup := B.nodup
  rw [oldest, List.map_cons, List.nodup_cons] at nodup
  have length : k.queue.length = rest.length + 1 := by simpa using congrArg List.length R.fails
  have short := B.short
  rw [oldest, List.length_cons] at short
  have kept {e' : PendingSnap} (mem : e' ∈ rest) : k.SlotKept e'.slot := by
    rcases B.queue_two oldest with ⟨rfl, -⟩ | ⟨e2, rfl, other, pointer⟩
    · cases mem
    · obtain rfl := List.mem_singleton.mp mem
      refine T.kept log spread (U.kept (B.kept e' (by simp [oldest])) other) ?_
      rw [pointer, U.current]
      exact U.sector B
  refine ⟨by omega, ?_, fun e' mem => ?_, fun j last => ?_, by rw [T.current]; exact taken.2.1, .inl ?_⟩
  · rw [R.slots, List.nodup_append]
    refine ⟨nodup.2, List.nodup_singleton _, fun j mem slot' isSlot => ?_⟩
    obtain ⟨e', inRest, rfl⟩ := List.mem_map.mp mem
    rw [List.mem_singleton.mp isSlot]
    exact fresh e' (oldest ▸ List.mem_cons_of_mem e inRest)
  · have place : e'.slot ∈ rest.map (·.slot) ++ [slot] := R.slots ▸ List.mem_map_of_mem mem
    rcases List.mem_append.mp place with old | new
    · obtain ⟨e'', inRest, same⟩ := List.mem_map.mp old
      exact same ▸ kept inRest
    · rw [List.mem_singleton.mp new]
      exact taken
  · rw [R.slots, List.getLast?_concat] at last
    rw [T.pointer, Option.some.inj last]
  · rw [T.pointer, T.current]

theorem Hst.Rebound.margin (works : h.logFailed = false) (M : h.Margin) : k.Margin := by
  have U := spoiled_uses oldest
  have T := R.takes oldest
  obtain ⟨fails, room⟩ := M.resolve_left (by simp [works])
  have failed : k.logFailed = (h.logFailed || decide (1 ≤ e.fails)) := by rw [R.frame]
  by_cases again : 1 ≤ e.fails
  · exact .inl (by simp [failed, again])
  have first : e.fails = 0 := by omega
  refine .inr ⟨fun e' mem => ?_, fun e' rest' list => ?_⟩
  · have count : e'.fails ∈ (e.fails + 1) :: rest.map (·.fails) := R.fails ▸ List.mem_map_of_mem mem
    rcases List.mem_cons.mp count with new | old
    · omega
    · obtain ⟨e'', inRest, same⟩ := List.mem_map.mp old
      exact same ▸ fails e'' (by simp [oldest, inRest])
  · obtain ⟨one, others⟩ : e'.fails = e.fails + 1 ∧ rest'.map (·.fails) = rest.map (·.fails) := by
      simpa only [list, List.map_cons, List.cons.injEq] using R.fails
    have length : rest'.length = rest.length := by simpa using congrArg List.length others
    have before := room e rest oldest
    have sector : (h.spoiled e).writePtr / 16 = (h.spoiled e).curLog := U.sector B
    have taken := T.margin_le B.log (spoiled_spread B oldest) sector
    have margin := U.margin_le B
    have short := B.short
    rw [oldest, List.length_cons] at short
    rw [U.pointer] at taken
    rw [T.pointer]
    omega

end

theorem StoreView.SlotsSound.programFailed {v : StoreView} (S : v.SlotsSound) {e : PendingSnap}
    {rest : List PendingSnap} (engine : v.hst.engine = .snapshot) (oldest : v.hst.queue = e :: rest) :
    ({ v with hst := v.hst.programFailed e } : StoreView).SlotsSound := by
  have works : v.hst.logFailed = false := by
    have sound := S.accesses.engine
    rwa [engine] at sound
  obtain ⟨k, candidate⟩ := spoiled_candidate S.bound oldest works S.margin
  have R := programFailed_rebound S.bound oldest candidate
  have unlisted := candidate_unlisted candidate S.bound.log (spoiled_listed e S.listedUsed)
  exact (R.steady engine oldest unlisted).slots S (R.bound S.bound oldest S.listedUsed)
    (R.margin S.bound oldest works S.margin)

end Sys2Proof.Machine
end

section
/-! PROOFS. The slots of the pending queue, the end: a close, the log scan, and the invariant over every move (R144,
R145, R175, R176). -/
namespace Sys2Proof.Machine
open Sys2Proof.Claim

/-! ### A close (R144, R145) -/

theorem StoreView.SlotsSound.closes {v : StoreView} (S : v.SlotsSound) {k : Nat} {snap : Snapshot} {period : Nat}
    (run : v.supply = .run) (granted : v.hst.grant = some k) : ({ v with
      hst := { v.hst.reserve k with queue := v.hst.queue ++ [{ snap := snap, slot := k, fails := 0 }] }
      period := period } : StoreView).SlotsSound := by
  obtain ⟨room, works, candidate, margin⟩ := (grantRule _ _).mp granted
  set w : Hst := { v.hst.reserve k with
    queue := v.hst.queue ++ [{ snap := snap, slot := k, fails := 0 }] } with hw
  have B := S.bound
  have spread := fun e mem => (B.kept e mem).2.2.2
  have T : v.hst.Takes w k := by
    refine ⟨candidate, rfl, rfl, rfl, rfl, rfl, fun j _ other => ?_⟩
    simp [hw, Hst.reserve, or_imp, forall_and, Ne.symm other]
  have taken := T.taken B.log S.listedUsed
  have fresh := candidate_unbound candidate B.log spread
  have behind : 3 ≤ w.margin w.writePtr := T.margin_eq'.symm ▸ margin
  have slots : w.queue.map (·.slot) = v.hst.queue.map (·.slot) ++ [k] := by simp [hw, Hst.reserve]
  have R : v.Steady { v with hst := w, period := period } := {
    current := .inr taken.2.2.1
    queue := fun _ starting => by simp [run] at starting }
  refine R.slots S ⟨?_, ?_, ?_, fun j last => ?_, taken.2.1, .inl rfl⟩ (.inr ⟨?_, fun e rest list => ?_⟩)
  · simpa [hw] using room
  · rw [slots, List.nodup_append]
    refine ⟨B.nodup, List.nodup_singleton _, fun j mem slot' isSlot => ?_⟩
    obtain ⟨e, pending, rfl⟩ := List.mem_map.mp mem
    rw [List.mem_singleton.mp isSlot]
    exact fresh e pending
  · intro e mem
    rcases List.mem_append.mp mem with old | new
    · obtain ⟨e', alone⟩ : ∃ e', v.hst.queue = [e'] := by
        have pending := List.length_pos_of_mem old
        exact List.length_eq_one_iff.mp (by omega)
      obtain rfl : e = e' := by simpa [alone] using old
      refine T.kept B.log spread (B.kept e old) ?_
      rw [B.pointer e.slot (by simp [alone])]
      exact B.pointer_sector (by simp [alone])
    · rw [List.mem_singleton.mp new]
      exact taken
  · rw [slots, List.getLast?_concat] at last
    exact (Option.some.inj last).symm
  · obtain ⟨fails, -⟩ := S.margin.resolve_left (by simp [works])
    intro e mem
    rcases List.mem_append.mp mem with old | new
    · exact fails e old
    · rw [List.mem_singleton.mp new]
      exact Nat.zero_le 1
  · have length := congrArg List.length list
    simp only [hw, List.length_append, List.length_cons, List.length_nil] at length
    change rest.length + 2 ≤ w.margin w.writePtr + e.fails
    omega

/-! ### The log scan (R175, R176) -/

/-- The scan leaves the write pointer in the log. -/
theorem scanLog_place (h : Hst) : (4 ≤ h.scanLog.curLog ∧ h.scanLog.curLog < 10) ∧
    (h.scanLog.writePtr / 16 = h.scanLog.curLog ∨ h.scanLog.writePtr = 63 ∧ h.scanLog.curLog = 4) := by
  unfold Hst.scanLog
  split
  next k r newest =>
    have mem := ((newestSnapshot_spec _).2 _ newest).1
    obtain ⟨i, low, slot⟩ := List.mem_map.mp ((mem_logSlots _ _ _ _).mp mem).1
    have := List.mem_range.mp low
    exact ⟨by constructor <;> simp only <;> omega, .inl rfl⟩
  · exact ⟨⟨Nat.le_refl 4, (by decide : 4 < 10)⟩, .inr ⟨rfl, rfl⟩⟩

theorem needsErase_spec {d : Option Nat} {h : Hst} {x : Nat} (log : 4 ≤ h.curLog ∧ h.curLog < 10)
    (needs : h.needsErase d x = true) : Store.sectorBlank h.store x = false ∧ x ≠ h.curLog := by
  simp only [Hst.needsErase, Bool.and_eq_true, Bool.not_eq_true'] at needs
  refine ⟨needs.1, ?_⟩
  rintro rfl
  obtain ⟨-, rest⟩ := needs
  rw [if_neg (by omega), if_pos log.2] at rest
  simp at rest

theorem scanLog_eq_frame (h : Hst) :
    h.scanLog = { h with writePtr := h.scanLog.writePtr, curLog := h.scanLog.curLog, index := h.scanLog.index } := by
  unfold Hst.scanLog
  split <;> rfl

theorem StoreView.SlotsSound.logScanned {v : StoreView} (S : v.SlotsSound) {period : Nat} {unread : List Nat}
    (designation : Option Nat) (starting : v.supply = .starting) : ({
      hst := v.hst.logScanned designation, period := period, stage := .images, supply := .starting,
      unread := unread } : StoreView).SlotsSound := by
  have pending := S.waits starting
  have free (x : Nat) : v.hst.underErase x = false :=
    Bool.eq_false_iff.mpr fun under => (S.erases.begun x under).2.2 starting
  obtain ⟨e, ended, same, stays⟩ := readsEnded_cases v.hst
  have frame : v.hst.logScanned designation = { v.hst with
      engine := e, writePtr := v.hst.readsEnded.scanLog.writePtr, curLog := v.hst.readsEnded.scanLog.curLog,
      index := v.hst.readsEnded.scanLog.index, eraseList := (v.hst.logScanned designation).eraseList } := by
    unfold Hst.logScanned
    rw [scanLog_eq_frame, ended]
  have store : v.hst.readsEnded.scanLog.store = v.hst.store := by rw [scanLog_eq_frame, ended]
  have place := scanLog_place v.hst.readsEnded
  have listed {x : Nat} (mem : x ∈ (v.hst.logScanned designation).eraseList) :
      Store.sectorBlank v.hst.store x = false ∧ x ≠ v.hst.readsEnded.scanLog.curLog := by
    rw [← store]
    exact needsErase_spec place.1 (List.mem_filter.mp mem).2
  have held {x : Nat × Nat} (mem : x ∈ v.hst.readsEnded.scanLog.index) : Store.blank v.hst.store x.2 = false := by
    obtain ⟨r, slot, -⟩ := scanLog_index_held mem
    rw [ended] at slot
    simp [Store.blank, slot]
  have notCurrent : v.hst.readsEnded.scanLog.curLog ∉ (v.hst.logScanned designation).eraseList :=
    fun mem => (listed mem).2 rfl
  have R : v.Steady {
      hst := v.hst.logScanned designation, period := period, stage := .images, supply := .starting,
      unread := unread } := by
    rw [frame]
    exact {
      under := underErase_engine same
      one := fun x begun => .inl ⟨(same x).mp begun, rfl⟩
      listed := fun x mem => .inr ⟨(listed mem).1, free x, (listed mem).2⟩
      current := .inr notCurrent
      index := fun x mem => .inr ((holdsRecord_iff _ _).mpr ⟨held mem, (underErase_engine same _).trans (free _)⟩)
      engine := stays.imp_right (by rintro rfl; trivial)
      starting := fun _ => starting
      recovery := .inl starting.symm
      unread := .inl rfl
      stage := .inr (.inr rfl) }
  exact R.slots S (.of_empty (by rw [frame]; exact pending) place.1 place.2) (.of_empty (by rw [frame]; exact pending))

/-! ### The moves -/

/-- Nothing is under erase, listed or read for a port after a reset. -/
theorem slotsSound_reset (m : Store) (period : Nat) (unread : List Nat) : ({
    hst := .reset m, period := period, stage := .ring, supply := .starting, unread := unread } :
    StoreView).SlotsSound where
  bound := .of_empty rfl ⟨Nat.le_refl 4, (by decide : 4 < 10)⟩ (.inr ⟨rfl, rfl⟩)
  margin := .of_empty rfl
  erases := ⟨nofun, fun _ _ => rfl, by simp [Hst.reset, Hst.underErase]⟩
  accesses := ⟨nofun, nofun, by simp [Hst.reset, Hst.writeSectors], (by decide : 0 < 4), .inr rfl, rfl⟩
  stage := .inr rfl
  waits := fun _ => rfl

/-- A read ends: only a slot of a record, or in STARTING any slot, may have decayed. -/
theorem StoreView.SlotsSound.readEnds {v : StoreView} (S : v.SlotsSound) {who : Reader} {k : Nat} (decayed : Bool)
    (engine : v.hst.engine = .read who k) : ({ v with hst := { v.hst with
      engine := .idle, store := if decayed then Store.put v.hst.store k .junk else v.hst.store } } :
      StoreView).SlotsSound := by
  have idle (x : Nat) : Engine.idle = .erase x ↔ v.hst.engine = .erase x := by simp [engine]
  have filled (j : Nat) (used : Store.blank v.hst.store j = false) :
      Store.blank (if decayed then Store.put v.hst.store k .junk else v.hst.store) j = false := by
    cases decayed
    · exact used
    · exact Store.blank_put_of_used _ _ used
  have R : v.Steady { v with hst := { v.hst with
      engine := .idle, store := if decayed then Store.put v.hst.store k .junk else v.hst.store } } := {
    filled := filled, under := underErase_engine idle, one := nofun, engine := .inr trivial }
  have sound := S.accesses.engine
  rw [engine] at sound
  cases who with
  | recovery =>
    have pending := S.waits sound
    exact R.slots S (.of_empty pending S.bound.log S.bound.place) (.of_empty pending)
  | port p n =>
    have used : Store.blank v.hst.store k = false := ((holdsRecord_iff _ _).mp sound).1
    refine S.steady ⟨rfl, rfl, rfl, id, fun _ => .inl, fun j _ _ _ blank => ?_, fun _ => id, fun _ => .inl⟩ R
    have other : j ≠ k := by
      rintro rfl
      cases used.symm.trans blank
    cases decayed
    · exact blank
    · simpa [Store.blank_put, other] using blank

theorem StoreMove.keeps_slots {v w : StoreView} (move : StoreMove v w) (S : v.SlotsSound) : w.SlotsSound := by
  cases move with
  | notes only =>
    rw [only]
    exact S.steady (.of_listed rfl rfl rfl id rfl rfl fun _ => .inl) {}
  | writes waiting job images image =>
    refine S.steady (.of_listed rfl rfl rfl id rfl rfl fun _ => .inl) { images := fun x mem => ?_ }
    rcases (mem_writeSectors _ _).mp mem with ⟨w, waits, rfl⟩ | ⟨j, runs, rfl⟩
    · exact images w waits
    · exact .inr (image j runs)
  | closes run granted number => exact S.closes run granted
  | logPreErase =>
    rcases judgeLogPreErase_cases v.hst with same | ⟨due, -, free, entered⟩
    · rwa [same]
    · rw [entered]
      exact S.enter due.2.1 free due.2.2 (S.bound.listed_preErase due)
  | @ringPreErase x ring used =>
    rcases enterErase_cases x v.hst with same | ⟨free, entered⟩
    · rwa [same]
    · have log := S.bound.log
      rw [entered]
      refine S.enter used free (by omega) fun e mem => ?_
      have slot := (S.bound.kept e mem).2.1
      omega
  | logFails free =>
    exact S.steady (.of_listed rfl rfl rfl (fun _ => rfl) rfl rfl fun _ => .inl) { failed := .inr free }
  | programmed engine oldest => exact S.programmed engine oldest
  | programFailed engine oldest => exact S.programFailed engine oldest
  | @halves c p r valid0 valid1 engine =>
    have position : p < 32 := by
      have sound := S.accesses.engine
      rwa [engine] at sound
    have idle (x : Nat) : Engine.idle = .erase x ↔ v.hst.engine = .erase x := by simp [engine]
    refine S.steady ⟨rfl, rfl, rfl, id, fun _ => .inl, fun j low _ _ blank => ?_, fun _ => id, fun _ => .inl⟩ {
      filled := fun j used => Store.blank_put_of_used _ _ (Store.blank_put_of_used _ _ used)
      under := underErase_engine idle
      one := nofun
      ring := .inr (Nat.div_lt_of_lt_mul position)
      engine := .inr trivial }
    have outside : j ≠ 2 * p ∧ j ≠ 2 * p + 1 := by omega
    simp [Hst.programHalves, Store.blank_put, blank, outside]
  | @part j content engine job =>
    have image := S.accesses.images j.sector (job_mem_writeSectors job)
    have idle (x : Nat) : Engine.idle = .erase x ↔ v.hst.engine = .erase x := by simp [engine]
    refine S.steady ⟨rfl, rfl, rfl, id, fun _ => .inl, fun i _ high _ blank => ?_, fun _ => id, fun _ => .inl⟩ {
      filled := fun i => Store.blank_put_of_used _ _
      under := underErase_engine idle
      one := nofun
      engine := .inr trivial }
    have outside : i ≠ 16 * j.sector + j.slot := by omega
    simp [Store.blank_put, blank, outside]
  | starts free may => exact S.engine (fun x => by simp [free, may.not_erase x]) (S.mayStart may)
  | erases run free alone noRead may => exact S.begins run alone noRead may
  | resumes free suspended =>
    exact S.steady (.of_listed rfl rfl rfl id rfl rfl fun _ => .inl) {
      under := fun x => underErase_congr (by simp [free, suspended])
      one := fun _ _ => .inr rfl
      engine := .inr trivial
      failed := .inr nofun }
  | suspends =>
    rcases suspendErase_cases v.hst with same | ⟨x, engine, suspended⟩
    · rwa [same]
    · have alone := S.erases.one x engine
      rw [suspended]
      exact S.steady (.of_listed rfl rfl rfl id rfl rfl fun _ => .inl) {
        under := fun x => underErase_congr (by simp [engine, alone])
        one := nofun
        engine := .inr trivial
        failed := .inr nofun }
  | erased notBlank engine => exact S.ended notBlank engine
  | @asks n k p held =>
    refine S.steady (.of_listed rfl rfl rfl id rfl rfl fun _ => .inl) { reads := fun x mem => ?_ }
    refine (List.mem_append.mp mem).imp_right fun new => ⟨n, ?_⟩
    rw [List.mem_singleton.mp new]
    exact held
  | read decayed engine => exact S.readEnds decayed engine
  | forgets pairs asked left =>
    exact S.steady (.of_listed rfl rfl rfl id rfl rfl fun _ => .inl) {
      index := fun x mem => .inl (pairs.mem mem)
      reads := fun x mem => .inl (asked.mem mem)
      unread := .inr fun none => List.eq_nil_of_sublist_nil (none ▸ left) }
  | locks on named =>
    exact S.steady (.of_listed rfl rfl rfl id rfl rfl fun _ => .inl) {
      unlocked := fun x => setLocks_unlocked on named }
  | resets m => exact slotsSound_reset m _ _
  | ringScanned period unread starting stage sector =>
    obtain ⟨e, ended, same, stays⟩ := readsEnded_cases v.hst
    rw [ended]
    exact S.steady (.of_listed rfl rfl rfl id rfl rfl fun _ => .inl) {
      under := underErase_engine same
      one := fun x begun => .inl ⟨(same x).mp begun, rfl⟩
      ring := .inr sector
      engine := stays.imp_right (by rintro rfl; trivial)
      starting := fun _ => starting
      recovery := .inl starting.symm
      unread := .inl rfl
      stage := .inr (.inr rfl) }
  | logScanned designation unread starting stage below => exact S.logScanned designation starting
  | imagesLoaded starting stage =>
    obtain ⟨e, ended, same, stays⟩ := readsEnded_cases v.hst
    rw [ended]
    exact S.steady (.of_listed rfl rfl rfl id rfl rfl fun _ => .inl) {
      under := underErase_engine same
      one := fun x begun => .inl ⟨(same x).mp begun, rfl⟩
      engine := stays.imp_right (by rintro rfl; trivial)
      unread := .inr fun _ => rfl
      stage := .inr (.inl rfl) }
  | supply left ready =>
    have recovered : v.stage = .done ∧ v.unread = [] ∧ ∀ k, v.hst.engine ≠ .read .recovery k := by
      refine ready.elim (fun run => ⟨S.stage.resolve_right run, S.accesses.unread.resolve_right run, ?_⟩) id
      intro k engine
      have sound := S.accesses.engine
      rw [engine] at sound
      exact run sound
    exact S.steady (.of_listed rfl rfl rfl id rfl rfl fun _ => .inl) {
      starting := fun starting => (left starting).elim
      recovery := .inr ⟨left, recovered.2⟩
      stage := .inr (.inl recovered.1) }

/-- Settles O59: a step does nothing to the store but its moves, and each keeps the slots sound. -/
theorem boundSlotsKept : Obligations.BoundSlotsKept := by
  intro s t sound h
  rw [slotsOk_iff] at sound ⊢
  exact (step_leads h).keeps (P := StoreView.SlotsSound) (fun _ _ => StoreMove.keeps_slots) sound

end Sys2Proof.Machine
end

section
/-! PROOFS. The end of a command, the end of a snapshot program, and the requests on the archive (R144, R146, R149,
R150, R152, R154, R157, R158, R167, R171, R172). -/
namespace Sys2Proof.Machine
open Sys2Proof.Claim

/-! ### The end of a command (R152, R154, R167, R171) -/

theorem restartWaits_iff (h : Hst) : h.restartWaits = true ↔
    (∃ c, h.ckptReq = some c ∧ Cause.restart.isIn c = true) ∨
    (∃ c, h.ckptRetry = some c ∧ Cause.restart.isIn c.causes = true) ∨
    ∃ c p r, h.engine = .checkpoint c p r ∧ Cause.restart.isIn c.causes = true := by
  unfold Hst.restartWaits
  cases h.ckptReq <;> cases h.ckptRetry <;> cases h.engine <;> simp [or_assoc]

theorem powerFailWaits_iff (h : Hst) : h.powerFailWaits = true ↔
    (∃ c, h.ckptReq = some c ∧ Cause.powerFail.isIn c = true) ∨
    ∃ c, h.ckptRetry = some c ∧ Cause.powerFail.isIn c.causes = true := by
  unfold Hst.powerFailWaits
  cases h.ckptReq <;> cases h.ckptRetry <;> simp

theorem restartDue_iff (s : State) : restartDue s = true ↔
    s.sup.restarting = true ∧ s.sup.supply = .run ∧ ¬s.hst.restartWaits = true := by
  simp [restartDue, and_assoc]

theorem finish_goesOn {s : State} (due : ¬restartDue s = true) : finish s = withdrawLost (arbitrate s) := by
  rw [finish, if_neg due]

/-- The reset that ends a RESTART stands: recovery's first read is in progress. -/
theorem finish_restarts {s : State} (due : restartDue s = true) : finish s = resetEngine s := by
  have notAgain : ¬restartDue (resetEngine s) = true := by
    rw [restartDue_iff]
    rintro ⟨-, run, -⟩
    cases run
  calc finish s = withdrawLost (arbitrate (resetEngine s)) := by rw [finish, if_pos due]
    _ = finish (resetEngine s) := (finish_goesOn notAgain).symm
    _ = resetEngine s := finish_resetWith _ _ _ s

/-- A checkpoint is lost: with no position for it, nothing else to write and nothing in progress in WARNING (R167). -/
def Lost (s : State) : Prop :=
  s.sup.supply = .warning ∧ (s.hst.queue = [] ∨ s.hst.logFailed = true) ∧ s.hst.engine = .idle ∧ s.hst.reads = [] ∧
    s.hst.nextPosition = none ∧
    (s.hst.ckptRetry ≠ none ∨ ∃ c, s.hst.ckptReq = some c ∧ Cause.powerFail.isIn c = true)

theorem waitsLost_iff (h : Hst) : (h.powerFailWaits = true ∨ h.ckptRetry.isSome = true) ↔
    h.ckptRetry ≠ none ∨ ∃ c, h.ckptReq = some c ∧ Cause.powerFail.isIn c = true := by
  rw [powerFailWaits_iff, ← Option.ne_none_iff_isSome]
  constructor
  · rintro ((request | ⟨c, retry, -⟩) | retry)
    · exact .inr request
    · exact .inl (by simp [retry])
    · exact .inl retry
  · exact fun h => h.elim .inr fun request => .inl (.inl request)

theorem drained_iff (h : Hst) : h.drained = true ↔ h.queue = [] ∨ h.logFailed = true := by simp [Hst.drained]

theorem quiet_iff (h : Hst) : h.quiet = true ↔ h.engine = .idle ∧ h.reads = [] := by simp [Hst.quiet]

theorem filter_powerFail (req : Option CauseSet) : (req.filter fun c => !Cause.powerFail.isIn c) =
    match req with
    | some c => if Cause.powerFail.isIn c then none else some c
    | none => none := by
  cases req with
  | none => rfl
  | some c => cases carries : Cause.powerFail.isIn c <;> simp [Option.filter, carries]

theorem withdrawLost_of_lost {s : State} (lost : Lost s) : withdrawLost s = { s with
    hst := { s.hst with
      ckptRetry := none
      ckptReq := s.hst.ckptReq.filter fun c => !Cause.powerFail.isIn c }
    sup := { s.sup with lostCkpt := satAdd s.sup.lostCkpt 1 } } := by
  obtain ⟨warning, drained, idle, reads, nowhere, waits⟩ := lost
  exact if_pos ⟨warning, (drained_iff _).mpr drained, (quiet_iff _).mpr ⟨idle, reads⟩, (waitsLost_iff _).mpr waits,
    nowhere⟩

theorem withdrawLost_of_not_lost {s : State} (stays : ¬Lost s) : withdrawLost s = s := by
  refine if_neg fun ⟨warning, drained, quiet, waits, nowhere⟩ => stays ?_
  obtain ⟨idle, reads⟩ := (quiet_iff _).mp quiet
  exact ⟨warning, (drained_iff _).mp drained, idle, reads, nowhere, (waitsLost_iff _).mp waits⟩

/-- The engine's choice changes the History Store alone. -/
theorem arbitrate_hst (s : State) : arbitrate s = { s with hst := (arbitrate s).hst } := by
  have frame := arbitrate_frame s
  generalize arbitrate s = t at frame ⊢
  cases t
  simp_all

/-- Settles O5: the restart's reset, or the engine's choice and then the withdrawal where the checkpoint is lost. -/
theorem commandEnd : Obligations.CommandEnd := by
  intro u waits ends a stuck
  have due : restartDue u = true ↔ ends := by rw [restartDue_iff, restartWaits_iff]
  have lost : Lost a ↔ stuck := Iff.rfl
  refine ⟨fun h => finish_restarts (due.mpr h), fun h stays => ?_, fun h isLost => ?_, _, arbitrate_hst u⟩
  · exact (finish_goesOn (mt due.mp h)).trans (withdrawLost_of_not_lost stays)
  · refine (finish_goesOn (mt due.mp h)).trans ((withdrawLost_of_lost isLost).trans ?_)
    rw [filter_powerFail] <;> rfl

/-! ### The end of a snapshot program (R144, R146, R158) -/

/-- The first failure leaves the rebound entries and the pre-erase; the second marks the log besides. -/
theorem snapshotFailed_eq (e : PendingSnap) (s : State) : snapshotFailed e s =
    if 1 ≤ e.fails then failLog (updHst (fun h => (h.spoiled e).rebind.judgeLogPreErase) s)
    else updHst (fun h => (h.spoiled e).rebind.judgeLogPreErase) s :=
  ite_congr (propext (by omega)) (fun _ => rfl) fun _ => rfl

/-- The entries rebound, with the candidate there is. -/
def reboundQueue (e : PendingSnap) (rest : List PendingSnap) (k : Nat) : List PendingSnap :=
  match rest with
  | [] => [{ e with slot := k, fails := e.fails + 1 }]
  | e2 :: _ => [{ e with slot := e2.slot, fails := e.fails + 1 }, { e2 with slot := k }]

theorem rebind_short {h : Hst} {e : PendingSnap} {rest : List PendingSnap} {k : Nat} (queue : h.queue = e :: rest)
    (short : rest.length ≤ 1) (candidate : h.candidate = some k) :
    h.rebind = { h.reserve k with queue := reboundQueue e rest k } := by
  obtain _ | ⟨e2, _ | ⟨e3, rest⟩⟩ := rest
  · exact rebind_one queue candidate
  · exact rebind_two queue candidate
  · exact absurd short (by simp)

/-- Settles O40: the ends of the program by what it read back, the rebinding with the candidate there is. -/
theorem snapshotProgramComplete : Obligations.SnapshotProgramComplete := by
  intro s powered
  refine ⟨fun valid other => ?_, fun e rest engine oldest => ?_, fun e rest k engine oldest short => ?_⟩
  · exact congrArg Host.Outcome.next (command_ends powered (snapshotProgrammed_absent (.inl other) valid))
  · exact congrArg Host.Outcome.next (command_ends powered (snapshotProgrammed_eq engine oldest true))
  · intro h candidate bound t
    have rebound : updHst (fun h => (h.spoiled e).rebind.judgeLogPreErase) s = t := by
      exact congrArg (fun h : Hst => { s with hst := h.judgeLogPreErase })
        (rebind_short (h := h) oldest short candidate)
    have failed := snapshotProgrammed_eq engine oldest false
    refine ⟨fun first => ?_, fun again => ?_⟩
    all_goals refine congrArg Host.Outcome.next (command_ends powered (failed.trans ((snapshotFailed_eq e s).trans ?_)))
    · rw [if_neg (by omega), rebound]
    · rw [if_pos again, rebound]
      rfl

/-! ### The archive (R149, R150, R157, R172) -/

theorem keyRefused_iff (key : SnapshotKey) :
    keyRefused key = true ↔ key = .number 0 ∨ ∃ k, key = .offset k ∧ 95 < k := by
  cases key <;> simp [keyRefused]

/-- An offset counts back from the last record held. -/
theorem lookup_offset (h : Hst) (k : Nat) : h.lookup (.offset k) =
    if k < h.records.length then h.records[h.records.length - 1 - k]? else none := by
  rw [Hst.lookup]
  split_ifs with held
  · exact List.getElem?_reverse held
  · exact List.getElem?_eq_none (by simpa using held)

/-- A request that its port serves and that stays in the buffer: the owner's state, and the command's end. -/
theorem command_unanswered {p : Port} {q : Request} {s u : State} (served : Serves p q s)
    (owner : serve p q (taken p (Request.code q) s) = (u, none)) : command (takeRequest p q) s = finish u := by
  obtain ⟨powered, supply, free, auth, held, fields⟩ := served
  rw [command_takeRequest p q s powered supply free auth held fields, owner]
  rfl

theorem readSnapshotRequest : ReadSnapshot := by
  intro p key s served u held found refused
  have hst : u.hst = s.hst := by simp [u]
  have is : u.hst.lookup key = found := by
    rw [hst]
    cases key with
    | number n => rfl
    | offset k => exact lookup_offset s.hst k
  refine ⟨fun isRefused => ?_, fun ok absent => ?_, fun n r ok pending => ?_, fun n k ok stored => ?_⟩
  · refine congrArg Host.Outcome.next (command_served served rfl ?_)
    show ownReadSnapshot p key u = _
    rw [ownReadSnapshot, if_pos ((keyRefused_iff key).mpr isRefused)]
    rfl
  · refine congrArg Host.Outcome.next (command_served served rfl ?_)
    show ownReadSnapshot p key u = _
    rw [ownReadSnapshot, if_neg (mt (keyRefused_iff key).mp ok), is, absent]
    rfl
  · refine congrArg Host.Outcome.next (command_served served rfl ?_)
    show ownReadSnapshot p key u = _
    rw [ownReadSnapshot, if_neg (mt (keyRefused_iff key).mp ok), is, pending]
    rfl
  · refine congrArg Host.Outcome.next ((command_unanswered (u := updHst (fun h => { h with
      reads := h.reads ++ [(p, n, k)] }) u) served ?_).trans ?_)
    · show ownReadSnapshot p key u = _
      rw [ownReadSnapshot, if_neg (mt (keyRefused_iff key).mp ok), is, stored]
    · rw [updHst, hst]

theorem snapshotAt_eq_none_iff (m : Store) (k : Nat) :
    snapshotAt m k = none ↔ ∀ r, Store.at m k ≠ some (.snapshot r) := by
  rw [Option.eq_none_iff_forall_not_mem]
  exact forall_congr' fun r => not_congr (snapshotAt_eq_some_iff m k r)

theorem answerRead_found {p : Port} {n k : Nat} {r : Snapshot} {s : State}
    (slot : Store.at s.hst.store k = some (.snapshot r)) : answerRead p n k s = respond p 31 .ok (.snapshot r) s := by
  rw [answerRead, (snapshotAt_eq_some_iff _ _ _).mpr slot]

theorem answerRead_gone {p : Port} {n k : Nat} {s : State} (slot : ∀ r, Store.at s.hst.store k ≠ some (.snapshot r)) :
    answerRead p n k s = respond p 31 .notFound .empty
      (updHst (fun h => { h with index := h.index.filter fun x => x.1 != n }) s) := by
  rw [answerRead, (snapshotAt_eq_none_iff _ _).mpr slot]

theorem slotReadComplete : SlotReadComplete := by
  intro decayed s powered store
  refine ⟨fun absent => ?_, fun k engine => ?_, fun p n k engine => ?_⟩
  · exact congrArg Host.Outcome.next (command_ends powered (readDone_absent absent decayed))
  · exact congrArg Host.Outcome.next (command_ends powered (readDone_recovery engine decayed))
  intro t
  refine ⟨fun r kept slot => ?_, fun gone => ?_⟩
  all_goals refine congrArg Host.Outcome.next (command_ends powered ?_)
  · refine (readDone_port engine decayed).trans ?_
    subst kept
    exact answerRead_found slot
  · refine (readDone_port engine decayed).trans (answerRead_gone fun r => ?_)
    cases decayed with
    | false => exact gone.resolve_left Bool.false_ne_true r
    | true => simp [readEnded, Store.at_put_self]

theorem named_eq_none_iff (l : SectorList) :
    SectorList.named l = none ↔ ∃ x, l = .list x ∧ (x = [] ∨ 6 < x.length ∨ ∃ k ∈ x, k < 4 ∨ 9 < k) := by
  cases l with
  | all => simp [SectorList.named]
  | list x =>
    have refused : SectorList.named (.list x) = none ↔
        ¬(1 ≤ x.length ∧ x.length ≤ 6 ∧ ∀ k ∈ x, 4 ≤ k ∧ k ≤ 9) := by
      simp [SectorList.named]
    have empty : x = [] ↔ ¬1 ≤ x.length := by simp [← List.length_eq_zero_iff]
    have outside : (∃ k ∈ x, k < 4 ∨ 9 < k) ↔ ¬∀ k ∈ x, 4 ≤ k ∧ k ≤ 9 := by
      simp only [not_forall, not_and_or, not_le, exists_prop]
    have listed : (∃ y, SectorList.list x = .list y ∧ (y = [] ∨ 6 < y.length ∨ ∃ k ∈ y, k < 4 ∨ 9 < k)) ↔
        (x = [] ∨ 6 < x.length ∨ ∃ k ∈ x, k < 4 ∨ 9 < k) := by simp
    rw [refused, listed, empty, outside, not_and_or, not_and_or, not_le (b := 6)]

/-- A log sector's number stands among those named. -/
theorem mem_named {l : SectorList} {named : List Nat} (is : SectorList.named l = some named) (i : Fin 6) :
    4 + i.val ∈ named ↔ l = .all ∨ ∃ x, l = .list x ∧ 4 + i.val ∈ x := by
  cases l with
  | all =>
    obtain rfl := Option.some.inj is
    have := i.isLt
    simp
    omega
  | list x =>
    simp only [SectorList.named] at is
    split_ifs at is
    obtain rfl := Option.some.inj is
    simp

theorem judgeLogPreErase_locks (h : Hst) : h.judgeLogPreErase.locks = h.locks := by
  rcases judgeLogPreErase_cases h with same | ⟨-, -, -, entered⟩
  · rw [same]
  · rw [entered]

theorem setLocks_on (h : Hst) (named : List Nat) (i : Fin 6) : (h.setLocks true named).locks[i] = true ↔
    h.locks[i] = true ∨ 4 + i.val ∈ named ∧ h.underErase (4 + i.val) = false := by
  simp only [Hst.setLocks, Fin.getElem_fin, Vector.getElem_ofFn, Bool.true_and, Bool.and_eq_true,
    List.contains_iff_mem, Bool.not_eq_true']
  split_ifs with set <;> simp [set]

theorem setLocks_off (h : Hst) (named : List Nat) (i : Fin 6) : (h.setLocks false named).locks[i] = true ↔
    h.locks[i] = true ∧ 4 + i.val ∉ named := by
  simp only [Hst.setLocks, Fin.getElem_fin, Vector.getElem_ofFn, Bool.false_and, Bool.not_false, Bool.and_true,
    List.contains_iff_mem]
  split_ifs with set <;> simp [set]

theorem ownArchive_refused {on : Bool} {l : SectorList} {s : State} (bad : SectorList.named l = none) :
    ownArchive on l s = rangeAt 1 0 s := by
  rw [ownArchive, bad]

theorem ownArchive_sets {on : Bool} {l : SectorList} {u : State} {h : Hst} {named : List Nat} (hst : u.hst = h)
    (good : SectorList.named l = some named) : ownArchive on l u =
      okWith (.locks (h.setLocks on named).locks)
        { u with hst := ({ h with locks := (h.setLocks on named).locks } : Hst).judgeLogPreErase } := by
  subst hst
  rw [ownArchive, good]
  dsimp only
  rw [updHst, judgeLogPreErase_locks]
  rfl

theorem archiveLocks : ArchiveLocks := by
  intro p l s bad names result
  have unset : SectorList.named l = none ↔ bad := named_eq_none_iff l
  have named_of (ok : ¬bad) : ∃ named, SectorList.named l = some named :=
    Option.ne_none_iff_exists'.mp (mt unset.mp ok)
  refine ⟨fun served => ⟨fun isBad => ?_, fun ok => ?_⟩, fun served => ⟨fun isBad => ?_, fun ok => ?_⟩⟩
  · exact congrArg Host.Outcome.next (command_served served rfl (ownArchive_refused (unset.mpr isBad)))
  · obtain ⟨named, is⟩ := named_of ok
    refine ⟨(s.hst.setLocks true named).locks, congrArg Host.Outcome.next (command_served served rfl ?_), fun i => ?_⟩
    · exact ownArchive_sets (by simp) is
    · rw [setLocks_on, mem_named is]
  · exact congrArg Host.Outcome.next (command_served served rfl (ownArchive_refused (unset.mpr isBad)))
  · obtain ⟨named, is⟩ := named_of ok
    refine ⟨(s.hst.setLocks false named).locks, congrArg Host.Outcome.next (command_served served rfl ?_), fun i => ?_⟩
    · exact ownArchive_sets (by simp) is
    · rw [setLocks_off, mem_named is]

/-- Settles O43: each request by its owner, and the slot read by whom it was made for. -/
theorem archiveRequests : Obligations.ArchiveRequests := ⟨readSnapshotRequest, slotReadComplete, archiveLocks⟩

end Sys2Proof.Machine
end

section
/-! PROOFS. What the scans of recovery find: the newest valid checkpoint, the snapshot index and the write pointer (R163,
R173, R175). -/
namespace Sys2Proof.Machine
open Sys2Proof.Claim

/-! ### The newest checkpoint (R163, R173) -/

theorem checkpointAt_eq_some_iff (m : Store) (p : Nat) (c : Checkpoint) : checkpointAt m p = some c ↔
    Store.at m (2 * p) = some (.half 0 c) ∧ ∃ d, Store.at m (2 * p + 1) = some (.half 1 d) ∧ d.seq = c.seq := by
  unfold checkpointAt
  split
  next a b first second =>
    rw [first, second]
    constructor
    · intro h
      obtain ⟨same, rfl⟩ : a.seq = b.seq ∧ a = c := by simpa using h
      exact ⟨rfl, b, rfl, same.symm⟩
    · rintro ⟨⟨⟩, d, ⟨⟩, same⟩
      exact if_pos same.symm
  next other =>
    constructor
    · exact nofun
    · rintro ⟨first, d, second, -⟩
      exact (other c d first second).elim

theorem seqNewer_iff {a b : Nat} (word : b < 4294967296) : seqNewer a b = true ↔
    1 ≤ ((a : Int) - b) % 4294967296 ∧ ((a : Int) - b) % 4294967296 ≤ 2147483647 := by
  simp only [seqNewer, Bool.and_eq_true, decide_eq_true_eq]
  omega

/-- Of two numbers at most one is the newer. -/
theorem seqNewer_asymm {a b : Nat} (newer : seqNewer a b = true) : seqNewer b a = false := by
  simp only [seqNewer, Bool.and_eq_true, Bool.and_eq_false_iff, decide_eq_true_eq, decide_eq_false_iff_not] at newer ⊢
  omega

theorem ringCheckpoints_eq_nil_iff (m : Store) :
    ringCheckpoints m = [] ↔ ∀ p, p < 32 → checkpointAt m p = none := by
  simp [ringCheckpoints, List.filterMap_eq_nil_iff]

/-- The checkpoint newer than that of every other position is selected. -/
theorem selectNewest_ring {m : Store} {p : Nat} {c : Checkpoint} (position : p < 32) (valid : checkpointAt m p = some c)
    (newest : ∀ q d, q < 32 → q ≠ p → checkpointAt m q = some d → seqNewer c.seq d.seq = true) :
    selectNewest (ringCheckpoints m) = some (p, c) := by
  have newer : ∀ x ∈ ringCheckpoints m, x ≠ (p, c) → seqNewer c.seq x.2.seq = true := by
    rintro ⟨q, d⟩ mem ne
    obtain ⟨low, valid'⟩ := (mem_ringCheckpoints m q d).mp mem
    refine newest q d low ?_ valid'
    rintro rfl
    exact ne (by rw [Option.some.inj (valid.symm.trans valid')])
  exact selectNewest_eq _ (p, c) ((mem_ringCheckpoints m p c).mpr ⟨position, valid⟩) newer
    fun x mem ne => seqNewer_asymm (newer x mem ne)

theorem newestCheckpoint : NewestCheckpoint := by
  intro m
  refine ⟨checkpointAt_eq_some_iff m, ?_, fun p c position valid newest => ?_⟩
  · rw [(selectNewest_mem _).1, ringCheckpoints_eq_nil_iff]
  · refine selectNewest_ring position valid fun q d low ne valid' => ?_
    obtain ⟨word, behind⟩ := newest q d low ne valid'
    exact (seqNewer_iff word).mpr behind

/-! ### The index and the write pointer (R175) -/

theorem logSlots_pairwise {m : Store} {l : List Nat} {R : Nat → Nat → Prop} (ordered : l.Pairwise R) :
    (logSlots m l).Pairwise fun a b => R a.1 b.1 := by
  refine List.Pairwise.filterMap _ ?_ ordered
  intro a b hab x hx y hy
  obtain ⟨_, -, rfl⟩ := Option.map_eq_some_iff.mp hx
  obtain ⟨_, -, rfl⟩ := Option.map_eq_some_iff.mp hy
  exact hab

/-- In a list read in the order of some place, what stands before an entry is what has a smaller place. -/
theorem mem_prefix_iff {α : Type} {place : α → Nat} {pre post : List α} {a x : α}
    (ordered : (pre ++ a :: post).Pairwise fun a b => place a < place b) :
    x ∈ pre ↔ x ∈ pre ++ a :: post ∧ place x < place a := by
  obtain ⟨-, later, before⟩ := List.pairwise_append.mp ordered
  refine ⟨fun mem => ⟨List.mem_append_left _ mem, before x mem a List.mem_cons_self⟩, ?_⟩
  rintro ⟨mem, less⟩
  rcases List.mem_append.mp mem with mem | mem
  · exact mem
  · rcases List.mem_cons.mp mem with rfl | mem
    · exact absurd less (lt_irrefl _)
    · exact absurd less (Nat.lt_asymm ((List.pairwise_cons.mp later).1 x mem))

/-- With the slots read in the order of their places, a snapshot joins where its number is above that of every one of a
smaller place. -/
theorem mem_joinIndex_of_ordered {place : Nat → Nat} {l : List (Nat × Snapshot)}
    (ordered : l.Pairwise fun a b => place a.1 < place b.1) (n j : Nat) : (n, j) ∈ joinIndex l ↔
      ∃ r, (j, r) ∈ l ∧ r.number = n ∧ ∀ x ∈ l, place x.1 < place j → x.2.number < n := by
  rw [mem_joinIndex]
  constructor
  · rintro ⟨pre, r, post, rfl, number, above⟩
    exact ⟨r, by simp, number, fun x mem less => above x ((mem_prefix_iff ordered).mpr ⟨mem, less⟩)⟩
  · rintro ⟨r, mem, number, above⟩
    obtain ⟨pre, post, rfl⟩ := List.append_of_mem mem
    refine ⟨pre, r, post, rfl, number, fun x mem => ?_⟩
    obtain ⟨mem, less⟩ := (mem_prefix_iff ordered).mp mem
    exact above x mem less

/-- Slot `k` of the log holds snapshot `r`. -/
def LogHolds (m : Store) (k : Nat) (r : Snapshot) : Prop := 64 ≤ k ∧ k < 160 ∧ Store.at m k = some (.snapshot r)

theorem mem_logSlots_all {m : Store} {k : Nat} {r : Snapshot} :
    (k, r) ∈ logSlots m ((List.range 96).map (64 + ·)) ↔ LogHolds m k r := by
  have slots : k ∈ (List.range 96).map (64 + ·) ↔ 64 ≤ k ∧ k < 160 := by
    simp only [List.mem_map, List.mem_range]
    exact ⟨fun ⟨i, low, is⟩ => by omega, fun h => ⟨k - 64, by omega, by omega⟩⟩
  rw [mem_logSlots, slots, LogHolds, and_assoc]

theorem mem_logSlots_scanOrder {m : Store} {k j : Nat} {r : Snapshot} (low : 64 ≤ k) (high : k < 160) :
    (j, r) ∈ logSlots m (scanOrder k) ↔ scanPlace k j ≤ scanPlace k k ∧ LogHolds m j r := by
  rw [mem_logSlots, (scanOrder_spec k low high).2, LogHolds]
  tauto

/-- The snapshot numbered above every other one is the newest. -/
theorem newestSnapshot_log {m : Store} {k : Nat} {r : Snapshot} (held : LogHolds m k r)
    (newest : ∀ j x, LogHolds m j x → j ≠ k → x.number < r.number) :
    newestSnapshot (logSlots m ((List.range 96).map (64 + ·))) = some (k, r) := by
  have mem := mem_logSlots_all.mpr held
  cases found : newestSnapshot (logSlots m ((List.range 96).map (64 + ·))) with
  | none => exact absurd ((newestSnapshot_spec _).1.mp found ▸ mem) List.not_mem_nil
  | some b =>
    obtain ⟨j, x⟩ := b
    obtain ⟨mem', highest⟩ := (newestSnapshot_spec _).2 _ found
    have held' := mem_logSlots_all.mp mem'
    have same : j = k := by
      by_contra ne
      exact absurd (highest _ mem) (Nat.not_le_of_lt (newest j x held' ne))
    subst same
    obtain ⟨-, -, slot⟩ := held
    obtain ⟨-, -, slot'⟩ := held'
    cases Option.some.inj (slot.symm.trans slot')
    rfl

theorem scanLog_empty {h : Hst} (empty : ∀ k r, ¬LogHolds h.store k r) :
    h.scanLog = { h with writePtr := 63, curLog := 4, index := [] } := by
  have none_read : logSlots h.store ((List.range 96).map (64 + ·)) = [] :=
    List.eq_nil_iff_forall_not_mem.mpr fun x mem => empty x.1 x.2 (mem_logSlots_all.mp mem)
  rw [Hst.scanLog, none_read]
  rfl

theorem scanLog_newest {h : Hst} {k : Nat} {r : Snapshot} (held : LogHolds h.store k r)
    (newest : ∀ j x, LogHolds h.store j x → j ≠ k → x.number < r.number) : h.scanLog =
      { h with writePtr := k, curLog := k / 16, index := joinIndex (logSlots h.store (scanOrder k)) } := by
  rw [Hst.scanLog, newestSnapshot_log held newest]

/-- The index of a scan round to slot `k`: the snapshots above every one read before them. -/
theorem mem_index_iff {m : Store} {k : Nat} (low : 64 ≤ k) (high : k < 160) (n j : Nat) :
    (n, j) ∈ joinIndex (logSlots m (scanOrder k)) ↔ scanPlace k j ≤ scanPlace k k ∧ ∃ x, LogHolds m j x ∧ x.number = n ∧
      ∀ i y, LogHolds m i y → scanPlace k i < scanPlace k j → y.number < n := by
  rw [mem_joinIndex_of_ordered (logSlots_pairwise (scanOrder_spec k low high).1)]
  constructor
  · rintro ⟨x, mem, number, above⟩
    obtain ⟨upTo, held⟩ := (mem_logSlots_scanOrder low high).mp mem
    exact ⟨upTo, x, held, number, fun i y held' less =>
      above (i, y) ((mem_logSlots_scanOrder low high).mpr ⟨(less.trans_le upTo).le, held'⟩) less⟩
  · rintro ⟨upTo, x, held, number, above⟩
    exact ⟨x, (mem_logSlots_scanOrder low high).mpr ⟨upTo, held⟩, number, fun y mem =>
      above y.1 y.2 ((mem_logSlots_scanOrder low high).mp mem).2⟩

theorem Hst.newestNumber_eq (h : Hst) : h.newestNumber = ((h.index.getLast?).map Prod.fst).getD 0 := by
  unfold Hst.newestNumber
  cases h.index.getLast? <;> rfl

theorem logIndex : LogIndex := by
  intro h
  refine ⟨fun empty => ?_, fun k r held newest => ?_, fun n => ?_, h.scanLog.newestNumber_eq⟩
  · rw [scanLog_empty empty]
    exact ⟨rfl, rfl, rfl⟩
  · have ⟨low, high, _⟩ := held
    have ascending := scanLog_index_ascending h
    rw [scanLog_newest held newest] at ascending ⊢
    exact ⟨rfl, rfl, ascending, mem_index_iff low high⟩
  · rw [Hst.newerSnapshots, Hst.scanLog_store]
    rfl

/-- Settles O45: the selection folds over the ring's positions, the index over the log's slots in the order of their
places. -/
theorem recoveryFindings : Obligations.RecoveryFindings := ⟨newestCheckpoint, logIndex⟩

end Sys2Proof.Machine
end

section
/-! PROOFS. Every command answers a next state and leaves the queue of waiting commands alone (log 1, log 3): a command
that carries a request by the path of the request, every other one by the frames of what it does. -/
namespace Sys2Proof.Machine

theorem command_pending {f : State → State} {s : State} (h : (f s).pending = s.pending) :
    (command f s).pending = s.pending := by
  unfold command
  split_ifs
  · rw [finish_frame, h]
  · rfl

/-- Nothing that reaches a port touches the queue of waiting commands. -/
theorem pending_keptByOwners (l : List Instr) : KeptByOwners fun s => s.pending = l where
  port _ _ h := by simpa using h
  serve _ _ _ h := (serve_frame _ _ _).trans h

theorem atStage_pending {g : Stage} {f : State → State} {s : State} (h : (f s).pending = s.pending) :
    (atStage g f s).pending = s.pending := by
  unfold atStage
  split_ifs
  · exact h
  · rfl

theorem mainsLevel_pending {level : Bool} {f : State → State} {s : State} (h : (f s).pending = s.pending) :
    (mainsLevel level f s).pending = s.pending := by
  unfold mainsLevel
  split_ifs
  · rfl
  · rw [finish_frame, h]
  · rfl

/-- A command that carries no request leaves the waiting queue alone. -/
theorem exec_event_pending {i : Instr} (event : i.request = none) (s : State) :
    ∃ t, exec i s = .next t ∧ t.pending = s.pending := by
  cases i with
  | secondTick =>
    refine ⟨_, rfl, ?_⟩
    split_ifs
    · simp
    · simp
  | backupDomainLoss | overrideLineLevelChange | powerOnReset => exact ⟨_, rfl, by simp⟩
  | mainSupplyLoss =>
    refine ⟨_, rfl, ?_⟩
    split_ifs
    · simp
    · rfl
  | mainsWarnAssert | mainsWarnDeassert => exact ⟨_, rfl, mainsLevel_pending (by simp)⟩
  | recoveryCheckpointScan | recoveryLogScan | recoveryCalendarLoad =>
    exact ⟨_, rfl, command_pending (atStage_pending (by simp))⟩
  | writeSequenceEnd | eraseSuspend =>
    refine ⟨_, rfl, command_pending ?_⟩
    split_ifs
    · simp
    · rfl
  | requestFrame p chars => exact ⟨_, rfl, command_pending ((pending_keptByOwners s.pending).receiveAll p chars rfl)⟩
  | frameLengthOverflow p n => exact ⟨_, rfl, command_pending ((pending_keptByOwners s.pending).receiveAll p _ rfl)⟩
  | phaseFrame | silence500 | silence2000 | overrideDebounceExpiry | supplyDebounceExpiry | resetLine
  | periodicCheckpointTimer | snapshotProgramComplete | checkpointProgramComplete | calendarPartProgramComplete
  | sectorEraseComplete | slotReadComplete | frameStall | ignoreIdleExpiry | responseTransmitComplete | viewExpiry
  | pollCycleStart | allowanceSent | unitReport | replyWindowExpiry =>
    exact ⟨_, rfl, command_pending (by simp)⟩
  | _ => cases event

/-- Settles O3: a request's command by the path of its request, every other one by what it does. -/
theorem everyCommandAnswersNext : Obligations.EveryCommandAnswersNext := by
  intro i s
  cases request : i.request with
  | none => exact exec_event_pending request s
  | some r => exact ⟨_, exec_request request s, command_pending (takeRequest_frame r.1 r.2 s)⟩

end Sys2Proof.Machine
end

section
/-! PROOFS. The checks of R184 on a request and on a payload, and the responses of a port (R182 to R187). -/
namespace Sys2Proof.Machine
open Sys2Proof.Claim

/-! ### Responses (R182, R183; log 29) -/

theorem sendOther_room {x : PortState} (room : x.waitingOthers < 4) (code : Nat) (st : Status) :
    x.sendOther code st =
      { x with tx := x.tx ++ [{ own := false, resp := { code := code, status := st, answer := .empty } }] } := by
  rw [PortState.sendOther, if_neg (by omega)]
  simp [PortState.send]

theorem sendOther_full {x : PortState} (full : 4 ≤ x.waitingOthers) (code : Nat) (st : Status) :
    x.sendOther code st = { x with dropped := satAdd x.dropped 1 } := if_pos full

theorem sendOther_eq (code : Nat) (st : Status) (x : PortState) : x.sendOther code st = otherSent code st x := by
  rw [otherSent]
  split_ifs with room
  · exact sendOther_room room code st
  · exact sendOther_full (not_lt.mp room) code st

theorem respond_eq (p : Port) (code : Nat) (st : Status) (a : Answer) (s : State) :
    respond p code st a s = answerSent p code st a s := by
  refine congrArg (fun f => s.updPort p f) (funext fun x => ?_)
  simp [PortState.send]

/-- Updates of a port that agree on the port as it stands are one update. -/
theorem updPort_congr {p : Port} {f g : PortState → PortState} {s : State} (h : f (s.port p) = g (s.port p)) :
    s.updPort p f = s.updPort p g := by
  cases p
  · exact congrArg (fun x => { s with upt := x }) h
  · exact congrArg (fun x => { s with ppt := x }) h

theorem updPort_same {p : Port} {f : PortState → PortState} {s : State} (h : f (s.port p) = s.port p) :
    s.updPort p f = s := by
  refine (updPort_congr (g := id) h).trans ?_
  cases p <;> rfl

/-! ### The checks of R184 -/

theorem inCatalogue_iff (code : Nat) : inCatalogue code = true ↔ 1 ≤ code ∧ code ≤ 41 := by simp [inCatalogue]

section
variable {p : Port} {code : Nat} {held : Bool} {req : Option Request} {s : State}

theorem judge_unknown (unknown : ¬inCatalogue code = true) :
    judge p code held req s = respond p code .unknown .empty s := by
  simp [judge, unknown]

theorem judge_denied (known : inCatalogue code = true) (denied : ¬authority p code = true) :
    judge p code held req s = respond p code .denied .empty s := by
  simp [judge, known, denied]

theorem judge_stopped (known : inCatalogue code = true) (auth : authority p code = true)
    (stopped : ¬(s.sup.supply = .run ∨ code = 35)) : judge p code held req s = respond p code .state .empty s := by
  simp [judge, known, auth, not_or.mp stopped]

variable (known : inCatalogue code = true) (auth : authority p code = true) (running : s.sup.supply = .run ∨ code = 35)
include known auth running

theorem judge_locked (locked : p = .ppt ∧ s.premLock = true ∧ held = true) :
    judge p code held req s = respond p code .locked .empty s := by
  have goesOn : ¬(s.sup.supply ≠ .run ∧ code ≠ 35) := by tauto
  obtain ⟨rfl, lock, isHeld⟩ := locked
  simp [judge, known, auth, goesOn, lock, isHeld]

variable (unlocked : ¬(p = .ppt ∧ s.premLock = true ∧ held = true))
include unlocked

theorem judge_unread : judge p code held none s = respond p code .range (.detail 0 0) s := by
  have goesOn : ¬(s.sup.supply ≠ .run ∧ code ≠ 35) := by tauto
  simp [judge, known, auth, goesOn, unlocked]

theorem judge_serves (q : Request) : judge p code held (some q) s = settleReply p code (serve p q s) := by
  have goesOn : ¬(s.sup.supply ≠ .run ∧ code ≠ 35) := by tauto
  simp [judge, known, auth, goesOn, unlocked]

end

/-- The owner's answer is sent where there is one. -/
theorem settleReply_some {p : Port} {code : Nat} {r : State × Reply} {st : Status} {a : Answer}
    (answers : r.2 = some (st, a)) : settleReply p code r = respond p code st a r.1 := by
  rw [settleReply, answers]

theorem settleReply_none {p : Port} {code : Nat} {r : State × Reply} (waits : r.2 = none) :
    settleReply p code r = r.1 := by
  rw [settleReply, waits]

theorem goodFrame_busy {p : Port} {s : State} {c : Nat} (occupied : (s.port p).buffer = some c) (code : Nat)
    (held : Bool) (req : Option Request) :
    goodFrame p code held req s = s.updPort p (PortState.sendOther code .busy) :=
  if_pos (by simp [occupied])

theorem goodFrame_free {p : Port} {s : State} (free : (s.port p).buffer = none) (code : Nat) (held : Bool)
    (req : Option Request) : goodFrame p code held req s = judge p code held req (taken p code s) :=
  if_neg (by simp [free])

/-! ### Requests (R182 to R186) -/

theorem refusal_taken (p : Port) (q : Request) (n : Nat) (s : State) : refusal p q (taken p n s) = refusal p q s := by
  cases p <;> rfl

theorem judge_refused {p : Port} {q : Request} {s : State} {st : Status} {a : Answer}
    (refused : refusal p q s = some (st, a)) :
    judge p (Request.code q) (Request.held q) (if Request.fieldsOk q then some q else none) s =
      respond p (Request.code q) st a s := by
  have known := inCatalogue_code q
  unfold refusal at refused
  split_ifs at refused with denied stopped locked fields
  all_goals obtain ⟨rfl, rfl⟩ := Prod.mk.inj (Option.some.inj refused)
  · exact judge_denied known (by simp [denied])
  · exact judge_stopped known (by simpa using denied) (by tauto)
  · exact judge_locked known (by simpa using denied) (by tauto) locked
  · rw [if_neg (by simp [fields])]
    exact judge_unread known (by simpa using denied) (by tauto) locked

theorem judge_served {p : Port} {q : Request} {s : State} (served : refusal p q s = none) :
    judge p (Request.code q) (Request.held q) (if Request.fieldsOk q then some q else none) s =
      settleReply p (Request.code q) (serve p q s) := by
  unfold refusal at served
  split_ifs at served with denied stopped locked fields
  rw [if_pos (by simpa using fields)]
  exact judge_serves (inCatalogue_code q) (by simpa using denied) (by tauto) locked q

/-- Settles O47: a free buffer takes the request to the checks, an occupied one answers BUSY. -/
theorem requestChecks : Obligations.RequestChecks := by
  intro i p q s request powered x
  have runs {u : State} (h : takeRequest p q s = u) : exec i s = .next (finish u) :=
    (exec_request request s).trans (congrArg Host.Outcome.next (command_ends powered h))
  have occupied {c : Nat} (h : x.buffer = some c) {y : PortState}
      (sent : x.sendOther (Request.code q) .busy = y) : takeRequest p q s = s.updPort p fun _ => y :=
    (goodFrame_busy h _ _ _).trans (updPort_congr sent)
  refine ⟨fun st a free refused => ?_, fun free served => ⟨fun st a answers => ?_, fun waits => ?_⟩,
    fun c h room => ?_, fun c h full => ?_, rfl, List.contains_iff_mem⟩
  · refine runs ((goodFrame_free free _ _ _).trans (judge_refused ?_))
    rw [refusal_taken, refused]
  · exact runs ((goodFrame_free free _ _ _).trans
      ((judge_served ((refusal_taken ..).trans served)).trans (settleReply_some answers)))
  · exact runs ((goodFrame_free free _ _ _).trans
      ((judge_served ((refusal_taken ..).trans served)).trans (settleReply_none waits)))
  · exact runs ((occupied h (sendOther_room room _ _)).trans (updPort_congr rfl))
  · exact runs ((occupied h (sendOther_full full _ _)).trans (updPort_congr rfl))

/-! ### Payloads (R182 to R187) -/

theorem heldPayload_iff (code : Nat) (payload : List Byte) : heldPayload code payload = true ↔
    code = 23 ∨ code = 24 ∨ code = 28 ∧ payload[1]? = some 1#8 := by
  simp [heldPayload, or_assoc]

theorem payloadTaken : PayloadTaken := by
  intro p code payload s u known allowed running held ends
  have supply : u.sup.supply = s.sup.supply := by simp [u]
  have lock : u.premLock = s.premLock := by simp [u]
  have catalogue : inCatalogue code = true ↔ known := inCatalogue_iff code
  have runs : u.sup.supply = .run ∨ code = 35 ↔ s.sup.supply = .run ∨ code = 35 := by rw [supply]
  have locks : p = .ppt ∧ u.premLock = true ∧ heldPayload code payload = true ↔ held := by
    rw [lock, heldPayload_iff]
  refine ⟨fun c occupied => ?_, fun free => ?_⟩
  · refine (goodFrame_busy occupied _ _ _).trans (congrArg (fun f => s.updPort p f) (funext fun x => ?_))
    exact sendOther_eq code .busy x
  have judged {v : State} (h : judge p code (heldPayload code payload)
      ((decodeRequest code payload).filter Request.fieldsOk) u = v) : takePayload p code payload s = v :=
    (goodFrame_free free _ _ _).trans h
  have answers {st : Status} {a : Answer} (h : judge p code (heldPayload code payload)
      ((decodeRequest code payload).filter Request.fieldsOk) u = respond p code st a u) : ends st a :=
    (judged h).trans (respond_eq ..)
  refine ⟨fun unknown => ?_, fun isKnown denied => ?_, fun ⟨isKnown, auth⟩ stopped => ?_,
    fun ⟨⟨isKnown, auth⟩, run⟩ isHeld => ?_,
    fun ⟨⟨isKnown, auth⟩, run⟩ unlocked => ⟨fun unread => ?_, fun q read fields => ?_⟩⟩
  · exact answers (judge_unknown (mt catalogue.mp unknown))
  · exact answers (judge_denied (catalogue.mpr isKnown) fun auth => denied ⟨isKnown, auth⟩)
  · exact answers (judge_stopped (catalogue.mpr isKnown) auth fun run => stopped ⟨⟨isKnown, auth⟩, runs.mp run⟩)
  · exact answers (judge_locked (catalogue.mpr isKnown) auth (runs.mpr run) (locks.mpr isHeld))
  · refine answers ?_
    rw [Option.filter_eq_none_iff.mpr fun q read => by simp [unread q read]]
    exact judge_unread (catalogue.mpr isKnown) auth (runs.mpr run) (mt locks.mp unlocked)
  · have served : takePayload p code payload s = settleReply p code (serve p q u) := judged <| by
      rw [read, Option.filter_some, if_pos fields]
      exact judge_serves (catalogue.mpr isKnown) auth (runs.mpr run) (mt locks.mp unlocked) q
    exact ⟨fun st a answer => served.trans ((settleReply_some answer).trans (respond_eq ..)),
      fun waits => served.trans (settleReply_none waits)⟩

end Sys2Proof.Machine
end

section
/-! PROOFS. Request payloads (R197, R200; log 17, 45, 50, 60): every well-formed request is read back from its code and
payload, field by field. -/
namespace Sys2Proof.Machine

/-! ### Fields -/

theorem fits_iff (k n : Nat) : fits k n = true ↔ n < 256 ^ k := decide_eq_true_iff

theorem reads_fits {k n : Nat} (h : fits k n = true) : Reads (readNat k) n (leBytes k n) :=
  reads_nat ((fits_iff k n).mp h)

/-- An optional compound field, absent as well: its filler is what a field `z` of the kind writes. -/
theorem reads_optField {α : Type} {f : Read α} {w : α → List Byte} {width : Nat} {a : Option α} {z : α}
    (present : ∀ x ∈ a, Reads f x (w x)) (filler : Reads f z (leBytes width 0)) :
    Reads (readOpt f) a (optField width w a) := by
  cases a with
  | none => exact reads_none filler
  | some x => exact reads_some (present x rfl)

theorem reads_optNat {k : Nat} {a : Option Nat} (h : optFits k a = true) :
    Reads (readOpt (readNat k)) a (optField k (leBytes k) a) := by
  refine reads_optField (z := 0) (fun x is => ?_) (reads_nat (Nat.pow_pos (by norm_num)))
  subst is
  exact reads_fits h

theorem reads_mapEntry {e : RawMapEntry} (h : e.wf = true) : Reads readMapEntry e (RawMapEntry.bytes e) := by
  obtain ⟨kind, band⟩ := Bool.and_eq_true_iff.mp h
  exact reads_map _ (reads_pair (reads_fits kind) (reads_fits band))

theorem reads_bytes {n : Nat} (v : Vector Byte n) : Reads (readVec readByte n) v v.toList := by
  have h := reads_vec (w := fun x => [x]) v fun x _ => reads_byte x
  rwa [List.flatMap_singleton'] at h

theorem reads_band {b : RawBand} (h : b.wf = true) : Reads readBand b (RawBand.bytes b) := by
  obtain ⟨value, rank⟩ := Bool.and_eq_true_iff.mp h
  exact reads_map _ (reads_pair (reads_bytes b.name) (reads_pair (reads_fits value) (reads_fits rank)))

theorem reads_season {x : RawSeason} (h : x.wf = true) : Reads readSeason x (RawSeason.bytes x) := by
  simp only [RawSeason.wf, Bool.and_eq_true] at h
  obtain ⟨⟨month, day⟩, week⟩ := h
  exact reads_map _ (reads_pair (reads_fits month) (reads_pair (reads_fits day) (reads_fits week)))

theorem reads_point {x : RawPoint} (h : x.wf = true) : Reads readPoint x (RawPoint.bytes x) := by
  obtain ⟨minute, band⟩ := Bool.and_eq_true_iff.mp h
  exact reads_map _ (reads_pair (reads_fits minute) (reads_fits band))

theorem reads_special {x : RawSpecial} (h : x.wf = true) : Reads readSpecial x (RawSpecial.bytes x) := by
  simp only [RawSpecial.wf, Bool.and_eq_true] at h
  obtain ⟨⟨⟨⟨kind, year⟩, month⟩, day⟩, profile⟩ := h
  exact reads_map _ (reads_pair (reads_fits kind) (reads_pair (reads_fits year) (reads_pair (reads_fits month)
    (reads_pair (reads_fits day) (reads_fits profile)))))

theorem reads_dateTime {x : RawDateTime} (h : x.wf = true) : Reads readDateTime x (RawDateTime.bytes x) := by
  simp only [RawDateTime.wf, Bool.and_eq_true] at h
  obtain ⟨⟨⟨year, month⟩, day⟩, minute⟩ := h
  exact reads_map _ (reads_pair (reads_fits year) (reads_pair (reads_fits month) (reads_pair (reads_fits day)
    (reads_fits minute))))

theorem reads_cap {l h : Nat} {e : Option Nat} (fit : (fits 2 l && fits 2 h && optFits 4 e) = true) :
    Reads readCap (l, h, e) (capBytes l h e) := by
  simp only [Bool.and_eq_true] at fit
  obtain ⟨⟨limit, hyst⟩, expiry⟩ := fit
  exact reads_pair (reads_fits limit) (reads_pair (reads_fits hyst) (reads_optNat expiry))

/-- A signed field of 2 bytes. -/
theorem reads_int16 {o : Int} (h : -32768 ≤ o ∧ o ≤ 32767) :
    Reads (readMap (signedOf 2) readU2) o (leIntBytes 2 o) := by
  have field : Reads readU2 (o % (256 ^ 2 : Nat)).toNat (leIntBytes 2 o) := reads_nat (by omega)
  have h := reads_map (signedOf 2) field
  rwa [signedOf_emod (by omega) (by omega)] at h

theorem reads_mask (m : BitVec 16) : Reads (readMap (BitVec.ofNat 16) readU2) m (leBytes 2 m.toNat) := by
  have h := reads_map (BitVec.ofNat 16) (reads_nat (k := 2) m.isLt)
  rwa [BitVec.ofNat_toNat, BitVec.setWidth_eq] at h

theorem readKey_bytes {k : SnapshotKey} (h : k.wf = true) : readKey (SnapshotKey.bytes k) = some k := by
  cases k with
  | number n =>
    have read := readAll_of_reads (reads_pair (reads_nat (k := 1) (n := 0) (by norm_num)) (reads_fits h))
    simp only [readKey, SnapshotKey.bytes, read]
  | offset n =>
    have read := readAll_of_reads (reads_pair (reads_nat (k := 1) (n := 1) (by norm_num)) (reads_fits h))
    simp only [readKey, SnapshotKey.bytes, read]

/-- A list of sectors is read as itself: with fewer than 255 entries it is not taken for ALL. -/
theorem readSectors_bytes {l : SectorList} (h : l.wf = true) : readSectors (SectorList.bytes l) = some l := by
  cases l with
  | all => rfl
  | list x =>
    simp only [SectorList.wf, Bool.and_eq_true, decide_eq_true_eq, List.all_eq_true] at h
    obtain ⟨short, fit⟩ := h
    have notAll : listBytes (leBytes 1) x ≠ [0xFF#8] := fun same => by
      have count := congrArg BitVec.toNat (List.cons.inj same).1
      rw [toNat_ofNat_byte (by omega)] at count
      simp at count
      omega
    have read := readAll_of_reads (reads_list x (by omega) fun a mem => reads_fits (fit a mem))
    simp only [readSectors, SectorList.bytes, if_neg notAll, read]

/-! ### Requests -/

/-- A payload that is one field, carried into a request. -/
theorem map_readAll {α β : Type} {f : Read α} {a : α} {b : List Byte} (g : α → β) (h : Reads f a b) :
    (readAll f b).map g = some (g a) := by
  rw [readAll_of_reads h, Option.map_some]

theorem decodeRequest_payload {q : Request} (h : q.wf = true) :
    decodeRequest (Request.code q) (Request.payload q) = some q := by
  cases q with
  | setNettingMethod m => exact map_readAll _ (reads_optNat h)
  | setTime t => exact map_readAll _ (reads_fits h)
  | setLocalOffset o =>
    refine map_readAll _ (reads_optField (z := 0) (fun x is => ?_) (reads_int16 (by norm_num)))
    subst is
    exact reads_int16 (by simpa [Request.wf] using h)
  | setOverrideSource line source =>
    obtain ⟨line, source⟩ := Bool.and_eq_true_iff.mp h
    exact map_readAll _ (reads_pair (reads_fits line) (reads_optNat source))
  | setOverride line value =>
    obtain ⟨line, value⟩ := Bool.and_eq_true_iff.mp h
    exact map_readAll (fun x => Request.setOverride x.1 x.2) (reads_pair (reads_fits line) (reads_fits value))
  | setOverrideMap m =>
    refine map_readAll _ (reads_optField (z := .replicate 4 ⟨0, 0⟩) (fun v is => ?_)
      (reads_vec _ fun e mem => reads_mapEntry ?_))
    · subst is
      exact reads_vec v fun e mem => reads_mapEntry (List.all_eq_true.mp h e mem)
    · simp at mem
      subst mem
      rfl
  | passiveClear name => exact map_readAll _ (reads_bytes name)
  | passiveBands nb fb bands =>
    simp only [Request.wf, Bool.and_eq_true, decide_eq_true_eq, List.all_eq_true] at h
    obtain ⟨⟨⟨nb, fb⟩, short⟩, each⟩ := h
    exact map_readAll _ (reads_pair (reads_fits nb) (reads_pair (reads_fits fb)
      (reads_list bands (by omega) fun b mem => reads_band (each b mem))))
  | passiveSeason i x =>
    obtain ⟨index, entry⟩ := Bool.and_eq_true_iff.mp h
    refine map_readAll _ (reads_pair (reads_fits index) (reads_optField (z := ⟨0, 0, 0⟩) (fun x is => ?_)
      (reads_season rfl)))
    subst is
    exact reads_season entry
  | passiveWeek i w =>
    obtain ⟨index, days⟩ := Bool.and_eq_true_iff.mp h
    refine map_readAll _ (reads_pair (reads_fits index) (reads_optField (z := .replicate 7 0) (fun v is => ?_)
      (reads_vec _ fun d mem => reads_fits ?_)))
    · subst is
      exact reads_vec v fun d mem => reads_fits (List.all_eq_true.mp days d mem)
    · simp at mem
      subst mem
      rfl
  | passiveDay i d =>
    obtain ⟨index, points⟩ := Bool.and_eq_true_iff.mp h
    refine map_readAll _ (reads_pair (reads_fits index) (reads_optField (z := []) (fun l is => ?_)
      (reads_list (w := RawPoint.bytes) [] (by norm_num) nofun)))
    subst is
    simp only [Bool.and_eq_true, decide_eq_true_eq, List.all_eq_true] at points
    obtain ⟨short, each⟩ := points
    exact reads_list l (by omega) fun x mem => reads_point (each x mem)
  | passiveSpecial i x =>
    obtain ⟨index, entry⟩ := Bool.and_eq_true_iff.mp h
    refine map_readAll _ (reads_pair (reads_fits index) (reads_optField (z := ⟨0, 0, 0, 0, 0⟩) (fun x is => ?_)
      (reads_special rfl)))
    subst is
    exact reads_special entry
  | passiveActivateAt t => exact map_readAll _ (reads_dateTime h)
  | readCalendar c p i =>
    simp only [Request.wf, Bool.and_eq_true] at h
    obtain ⟨⟨calendar, part⟩, index⟩ := h
    exact map_readAll (fun x => Request.readCalendar x.1 x.2.1 x.2.2)
      (reads_pair (reads_fits calendar) (reads_pair (reads_fits part) (reads_fits index)))
  | setSettlement m k d =>
    simp only [Request.wf, Bool.and_eq_true] at h
    obtain ⟨⟨mode, cap⟩, day⟩ := h
    exact map_readAll _ (reads_pair (reads_optNat mode) (reads_pair (reads_optNat cap) (reads_optNat day)))
  | setUtilityCap l hyst e => exact map_readAll _ (reads_cap h)
  | setPremisesCap l hyst e => exact map_readAll _ (reads_cap h)
  | setCapControl f e t hold =>
    simp only [Request.wf, Bool.and_eq_true] at h
    obtain ⟨⟨⟨fsc, enable⟩, trip⟩, hold⟩ := h
    exact map_readAll _ (reads_pair (reads_optNat fsc) (reads_pair (reads_optNat enable)
      (reads_pair (reads_optNat trip) (reads_optNat hold))))
  | setUnitConfig u e s m =>
    simp only [Request.wf, Bool.and_eq_true] at h
    obtain ⟨⟨⟨unit, enable⟩, slot⟩, mask⟩ := h
    exact map_readAll _ (reads_pair (reads_fits unit) (reads_pair (reads_optNat enable)
      (reads_pair (reads_optNat slot) (reads_optNat mask))))
  | setUnitStandby u r =>
    obtain ⟨unit, standby⟩ := Bool.and_eq_true_iff.mp h
    exact map_readAll _ (reads_pair (reads_fits unit) (reads_optNat standby))
  | setProfileWeights w =>
    exact map_readAll _ (reads_vec w fun x mem => reads_optNat (List.all_eq_true.mp h x mem))
  | readSnapshot k => exact congrArg (Option.map _) (readKey_bytes h)
  | lockArchive l => exact congrArg (Option.map _) (readSectors_bytes h)
  | unlockArchive l => exact congrArg (Option.map _) (readSectors_bytes h)
  | setNoticeMask m => exact map_readAll _ (reads_optField (z := 0) (fun x _ => reads_mask x) (reads_mask 0))
  | _ => rfl

end Sys2Proof.Machine
end

section
/-! PROOFS. The links of the master ports (R180 to R183, R200): characters are collected until the length is overlong or
the frame ends, and what the end of a frame leads to; the events of a link; the frame of a request. -/
namespace Sys2Proof.Machine
open Sys2Proof.Claim Sys2Proof.Laws

/-! ### Characters collected (R180, R181) -/

/-- The state with the receiver of a port as given. -/
abbrev receiver (p : Port) (rx : RxState) (s : State) : State := s.updPort p fun x => { x with rx := rx }

/-- Characters with which a receiver goes on collecting: neither an overlong length nor a frame's end. -/
def GoesOn (got : List RxChar) : Prop :=
  ¬(got.length = 3 ∧ 480 < lengthOf got) ∧ ¬(3 ≤ got.length ∧ got.length = lengthOf got + 6)

theorem goesOn_of_short {got : List RxChar} (short : got.length < 3) : GoesOn got :=
  ⟨fun overlong => by omega, fun ended => by omega⟩

theorem collectChar_goesOn {got : List RxChar} (h : GoesOn got) (p : Port) (s : State) :
    collectChar p got s = receiver p (.collect got s.tim.runMs) s := by
  obtain ⟨fits, unended⟩ := h
  exact (if_neg fits).trans (if_neg unended)

theorem receiver_receiver (p : Port) (r r' : RxState) (s : State) :
    receiver p r (receiver p r' s) = receiver p r s := updPort_updPort ..

/-- What the characters lead to does not depend on the receiver state they were collected in. -/
theorem collectChar_receiver (p : Port) (got : List RxChar) (r : RxState) (s : State) :
    collectChar p got (receiver p r s) = collectChar p got s := by
  have clock : (receiver p r s).tim = s.tim := by simp
  unfold collectChar
  dsimp only
  rw [clock]
  simp only [receiver_receiver]

/-- A receiver that has collected characters takes the next behind them; the first is a start marker. -/
theorem receive_collected {p : Port} {got : List RxChar} {c : RxChar} {s : State} (begun : Collected p got s)
    (start : got = [] → c.byte = 0xC3#8) : receive p c s = collectChar p (got ++ [c]) s := by
  rcases begun with ⟨rfl, hunt⟩ | ⟨_, t, collect⟩
  · rw [receive, hunt]
    exact if_pos (start rfl)
  · rw [receive, collect]

/-- Characters among which none but the last can end the collection: the last decides. -/
theorem receiveAll_eq_collectChar {p : Port} {chars : List RxChar} (arrived : chars ≠ []) {got : List RxChar}
    {s : State} (begun : Collected p got s) (start : ∀ c ∈ (got ++ chars).head?, c.byte = 0xC3#8)
    (goesOn : ∀ l more, l ++ more = got ++ chars → more ≠ [] → GoesOn l) :
    receiveAll p chars s = collectChar p (got ++ chars) s := by
  induction chars generalizing got s with
  | nil => exact absurd rfl arrived
  | cons c rest ih =>
    have first : receive p c s = collectChar p (got ++ [c]) s :=
      receive_collected begun fun empty => start c (by simp [empty])
    by_cases last : rest = []
    · subst last
      exact first
    · have assoc : got ++ [c] ++ rest = got ++ c :: rest := by simp
      have collected : receive p c s = receiver p (.collect (got ++ [c]) s.tim.runMs) s :=
        first.trans (collectChar_goesOn (goesOn _ rest assoc last) p s)
      have begun' : Collected p (got ++ [c]) (receive p c s) := .inr ⟨by simp, s.tim.runMs, by simp [collected]⟩
      rw [← assoc] at start goesOn ⊢
      calc receiveAll p (c :: rest) s = receiveAll p rest (receive p c s) := rfl
        _ = collectChar p (got ++ [c] ++ rest) (receive p c s) := ih last begun' start goesOn
        _ = collectChar p (got ++ [c] ++ rest) s := by rw [collected, collectChar_receiver]

/-! ### Frames (R181, R198, R200) -/

theorem lengthOf_append {got : List RxChar} (long : 3 ≤ got.length) (more : List RxChar) :
    lengthOf (got ++ more) = lengthOf got := by
  obtain ⟨a, b, c, l, rfl⟩ : ∃ a b c l, got = a :: b :: c :: l := by
    obtain _ | ⟨a, _ | ⟨b, _ | ⟨c, l⟩⟩⟩ := got
    · simp at long
    · simp at long
    · simp at long
    · exact ⟨a, b, c, l, rfl⟩
  rfl

theorem crcOk_append_iff {l check : List Byte} (two : check.length = 2) :
    crcOk (l ++ check) = true ↔ crcBytes l = check := by
  have body : (l ++ check).length - 2 = l.length := by rw [List.length_append, two, Nat.add_sub_cancel]
  rw [crcOk, body, List.drop_left, List.take_left, beq_iff_eq, eq_comm]

section
variable {frame : List RxChar} {code : Byte} {payload check : List Byte}

theorem frameOf_length (F : FrameOf frame code payload check) : frame.length = payload.length + 6 := by
  obtain ⟨-, two, bytes⟩ := F
  have := congrArg List.length bytes
  simp at this
  omega

theorem frameOf_lengthOf (F : FrameOf frame code payload check) : lengthOf frame = payload.length := by
  obtain ⟨fits, -, bytes⟩ := F
  have field : lengthOf frame = leNat (leBytes 2 payload.length) := by rw [lengthOf, bytes]; rfl
  rw [field, leNat_leBytes (by omega)]

theorem frameOf_head (F : FrameOf frame code payload check) : ∀ c ∈ frame.head?, c.byte = 0xC3#8 := by
  obtain ⟨-, -, bytes⟩ := F
  intro c first
  cases frame with
  | nil => cases first
  | cons d rest =>
    obtain rfl := Option.some.inj first
    exact (List.cons.inj bytes).1

/-- Short of its end, a frame is collected. -/
theorem frameOf_goesOn {got more : List RxChar} (F : FrameOf (got ++ more) code payload check) (rest : more ≠ []) :
    GoesOn got := by
  have total := frameOf_length F
  have ⟨fits, _, _⟩ := F
  have left := List.length_pos_of_ne_nil rest
  rw [List.length_append] at total
  by_cases long : 3 ≤ got.length
  · have field : lengthOf got = payload.length := (lengthOf_append long more).symm.trans (frameOf_lengthOf F)
    exact ⟨fun overlong => by omega, fun ended => by omega⟩
  · exact goesOn_of_short (by omega)

theorem frameOf_collectChar (F : FrameOf frame code payload check) (p : Port) (s : State) :
    collectChar p frame s = endFrame p frame (receiver p .hunt s) := by
  have total := frameOf_length F
  have field := frameOf_lengthOf F
  have ⟨fits, _, _⟩ := F
  exact (if_neg (by omega)).trans (if_pos (by omega))

/-- The end of a frame: with every stop bit there and the check right its code and payload are taken. -/
theorem frameOf_endFrame_good (F : FrameOf frame code payload check) (stops : ∀ c ∈ frame, c.stopOk = true)
    (checked : crcBytes ([0xC3#8] ++ leBytes 2 payload.length ++ [code] ++ payload) = check) (p : Port) (s : State) :
    endFrame p frame s = takePayload p code.toNat payload s := by
  have field := frameOf_lengthOf F
  obtain ⟨-, two, bytes⟩ := F
  rw [endFrame, bytes, field]
  refine (if_pos ?_).trans ?_
  · rw [(crcOk_append_iff two).mpr checked, List.all_eq_true.mpr stops]
    rfl
  · simp [leBytes]

theorem frameOf_endFrame_bad (F : FrameOf frame code payload check)
    (bad : ¬((∀ c ∈ frame, c.stopOk = true) ∧
      crcBytes ([0xC3#8] ++ leBytes 2 payload.length ++ [code] ++ payload) = check)) (p : Port) (s : State) :
    endFrame p frame s = badFrame p code.toNat s := by
  obtain ⟨-, two, bytes⟩ := F
  rw [endFrame, bytes]
  refine (if_neg fun good => bad ?_).trans ?_
  · obtain ⟨stops, checked⟩ := Bool.and_eq_true_iff.mp good
    exact ⟨List.all_eq_true.mp stops, (crcOk_append_iff two).mp checked⟩
  · simp [leBytes]

end

theorem badFrame_receiver (p : Port) (rx : RxState) (code : Nat) (s : State) :
    badFrame p code (receiver p rx s) = badFrameTo p rx code s :=
  (updPort_updPort ..).trans (congrArg (fun f => s.updPort p f) (funext fun _ => sendOther_eq ..))

theorem badFrameTo_rx (p : Port) (rx : RxState) (code : Nat) (s : State) :
    ((badFrameTo p rx code s).port p).rx = rx := by
  rw [badFrameTo, port_updPort, otherSent]
  split_ifs <;> rfl

theorem receiver_same {p : Port} {rx : RxState} {s : State} (h : (s.port p).rx = rx) : receiver p rx s = s :=
  updPort_same (by rw [← h])

/-! ### What is discarded (R180, R181) -/

theorem receiveAll_append (p : Port) (a b : List RxChar) (s : State) :
    receiveAll p (a ++ b) s = receiveAll p b (receiveAll p a s) := List.foldl_append

/-- Without a start marker HUNT discards everything. -/
theorem receiveAll_hunt {p : Port} {chars : List RxChar} {s : State} (hunt : (s.port p).rx = .hunt)
    (noise : ∀ c ∈ chars, c.byte ≠ 0xC3#8) : receiveAll p chars s = s := by
  induction chars with
  | nil => rfl
  | cons c rest ih =>
    have discarded : receive p c s = s := by
      rw [receive, hunt]
      exact if_neg (noise c (by simp))
    calc receiveAll p (c :: rest) s = receiveAll p rest (receive p c s) := rfl
      _ = receiveAll p rest s := by rw [discarded]
      _ = s := ih fun d mem => noise d (by simp [mem])

/-- IGNORE discards everything, the idle time starting anew. -/
theorem receiveAll_ignore {p : Port} {chars : List RxChar} (arrived : chars ≠ []) {s : State} {t : Nat}
    (ignore : (s.port p).rx = .ignore t) : receiveAll p chars s = receiver p (.ignore s.tim.runMs) s := by
  induction chars generalizing s t with
  | nil => exact absurd rfl arrived
  | cons c rest ih =>
    have first : receive p c s = receiver p (.ignore s.tim.runMs) s := by rw [receive, ignore]
    show receiveAll p rest (receive p c s) = _
    rw [first]
    by_cases last : rest = []
    · subst last
      rfl
    · rw [ih last (t := s.tim.runMs) (by simp), receiver_receiver]
      simp

/-! ### REQUEST_FRAME and FRAME_LENGTH_OVERFLOW -/

/-- No owner switches main supply. -/
theorem powered_keptByOwners : KeptByOwners fun s => s.sup.powered = true where
  port _ _ h := by simpa using h
  serve p q _ h := by
    cases q with
    | restart =>
      show (ownRestart _).1.sup.powered = true
      unfold ownRestart
      split_ifs
      · exact h
      · simpa using h
    | _ => simpa [serve] using h

theorem exec_requestFrame (p : Port) (chars : List RxChar) {s : State} (powered : s.sup.powered = true) :
    exec (.requestFrame p chars) s = .next (finish (receiveAll p chars s)) :=
  congrArg Host.Outcome.next (command_powered _ powered)

/-- Characters behind those that led to a state are received from there on. -/
theorem exec_requestFrame_append {p : Port} {chars : List RxChar} {s t : State} (powered : s.sup.powered = true)
    (led : receiveAll p chars s = t) (powered' : t.sup.powered = true) (rest : List RxChar) :
    exec (.requestFrame p (chars ++ rest)) s = exec (.requestFrame p rest) t := by
  rw [exec_requestFrame p _ powered, exec_requestFrame p rest powered', receiveAll_append, led]

theorem overlong_receiveAll {p : Port} {got chars : List RxChar} {a b c : RxChar} {s : State}
    (begun : Collected p got s) (three : got ++ chars = [a, b, c]) (marker : a.byte = 0xC3#8) (arrived : chars ≠ [])
    (overlong : 480 < b.byte.toNat + 256 * c.byte.toNat) (rest : List RxChar) :
    receiveAll p (chars ++ rest) s = badFrameTo p (.ignore s.tim.runMs) 0 s := by
  have short (l more : List RxChar) (is : l ++ more = got ++ chars) (left : more ≠ []) : GoesOn l := by
    have total := congrArg List.length is
    have := List.length_pos_of_ne_nil left
    rw [three] at total
    simp at total
    exact goesOn_of_short (by omega)
  have bad : receiveAll p chars s = badFrameTo p (.ignore s.tim.runMs) 0 s := by
    rw [receiveAll_eq_collectChar arrived begun (by simp [three, marker]) short, three, ← badFrame_receiver]
    exact if_pos ⟨rfl, by simpa [lengthOf, leNat] using overlong⟩
  rw [receiveAll_append, bad]
  by_cases behind : rest = []
  · subst behind
    rfl
  · have ignores := badFrameTo_rx p (.ignore s.tim.runMs) 0 s
    have clock : (badFrameTo p (.ignore s.tim.runMs) 0 s).tim = s.tim := by simp [badFrameTo]
    rw [receiveAll_ignore behind ignores, clock]
    exact receiver_same ignores


/-- A whole frame: its last character leads to its end, whose outcome takes the receiver in HUNT. -/
theorem frameOf_receiveAll {p : Port} {got chars : List RxChar} {code : Byte} {payload check : List Byte} {s : State}
    (begun : Collected p got s) (arrived : chars ≠ []) (F : FrameOf (got ++ chars) code payload check) :
    receiveAll p chars s = endFrame p (got ++ chars) (receiver p .hunt s) := by
  refine (receiveAll_eq_collectChar arrived begun (frameOf_head F) fun l more is left => ?_).trans
    (frameOf_collectChar F p s)
  rw [← is] at F
  exact frameOf_goesOn F left

/-- Characters of a frame short of its end. -/
theorem frameOf_receiveAll_short {p : Port} {got chars more : List RxChar} {code : Byte} {payload check : List Byte}
    {s : State} (begun : Collected p got s) (arrived : chars ≠ []) (left : more ≠ [])
    (F : FrameOf (got ++ chars ++ more) code payload check) :
    receiveAll p chars s = receiver p (.collect (got ++ chars) s.tim.runMs) s := by
  refine (receiveAll_eq_collectChar arrived begun (fun c first => ?_) fun l rest is _ => ?_).trans
    (collectChar_goesOn (frameOf_goesOn F left) p s)
  · refine frameOf_head F c ?_
    rw [List.head?_append, first]
    rfl
  · rw [← is, List.append_assoc] at F
    exact frameOf_goesOn F (by simp [left])

theorem receiverFrames : ReceiverFrames := by
  intro p got chars s powered into run ends
  have runs {t : State} (led : receiveAll p chars s = t) : run t :=
    (exec_requestFrame p chars powered).trans (congrArg (fun u => Host.Outcome.next (finish u)) led)
  have ended {t : State} (led : receiveAll p chars s = t) (powered' : t.sup.powered = true) : ends t :=
    ⟨runs led, exec_requestFrame_append powered led powered'⟩
  have hunting : (into .hunt).sup.powered = true := powered_keptByOwners.port p _ powered
  have overlong (b c : Byte) (long : 480 < b.toNat + 256 * c.toNat) (hunt : (s.port p).rx = .hunt) :
      receiveAll p ([0xC3#8, b, c].map goodChar) s = badFrameTo p (.ignore s.tim.runMs) 0 s :=
    overlong_receiveAll (got := []) (.inl ⟨rfl, hunt⟩) rfl rfl (by simp) long []
  refine ⟨fun more code payload check begun F arrived => ?_, fun a b c rest begun three marker arrived long => ?_,
    fun n hunt long => ?_, fun n => rfl, fun hunt noise => ?_, fun t ignore arrived => ?_⟩
  · refine ⟨fun left => runs (frameOf_receiveAll_short begun arrived left F), fun whole good => ?_, fun whole bad => ?_⟩
    all_goals
      subst whole
      rw [List.append_nil] at F
      have led := frameOf_receiveAll begun arrived F
    · obtain ⟨stops, checked⟩ := good
      exact ended (led.trans (frameOf_endFrame_good F stops checked p _))
        (powered_keptByOwners.takePayload _ _ _ hunting)
    · exact ended (led.trans ((frameOf_endFrame_bad F bad p _).trans (badFrame_receiver ..)))
        (powered_keptByOwners.port p _ powered)
  · exact (exec_requestFrame p _ powered).trans
      (congrArg (fun u => Host.Outcome.next (finish u)) (overlong_receiveAll begun three marker arrived long rest))
  · refine congrArg Host.Outcome.next (command_ends powered (overlong _ _ ?_ hunt))
    have := n.isLt
    simp only [BitVec.toNat_ofNat]
    omega
  · exact ended (receiveAll_hunt hunt noise) powered
  · exact runs (receiveAll_ignore arrived ignore)

/-! ### The events of a link (R180, R182, R183; log 2, log 3) -/

theorem sent_empty {x : PortState} (empty : x.tx = []) : x.sent = x := by
  cases x
  cases empty
  rfl

theorem portLinkEvents : PortLinkEvents := by
  intro p s powered x
  have ends {f : State → State} {t : State} (h : f s = t) : Host.Outcome.next (command f s) =
      (.next (finish t) : Host.Outcome State Fault Refusal) := congrArg Host.Outcome.next (command_ends powered h)
  refine ⟨fun got t collect => ends ?_, fun other => ends ?_, fun t ignore => ends ?_, fun other => ends ?_,
    fun empty => ends ?_, fun e one => ends ?_, fun e f rest more => ends ?_⟩
  · rw [stall, collect]
  · unfold stall
    split
    next got t collect => exact absurd collect (other got t)
    next => rfl
  · rw [idleEnds, ignore]
  · unfold idleEnds
    split
    next t ignore => exact absurd ignore (other t)
    next => rfl
  · refine updPort_same ?_
    exact sent_empty empty
  · refine updPort_congr ?_
    show PortState.sent x = _
    rw [PortState.sent, one]
    rfl
  · refine updPort_congr ?_
    show PortState.sent x = _
    rw [PortState.sent, more]
    rfl

/-- Settles O51: what the receiver makes of characters, what a good frame leads to, and the events of the link. -/
theorem portLinks : Obligations.PortLinks := ⟨receiverFrames, payloadTaken, portLinkEvents⟩

/-! ### A request's own frame (R182, R200; log 4) -/

theorem heldPayload_payload (q : Request) : heldPayload (Request.code q) (Request.payload q) = Request.held q := by
  cases q with
  | setUnitStandby u r => cases r <;> rfl
  | _ => rfl

theorem takePayload_payload (p : Port) {q : Request} (h : q.wf = true) (s : State) :
    takePayload p (Request.code q) (Request.payload q) s = takeRequest p q s := by
  rw [takePayload, takeRequest, heldPayload_payload, decodeRequest_payload h, Option.filter_some]

/-- The payload of a well-formed request fits a frame: one lemma of Laws/PerInstr.lean for each request. -/
theorem payload_length {q : Request} (h : q.wf = true) : (Request.payload q).length ≤ 480 := by
  cases q with
  | setNettingMethod m => exact (PortOperand.setNettingMethod .upt m h _ _ rfl).2
  | setTime t => exact (PortOperand.setTime .upt t h _ _ rfl).2
  | setLocalOffset o => exact (PortOperand.setLocalOffset .upt o h _ _ rfl).2
  | setOverrideSource l x => exact (PortOperand.setOverrideSource .upt l x h _ _ rfl).2
  | setOverride l v => exact (PortOperand.setOverride .upt l v h _ _ rfl).2
  | setOverrideMap m => exact (PortOperand.setOverrideMap .upt m h _ _ rfl).2
  | passiveClear n => exact (PortOperand.passiveClear .upt n h _ _ rfl).2
  | passiveBands nb fb l => exact (PortOperand.passiveBands .upt nb fb l h _ _ rfl).2
  | passiveSeason i x => exact (PortOperand.passiveSeason .upt i x h _ _ rfl).2
  | passiveWeek i w => exact (PortOperand.passiveWeek .upt i w h _ _ rfl).2
  | passiveDay i d => exact (PortOperand.passiveDay .upt i d h _ _ rfl).2
  | passiveSpecial i x => exact (PortOperand.passiveSpecial .upt i x h _ _ rfl).2
  | passiveActivateAt t => exact (PortOperand.passiveActivateAt .upt t h _ _ rfl).2
  | readCalendar c part i => exact (PortOperand.readCalendar .upt c part i h _ _ rfl).2
  | setSettlement m k d => exact (PortOperand.setSettlement .upt m k d h _ _ rfl).2
  | setUtilityCap l y e => exact (PortOperand.setUtilityCap .upt l y e h _ _ rfl).2
  | setPremisesCap l y e => exact (PortOperand.setPremisesCap .upt l y e h _ _ rfl).2
  | setCapControl f e t y => exact (PortOperand.setCapControl .upt f e t y h _ _ rfl).2
  | setUnitConfig u e x m => exact (PortOperand.setUnitConfig .upt u e x m h _ _ rfl).2
  | setUnitStandby u r => exact (PortOperand.setUnitStandby .upt u r h _ _ rfl).2
  | setProfileWeights w => exact (PortOperand.setProfileWeights .upt w h _ _ rfl).2
  | readSnapshot k => exact (PortOperand.readSnapshot .upt k h _ _ rfl).2
  | lockArchive l => exact (PortOperand.lockArchive .upt l h _ _ rfl).2
  | unlockArchive l => exact (PortOperand.unlockArchive .upt l h _ _ rfl).2
  | setNoticeMask m => exact (PortOperand.setNoticeMask .upt m h _ _ rfl).2
  | _ => exact Nat.zero_le _

/-- The bytes of a request's frame before its check. -/
def Request.body (q : Request) : List Byte :=
  [0xC3#8] ++ leBytes 2 (Request.payload q).length ++ [BitVec.ofNat 8 (Request.code q)] ++ Request.payload q

theorem frameOf_request {q : Request} (h : q.wf = true) : FrameOf ((Request.frame q).map goodChar)
    (BitVec.ofNat 8 (Request.code q)) (Request.payload q) (crcBytes (Request.body q)) := by
  refine ⟨payload_length h, crcBytes_length _, ?_⟩
  rw [map_byte_goodChar]
  simp [Request.frame, Request.body, withCrc, leBytes]

/-- Settles O53: the frame's code and payload are taken, and are the request. -/
theorem frameDoesItsRequest : Obligations.FrameDoesItsRequest := by
  intro i p q s request wf hunt
  have h : q.wf = true := by simpa [Instr.wf, request] using wf
  have code : (BitVec.ofNat 8 (Request.code q)).toNat = Request.code q :=
    toNat_ofNat_byte (by have := (inCatalogue_iff _).mp (inCatalogue_code q); omega)
  have taken : receiveAll p ((Request.frame q).map goodChar) s = takeRequest p q s :=
    calc receiveAll p ((Request.frame q).map goodChar) s
      _ = endFrame p ((Request.frame q).map goodChar) (receiver p .hunt s) :=
        frameOf_receiveAll (got := []) (.inl ⟨rfl, hunt⟩) (by simp [Request.frame, withCrc]) (frameOf_request h)
      _ = takePayload p (Request.code q) (Request.payload q) s := by
        rw [frameOf_endFrame_good (frameOf_request h) (by simp) rfl, code, receiver_same hunt]
      _ = takeRequest p q s := takePayload_payload p h s
  rw [exec_request request]
  cases powered : s.sup.powered with
  | true => rw [exec_requestFrame p _ powered, taken, command_powered _ powered]
  | false =>
    exact congrArg Host.Outcome.next ((command_unpowered _ powered).trans (command_unpowered _ powered).symm)

end Sys2Proof.Machine
end

section
/-! PROOFS. The read-back of requests (R197, R200; log 17, 45, 50, 60). -/
namespace Sys2Proof.Machine

/-- Settles O52, by cases on the request in `decodeRequest_payload`: each field of the payload is read back by the
`reads_*` lemma of its layout, and the code selects the fields. -/
theorem requestReadBack : Obligations.RequestReadBack := fun _ wf => decodeRequest_payload wf

end Sys2Proof.Machine
end

section
/-! PROOFS. The front of the command queue (log 1), the netting methods (R19, R20), and the two updates of the band
registers: the booking of a frame (R22 to R24) and the band fold (R28). -/
namespace Sys2Proof.Machine
open Sys2Proof.Claim

/-! ### The queue of waiting commands (log 1) -/

/-- Settles O1. -/
theorem stepRunsFrontCommand : Obligations.StepRunsFrontCommand := by
  intro c rest s pending
  rw [step, pending]

/-! ### Netting (R19, R20) -/

theorem importOf_vector (p1 p2 p3 : Int) : importOf .vector p1 p2 p3 = (p1 + p2 + p3).toNat := rfl

theorem exportOf_vector (p1 p2 p3 : Int) : exportOf .vector p1 p2 p3 = (-(p1 + p2 + p3)).toNat := rfl

theorem importOf_phase (p1 p2 p3 : Int) : importOf .phase p1 p2 p3 = p1.toNat + p2.toNat + p3.toNat := rfl

theorem exportOf_phase (p1 p2 p3 : Int) : exportOf .phase p1 p2 p3 = (-p1).toNat + (-p2).toNat + (-p3).toNat := rfl

/-- Settles O12: the increments are the positive parts of the site sum and of its negation. -/
theorem vectorNetting : Obligations.VectorNetting := by
  intro p1 p2 p3 clamped
  have c1 := clamped p1 (by simp)
  have c2 := clamped p2 (by simp)
  have c3 := clamped p3 (by simp)
  simp only [importOf_vector, exportOf_vector]
  omega

/-- In every frame PHASE books at least what VECTOR does, in both directions, with the same difference. -/
theorem phase_vector_frame (p1 p2 p3 : Int) :
    importOf .vector p1 p2 p3 ≤ importOf .phase p1 p2 p3 ∧ exportOf .vector p1 p2 p3 ≤ exportOf .phase p1 p2 p3 ∧
      (importOf .phase p1 p2 p3 : Int) - exportOf .phase p1 p2 p3 = p1 + p2 + p3 ∧
      (importOf .vector p1 p2 p3 : Int) - exportOf .vector p1 p2 p3 = p1 + p2 + p3 := by
  rw [importOf_vector, exportOf_vector, importOf_phase, exportOf_phase]
  omega

theorem gross_eq (p1 p2 p3 : Int) : gross [p1, p2, p3] = p1.toNat + p2.toNat + p3.toNat := by
  simp only [gross, List.map_cons, List.map_nil, List.sum_cons, List.sum_nil]
  omega

theorem stretch_cons (f : Int → Int → Int → Nat) (p : Int × Int × Int) (l : List (Int × Int × Int)) :
    stretch f (p :: l) = f p.1 p.2.1 p.2.2 + stretch f l := by
  simp [stretch]

/-- Over a stretch of frames, frame by frame. -/
theorem phase_vector_stretch (l : List (Int × Int × Int)) :
    stretch (importOf .vector) l ≤ stretch (importOf .phase) l ∧
    stretch (exportOf .vector) l ≤ stretch (exportOf .phase) l ∧
    (stretch (importOf .phase) l : Int) - stretch (exportOf .phase) l =
      (stretch (importOf .vector) l : Int) - stretch (exportOf .vector) l := by
  induction l with
  | nil => exact ⟨le_rfl, le_rfl, rfl⟩
  | cons p l ih =>
    have frame := phase_vector_frame p.1 p.2.1 p.2.2
    simp only [stretch_cons]
    omega

/-- Settles O13: one frame by the gross flows, a stretch by induction over its frames. -/
theorem phaseNetting : Obligations.PhaseNetting := by
  refine ⟨fun p1 p2 p3 clamped => ?_, by decide, phase_vector_stretch⟩
  have c1 := clamped p1 (by simp)
  have c2 := clamped p2 (by simp)
  have c3 := clamped p3 (by simp)
  simp only [gross_eq, importOf_vector, exportOf_vector, importOf_phase, exportOf_phase]
  omega

/-! ### A set of band registers (R24, R27) -/

theorem addWh_lt (a w : Nat) : addWh a w < whModulus := Nat.mod_lt _ (by decide)

theorem addWh_zero {a : Nat} (h : a < whModulus) : addWh a 0 = a := Nat.mod_eq_of_lt h

theorem bandsInRange_iff (v : Vector Nat 8) : bandsInRange v = true ↔ ∀ b : Fin 8, v[b] < whModulus := by
  simp [bandsInRange, Fin.forall_iff]

/-- A register set in range, whose sum with the opening total is the lifetime total modulo 10^9 (R24, R27). -/
structure BandsBalance (opening total : Nat) (v : Vector Nat 8) : Prop where
  total_lt : total < whModulus
  range : ∀ b : Fin 8, v[b] < whModulus
  sum : (opening + v.toList.sum) % whModulus = total % whModulus

theorem sum_set_list (l : List Nat) (i x : Nat) (h : i < l.length) : (l.set i x).sum + l[i] = l.sum + x := by
  induction l generalizing i with
  | nil => cases h
  | cons a l ih =>
    cases i with
    | zero => simp only [List.set_cons_zero, List.sum_cons, List.getElem_cons_zero]; omega
    | succ i =>
      have tail := ih i (by simpa using h)
      simp only [List.set_cons_succ, List.sum_cons, List.getElem_cons_succ]
      omega

/-- A write of one band moves the sum of the set by the same difference. -/
theorem sum_set_band (v : Vector Nat 8) (b : Fin 8) (x : Nat) :
    (v.set b x).toList.sum + v[b] = v.toList.sum + x := by
  have h := sum_set_list v.toList b x (by simp)
  rwa [← Vector.toList_set b.isLt, Vector.getElem_toList] at h

theorem getElem_set_band (v : Vector Nat 8) (b c : Fin 8) (x : Nat) :
    (v.set b x)[c] = if c = b then x else v[c] := by
  simp [Vector.getElem_set, Fin.ext_iff, eq_comm]


section Sets
variable {opening total : Nat} {v : Vector Nat 8}

/-- A period opens with every band at 0 and the opening total at the lifetime total (R92). -/
theorem BandsBalance.opens (h : total < whModulus) : BandsBalance total total (.replicate 8 0) where
  total_lt := h
  range b := by simp
  sum := by simp

/-- A booking moves the lifetime total and its band alike (R23, R27). -/
theorem BandsBalance.book (B : BandsBalance opening total v) (b : Fin 8) (w : Nat) :
    BandsBalance opening (addWh total w) (v.set b (addWh v[b] w)) where
  total_lt := addWh_lt _ _
  range c := by
    rw [getElem_set_band]
    split_ifs
    · exact addWh_lt _ _
    · exact B.range c
  sum := by
    have moved := sum_set_band v b (addWh v[b] w)
    have balance := B.sum
    simp only [addWh, whModulus] at *
    omega

/-- A band folded into the fallback band (R28). -/
theorem BandsBalance.moveBand (B : BandsBalance opening total v) {b fb : Fin 8} (other : b ≠ fb) :
    BandsBalance opening total ((v.set fb (addWh v[fb] v[b])).set b 0) where
  total_lt := B.total_lt
  range c := by
    rw [getElem_set_band, getElem_set_band]
    split_ifs
    · decide
    · exact addWh_lt _ _
    · exact B.range c
  sum := by
    have filled := sum_set_band v fb (addWh v[fb] v[b])
    have emptied := sum_set_band (v.set fb (addWh v[fb] v[b])) b 0
    rw [getElem_set_band, if_neg other] at emptied
    have balance := B.sum
    simp only [addWh, whModulus] at *
    omega

/-- The band fold keeps the balance (R27, R28). -/
theorem BandsBalance.fold (B : BandsBalance opening total v) (nb : Nat) (fb : Fin 8) :
    BandsBalance opening total (foldBands nb fb v) := by
  unfold foldBands
  refine List.foldlRecOn _ _ B fun v B b _ => ?_
  split_ifs with folds
  · exact B.moveBand folds.2
  · exact B

end Sets

/-! ### The Register Bank -/

/-- What `RegBank.ok` says, by its parts. -/
structure RegBank.Sound (r : RegBank) : Prop where
  ri : r.ri < 1000
  re : r.re < 1000
  imported : BandsBalance r.tiOpen r.ti r.imp
  exported : BandsBalance r.teOpen r.te r.exp
  forfeit : r.forfeit < whModulus
  credit : r.credit < whModulus
  period : 1 ≤ r.period ∧ r.period ≤ periodMax

theorem RegBank.ok_iff (r : RegBank) : r.ok = true ↔ r.Sound := by
  simp only [RegBank.ok, Bool.and_eq_true, decide_eq_true_eq, bandsInRange_iff]
  constructor
  · rintro ⟨⟨⟨⟨⟨⟨⟨⟨⟨⟨ri, re⟩, ti⟩, te⟩, imp⟩, exp⟩, impSum⟩, expSum⟩, forfeit⟩, credit⟩, period⟩
    exact ⟨ri, re, ⟨ti, imp, impSum⟩, ⟨te, exp, expSum⟩, forfeit, credit, period⟩
  · rintro ⟨ri, re, ⟨ti, imp, impSum⟩, ⟨te, exp, expSum⟩, forfeit, credit, period⟩
    exact ⟨⟨⟨⟨⟨⟨⟨⟨⟨⟨ri, re⟩, ti⟩, te⟩, imp⟩, exp⟩, impSum⟩, expSum⟩, forfeit⟩, credit⟩, period⟩

theorem RegBank.Sound.book {r : RegBank} (R : r.Sound) (i e : Nat) (b : Fin 8) : (r.book i e b).Sound where
  ri := Nat.mod_lt _ (by decide)
  re := Nat.mod_lt _ (by decide)
  imported := R.imported.book b _
  exported := R.exported.book b _
  forfeit := R.forfeit
  credit := R.credit
  period := R.period

theorem RegBank.Sound.fold {r : RegBank} (R : r.Sound) (nb : Nat) (fb : Fin 8) : (r.fold nb fb).Sound :=
  { R with imported := R.imported.fold nb fb, exported := R.exported.fold nb fb }

theorem book_imp (r : RegBank) (i e : Nat) (b k : Fin 8) :
    (r.book i e b).imp[k] = if k = b then addWh r.imp[b] ((r.ri + i) / 1000) else r.imp[k] := getElem_set_band ..

theorem book_exp (r : RegBank) (i e : Nat) (b k : Fin 8) :
    (r.book i e b).exp[k] = if k = b then addWh r.exp[b] ((r.re + e) / 1000) else r.exp[k] := getElem_set_band ..

/-- With no watt-hour completed a direction stays as it is. -/
theorem book_nothing {residue opening total : Nat} {v : Vector Nat 8} (b : Fin 8) (small : residue < 1000)
    (B : BandsBalance opening total v) :
    (residue + 0) % 1000 = residue ∧ addWh total ((residue + 0) / 1000) = total ∧
      v.set b (addWh v[b] ((residue + 0) / 1000)) = v := by
  rw [Nat.add_zero, Nat.div_eq_of_lt small, addWh_zero B.total_lt, addWh_zero (B.range b)]
  exact ⟨Nat.mod_eq_of_lt small, rfl, Vector.set_getElem_self _⟩

theorem bookingFrame : BookingFrame := by
  intro r i e b
  refine ⟨⟨Nat.div_add_mod _ _, Nat.mod_lt _ (by decide), Nat.div_add_mod _ _, Nat.mod_lt _ (by decide)⟩,
    ⟨rfl, rfl⟩, ⟨?_, ?_⟩, fun k other => ⟨?_, ?_⟩, rfl, fun ok none => ?_, fun ok none => ?_⟩
  · rw [book_imp, if_pos rfl]
    rfl
  · rw [book_exp, if_pos rfl]
    rfl
  · rw [book_imp, if_neg other]
  · rw [book_exp, if_neg other]
  · subst none
    have R := (RegBank.ok_iff r).mp ok
    exact book_nothing b R.ri R.imported
  · subst none
    have R := (RegBank.ok_iff r).mp ok
    exact book_nothing b R.re R.exported

/-! ### The band fold (R28) -/

/-- Bands folded one after another, as `foldBands` folds all eight. -/
def foldSome (nb : Nat) (fb : Fin 8) (l : List (Fin 8)) (v : Vector Nat 8) : Vector Nat 8 :=
  l.foldl (fun v b => if nb ≤ b.val ∧ b ≠ fb then (v.set fb (addWh v[fb] v[b])).set b 0 else v) v

/-- What the bands at or heldAbove nb among some bands hold. -/
def heldAbove (nb : Nat) (v : Vector Nat 8) (l : List (Fin 8)) : Nat :=
  (l.map fun b => if nb ≤ b.val then v[b] else 0).sum

theorem foldBands_eq (nb : Nat) (fb : Fin 8) (v : Vector Nat 8) :
    foldBands nb fb v = foldSome nb fb (List.finRange 8) v := rfl

section Fold
variable {nb : Nat} {fb : Fin 8}

theorem foldSome_cons (b : Fin 8) (l : List (Fin 8)) (v : Vector Nat 8) : foldSome nb fb (b :: l) v =
    foldSome nb fb l (if nb ≤ b.val ∧ b ≠ fb then (v.set fb (addWh v[fb] v[b])).set b 0 else v) := rfl

/-- A band that is not folded stays, unless it is the fallback band. -/
theorem foldSome_other {k : Fin 8} (other : k ≠ fb) {l : List (Fin 8)} (v : Vector Nat 8)
    (stays : k ∈ l → k.val < nb) : (foldSome nb fb l v)[k] = v[k] := by
  induction l generalizing v with
  | nil => rfl
  | cons b l ih =>
    rw [foldSome_cons, ih _ fun mem => stays (.tail _ mem)]
    split_ifs with folds
    · have unlike : k ≠ b := by
        rintro rfl
        have := stays List.mem_cons_self
        omega
      rw [getElem_set_band, if_neg unlike, getElem_set_band, if_neg other]
    · rfl

theorem foldSome_zero {k : Fin 8} (high : nb ≤ k.val) (other : k ≠ fb) {l : List (Fin 8)} (distinct : l.Nodup)
    (mem : k ∈ l) (v : Vector Nat 8) : (foldSome nb fb l v)[k] = 0 := by
  induction l generalizing v with
  | nil => cases mem
  | cons b l ih =>
    obtain ⟨absent, distinct⟩ := List.nodup_cons.mp distinct
    rw [foldSome_cons]
    by_cases here : k = b
    · subst here
      rw [if_pos ⟨high, other⟩, foldSome_other other _ fun mem => absurd mem absent, getElem_set_band, if_pos rfl]
    · exact ih distinct ((List.mem_cons.mp mem).resolve_left here) _

/-- The fallback band takes the sum of the bands folded, modulo 10^9 once one is. -/
theorem foldSome_fallback (low : fb.val < nb) {l : List (Fin 8)} (distinct : l.Nodup) (v : Vector Nat 8) :
    (foldSome nb fb l v)[fb] % whModulus = (v[fb] + heldAbove nb v l) % whModulus ∧
      ((∃ b ∈ l, nb ≤ b.val) ∨ v[fb] < whModulus → (foldSome nb fb l v)[fb] < whModulus) := by
  induction l generalizing v with
  | nil => simp [foldSome, heldAbove]
  | cons b l ih =>
    obtain ⟨absent, distinct⟩ := List.nodup_cons.mp distinct
    rw [foldSome_cons]
    by_cases high : nb ≤ b.val
    · have other : b ≠ fb := by
        rintro rfl
        omega
      rw [if_pos ⟨high, other⟩]
      set w := (v.set fb (addWh v[fb] v[b])).set b 0 with hw
      have filled : w[fb] = addWh v[fb] v[b] := by
        rw [hw, getElem_set_band, if_neg other.symm, getElem_set_band, if_pos rfl]
      have rest : heldAbove nb w l = heldAbove nb v l := by
        refine congrArg List.sum (List.map_congr_left fun c mem => ?_)
        split_ifs with highC
        · have unlike : c ≠ b := ne_of_mem_of_not_mem mem absent
          have otherC : c ≠ fb := by
            rintro rfl
            omega
          rw [hw, getElem_set_band, if_neg unlike, getElem_set_band, if_neg otherC]
        · rfl
      obtain ⟨sum, lt⟩ := ih distinct w
      refine ⟨?_, fun _ => lt (.inr (filled ▸ addWh_lt _ _))⟩
      rw [sum, rest, filled]
      simp only [heldAbove, List.map_cons, List.sum_cons, if_pos high, addWh, Nat.mod_add_mod, Nat.add_assoc]
    · rw [if_neg fun folds => high folds.1]
      obtain ⟨sum, lt⟩ := ih distinct v
      refine ⟨by simpa [heldAbove, high] using sum, fun h => lt ?_⟩
      simpa [high] using h

/-- Nothing is folded of eight bands. -/
theorem foldBands_all (all : 8 ≤ nb) (v : Vector Nat 8) : foldBands nb fb v = v := by
  have low (b : Fin 8) : ¬(nb ≤ b.val ∧ b ≠ fb) := by omega
  rw [foldBands_eq, foldSome]
  simp only [low, if_false, List.foldl_fixed]

theorem foldBands_fallback (low : fb.val < nb) (fewer : nb < 8) (v : Vector Nat 8) :
    (foldBands nb fb v)[fb] = (v[fb] + heldAbove nb v (List.finRange 8)) % whModulus := by
  obtain ⟨sum, lt⟩ := foldSome_fallback low (List.nodup_finRange 8) v
  rw [foldBands_eq, ← sum, Nat.mod_eq_of_lt (lt (.inl ⟨⟨7, by decide⟩, List.mem_finRange _, by simp; omega⟩))]

theorem foldBands_high (low : fb.val < nb) {b : Fin 8} (high : nb ≤ b.val) (v : Vector Nat 8) :
    (foldBands nb fb v)[b] = 0 := by
  have other : b ≠ fb := by
    rintro rfl
    omega
  exact foldSome_zero high other (List.nodup_finRange 8) (List.mem_finRange b) v

theorem foldBands_low {b : Fin 8} (below : b.val < nb) (other : b ≠ fb) (v : Vector Nat 8) :
    (foldBands nb fb v)[b] = v[b] := foldSome_other other v fun _ => below

end Fold

theorem bandFold : BandFold := by
  intro nb fb r low
  refine ⟨fun b high => ⟨foldBands_high low high _, foldBands_high low high _⟩,
    fun b below other => ⟨foldBands_low below other _, foldBands_low below other _⟩,
    fun fewer => ⟨foldBands_fallback low fewer _, foldBands_fallback low fewer _⟩, fun all => ?_, rfl⟩
  show r.fold nb fb = r
  rw [RegBank.fold, foldBands_all all, foldBands_all all]

/-- Settles O14: each band register by what the write of a band leaves of the others. -/
theorem registerBankUpdates : Obligations.RegisterBankUpdates := ⟨bookingFrame, bandFold⟩

end Sys2Proof.Machine
end

section
/-! PROOFS. The views of the ports (R36, R193, R194), and the state right after a reset. -/
namespace Sys2Proof.Machine
open Sys2Proof.Claim

/-! ### The copy of the register state (R36, R193; log 35) -/

theorem regCopy_eq (s : State) : regCopy s = registersNow s := rfl

/-- A request being taken is no part of the copy. -/
theorem regCopy_updPort (p : Port) (f : PortState → PortState) (s : State) :
    regCopy (s.updPort p f) = registersNow s := by
  rw [← regCopy_eq]
  cases p <;> rfl

/-! ### The requests on views -/

section Requests
variable {p : Port} {s : State}

theorem freezeView_held (h : Serves p .freezeView s) : exec (.freezeView p) s = .next (answered p 38 .ok
    (.view (if s.tim.valid then some s.tim.utc else none) ((s.tim.runMs + 10000) / 1000))
    (s.updPort p fun x => { x with
      buffer := some 38, view := .held (registersNow s) (s.tim.runMs + 10000) })) := by
  refine congrArg Host.Outcome.next (command_served h rfl ?_)
  show ownFreezeView p _ = _
  simp [ownFreezeView, okWith, updPort_updPort, regCopy_updPort, Tim.stamp]

theorem readRegisters_live (h : Serves p .readRegisters s) (noView : (s.port p).view = .none) :
    exec (.readRegisters p) s = .next (answered p 3 .ok (.registers (registersNow s) none) (taken p 3 s)) := by
  refine congrArg Host.Outcome.next (command_served h rfl ?_)
  show ownReadRegisters p _ = _
  simp [ownReadRegisters, noView, okWith, regCopy_updPort]

theorem readRegisters_view (h : Serves p .readRegisters s) {c : RegCopy} {t : Nat}
    (held : (s.port p).view = .held c t) : exec (.readRegisters p) s =
      .next (answered p 3 .ok (.registers c (some (t - s.tim.runMs))) (taken p 3 s)) := by
  refine congrArg Host.Outcome.next (command_served h rfl ?_)
  show ownReadRegisters p _ = _
  simp [ownReadRegisters, held, okWith]

theorem readRegisters_expired (h : Serves p .readRegisters s) {c : RegCopy} {t : Nat}
    (expired : (s.port p).view = .expired c t) : exec (.readRegisters p) s =
      .next (answered p 3 .viewExpired .empty (taken p 3 s)) := by
  refine congrArg Host.Outcome.next (command_served h rfl ?_)
  show ownReadRegisters p _ = _
  simp [ownReadRegisters, expired, bare]

theorem releaseView_drops (h : Serves p .releaseView s) : exec (.releaseView p) s = .next (answered p 39 .ok
    (.released (s.port p).view.code) (s.updPort p fun x => { x with buffer := some 39, view := .none })) := by
  refine congrArg Host.Outcome.next (command_served h rfl ?_)
  show ownReleaseView p _ = _
  simp [ownReleaseView, okWith, updPort_updPort]

/-! ### VIEW_EXPIRY (R193; log 2, log 3) -/

theorem exec_viewExpiry (powered : s.sup.powered = true) :
    exec (.viewExpiry p) s = .next (finish (viewExpires p s)) :=
  congrArg Host.Outcome.next (command_powered _ powered)

theorem viewExpires_held {c : RegCopy} {t : Nat} (held : (s.port p).view = .held c t) :
    viewExpires p s = (passTo t s).updPort p fun x => { x with view := .expired c t } := by
  rw [viewExpires, held]

theorem viewExpires_absent (absent : ∀ c t, (s.port p).view ≠ .held c t) : viewExpires p s = s := by
  unfold viewExpires
  split
  next held => exact absurd held (absent _ _)
  next => rfl

end Requests

/-- Settles O49, request by request, and the expiry by whether a view is held. -/
theorem views : Obligations.Views := by
  intro p s
  refine ⟨freezeView_held, fun h => ⟨readRegisters_live h, fun _ _ => readRegisters_view h,
    fun _ _ => readRegisters_expired h⟩, releaseView_drops, fun powered => ⟨fun c t held => ?_, fun absent => ?_⟩⟩
  · rw [exec_viewExpiry powered, viewExpires_held held]
  · rw [exec_viewExpiry powered, viewExpires_absent absent]

/-! ### Right after a reset (R38, R78, R122, R141, R162; log 11) -/

/-- Settles O54: the reset state is closed, and each part of its soundness is decided. -/
theorem resetIsSafe : Obligations.ResetIsSafe :=
  ⟨by decide, by decide, by decide, by decide, by decide, by decide⟩

end Sys2Proof.Machine
end

section
/-! PROOFS. The billing record (R22, R24, R27, R29, R31, R177): what makes the Register Bank and the records of the History
Store sound, and what each operation on them keeps. -/
namespace Sys2Proof.Machine
open Sys2Proof.Claim

/-! ### The memory -/

/-- Every record the memory holds may be brought back, and the memory is in its canonical form. -/
structure Store.Sound (m : Store) : Prop where
  records : ∀ e ∈ m, e.2.ok = true
  wf : Store.wf m

theorem Store.Sound.put {m : Store} (M : Store.Sound m) (k : Nat) {c : SlotContent} (ok : c.ok = true) :
    Store.Sound (Store.put m k c) where
  records e mem := by
    rcases Store.mem_put mem with rfl | old
    · exact ok
    · exact M.records e old
  wf := Store.wf_put k c M.wf

theorem Store.Sound.erased {m : Store} (M : Store.Sound m) (sector : Nat) (b : BitVec 16) :
    Store.Sound (Store.erased m sector b) where
  records e mem := by
    rcases Store.mem_erased mem with junk | old
    · rw [junk]
      rfl
    · exact M.records e old
  wf := Store.wf_erased sector b M.wf

theorem Store.Sound.tear {m : Store} (M : Store.Sound m) (t : Torn) (k : Nat) {c : SlotContent} (ok : c.ok = true) :
    Store.Sound (tearSlot t k c m) := by
  cases t with
  | blank => exact M
  | written => exact M.put k ok
  | invalid => exact M.put k rfl

theorem Store.Sound.at_ok {m : Store} (M : Store.Sound m) {k : Nat} {c : SlotContent} (held : Store.at m k = some c) :
    c.ok = true := M.records _ (Store.mem_of_at held)

/-- A checkpoint that a record position holds may be loaded (R173). -/
theorem Store.Sound.checkpointAt_ok {m : Store} (M : Store.Sound m) {p : Nat} {c : Checkpoint}
    (held : checkpointAt m p = some c) : c.ok = true := by
  unfold checkpointAt at held
  split at held
  next first _ =>
    split_ifs at held
    obtain rfl := Option.some.inj held
    exact M.at_ok first
  next => cases held

/-- A snapshot of the index may be reconciled with (R177). -/
theorem Store.Sound.newerSnapshots_ok {h : Hst} (M : Store.Sound h.store) {n : Nat} {r : Snapshot}
    (mem : r ∈ h.newerSnapshots n) : r.ok = true := by
  obtain ⟨x, -, -, held⟩ := mem_newerSnapshots.mp mem
  exact M.at_ok ((snapshotAt_eq_some_iff _ _ _).mp held)

/-! ### The records of the History Store -/

/-- What `Hst.recordsOk` says, with the canonical form of the memory. -/
structure Hst.RecordsSound (h : Hst) : Prop where
  stored : Store.Sound h.store
  pending : ∀ e ∈ h.queue, e.snap.ok = true
  programming : h.engine.ok = true
  retry : ∀ c, h.ckptRetry = some c → c.ok = true

theorem recordsSound_iff (h : Hst) : h.recordsOk = true ∧ Store.wf h.store ↔ h.RecordsSound := by
  simp only [Hst.recordsOk, Bool.and_eq_true, List.all_eq_true]
  constructor
  · rintro ⟨⟨⟨⟨stored, pending⟩, programming⟩, retry⟩, wf⟩
    refine ⟨⟨stored, wf⟩, pending, programming, fun c waits => ?_⟩
    simpa [waits] using retry
  · rintro ⟨⟨stored, wf⟩, pending, programming, retry⟩
    refine ⟨⟨⟨⟨stored, pending⟩, programming⟩, ?_⟩, wf⟩
    split
    next c waits => exact retry c waits
    next => rfl

section Records
variable {h k : Hst}

theorem Hst.RecordsSound.of_same (H : h.RecordsSound) (store : k.store = h.store) (queue : k.queue = h.queue)
    (engine : k.engine = h.engine) (retry : k.ckptRetry = h.ckptRetry) : k.RecordsSound where
  stored := store ▸ H.stored
  pending := queue ▸ H.pending
  programming := engine ▸ H.programming
  retry := retry ▸ H.retry

theorem enterErase_records (H : h.RecordsSound) (x : Nat) : (h.enterErase x).RecordsSound := by
  unfold Hst.enterErase
  split_ifs
  · exact H
  · exact H.of_same rfl rfl rfl rfl

theorem judgeLogPreErase_records (H : h.RecordsSound) : h.judgeLogPreErase.RecordsSound := by
  by_cases due : h.preEraseDue
  · rw [judgeLogPreErase_due due]
    exact enterErase_records H _
  · rwa [judgeLogPreErase_rests due]

theorem beginErase_engine (x : Nat) (h : Hst) :
    (h.beginErase x).engine = .erase x ∧ (h.beginErase x).ckptRetry = h.ckptRetry := by
  simp only [Hst.beginErase, and_self]

theorem beginErase_records (H : h.RecordsSound) (x : Nat) : (h.beginErase x).RecordsSound := by
  obtain ⟨engine, retry⟩ := beginErase_engine x h
  refine ⟨?_, ?_, ?_, ?_⟩
  · rw [(beginErase_images x h).1]
    exact H.stored.erased x _
  · rw [(beginErase_queue x h).1]
    exact H.pending
  · rw [engine]
    rfl
  · rw [retry]
    exact H.retry

theorem nextErase_records (H : h.RecordsSound) : h.nextErase.RecordsSound := by
  unfold Hst.nextErase
  split
  · exact beginErase_records H _
  · exact H

theorem suspendErase_records (H : h.RecordsSound) : h.suspendErase.RecordsSound := by
  unfold Hst.suspendErase
  split
  · exact ⟨H.stored, H.pending, rfl, H.retry⟩
  · exact H

/-- The records of the entries, whatever slots they are bound to. -/
theorem chooseSlot_records (n : Nat) : (h.chooseSlot n).2.store = h.store ∧ (h.chooseSlot n).2.engine = h.engine ∧
    (h.chooseSlot n).2.ckptRetry = h.ckptRetry := by
  unfold Hst.chooseSlot
  split <;> exact ⟨rfl, rfl, rfl⟩

/-- A rebinding moves the entries to other slots (R158). -/
theorem rebind_records (H : h.RecordsSound) : h.rebind.RecordsSound := by
  have pending := H.pending
  unfold Hst.rebind
  split
  · exact H
  next e queue =>
    obtain ⟨store, engine, retry⟩ := chooseSlot_records (h := h) e.slot
    refine ⟨store ▸ H.stored, fun x mem => ?_, engine ▸ H.programming, retry ▸ H.retry⟩
    obtain rfl := List.mem_singleton.mp mem
    exact pending e (by simp [queue])
  next e e2 rest queue =>
    obtain ⟨store, engine, retry⟩ := chooseSlot_records (h := h) e2.slot
    refine ⟨store ▸ H.stored, fun x mem => ?_, engine ▸ H.programming, retry ▸ H.retry⟩
    rcases List.mem_cons.mp mem with rfl | later
    · exact pending e (by simp [queue])
    · rcases List.mem_cons.mp later with rfl | old
      · exact pending e2 (by simp [queue])
      · exact pending x (by simp [queue, old])

theorem scanLog_records (H : h.RecordsSound) : h.scanLog.RecordsSound := by
  unfold Hst.scanLog
  split <;> exact H.of_same rfl rfl rfl rfl

theorem halfContent_ok {c : Checkpoint} (ok : c.ok = true) (valid : Bool) (n : Fin 2) :
    (halfContent valid n c).ok = true := by
  cases valid with
  | true => exact ok
  | false => rfl

theorem programHalves_records (H : h.RecordsSound) {c : Checkpoint} (ok : c.ok = true) (p : Nat)
    (valid0 valid1 : Bool) : (h.programHalves c p valid0 valid1).RecordsSound where
  stored := (H.stored.put _ (halfContent_ok ok _ _)).put _ (halfContent_ok ok _ _)
  pending := H.pending
  programming := rfl
  retry := H.retry

theorem readsEnded_records (H : h.RecordsSound) : h.readsEnded.RecordsSound := by
  unfold Hst.readsEnded
  split
  · exact ⟨H.stored, H.pending, rfl, H.retry⟩
  · exact H

theorem reset_records {m : Store} (M : Store.Sound m) : (Hst.reset m).RecordsSound where
  stored := M
  pending := by simp [Hst.reset]
  programming := rfl
  retry := by simp [Hst.reset]

end Records

/-! ### Soundness in a state -/

/-- What `State.inv` says, by its parts. -/
structure State.BillingSound (s : State) : Prop where
  reg : s.reg.ok = true
  cap : s.set.cap < whModulus
  records : s.hst.RecordsSound

theorem inv_iff (s : State) : s.inv = true ↔ s.BillingSound := by
  simp only [State.inv, Bool.and_eq_true, decide_eq_true_eq]
  constructor
  · rintro ⟨⟨⟨reg, cap⟩, records⟩, wf⟩
    exact ⟨reg, cap, (recordsSound_iff _).mp ⟨records, wf⟩⟩
  · rintro ⟨reg, cap, records⟩
    obtain ⟨records, wf⟩ := (recordsSound_iff _).mpr records
    exact ⟨⟨⟨reg, cap⟩, records⟩, wf⟩

namespace State.BillingSound

theorem of_same {s t : State} (S : s.BillingSound) (reg : t.reg.ok = s.reg.ok) (cap : t.set.cap = s.set.cap)
    (hst : t.hst = s.hst) : t.BillingSound :=
  ⟨reg ▸ S.reg, cap ▸ S.cap, hst ▸ S.records⟩

theorem of_records {s t : State} (S : s.BillingSound) (reg : t.reg = s.reg) (set : t.set = s.set)
    (records : t.hst.RecordsSound) : t.BillingSound :=
  ⟨reg ▸ S.reg, set ▸ S.cap, records⟩

theorem updHst {s : State} (S : s.BillingSound) {f : Hst → Hst} (records : (f s.hst).RecordsSound) :
    (updHst f s).BillingSound := S.of_records rfl rfl records

/-- The flags of the open period are not judged. -/
theorem setFlags {s : State} (S : s.BillingSound) (f : PeriodFlags → PeriodFlags) : (setFlags f s).BillingSound :=
  S.of_same rfl rfl rfl

theorem draws {s : State} (S : s.BillingSound) (n : Nat) : ({ s with draws := n } : State).BillingSound :=
  S.of_same rfl rfl rfl

theorem raise {s : State} (S : s.BillingSound) (n : Notice) : (raise n s).BillingSound := S.of_same rfl rfl rfl

theorem evalBand {s : State} (S : s.BillingSound) : (evalBand s).BillingSound :=
  S.of_same (by simp) (by simp) (by simp)

theorem requestCheckpoint {s : State} (S : s.BillingSound) (c : Cause) : (requestCheckpoint c s).BillingSound := by
  unfold Machine.requestCheckpoint
  split_ifs
  · exact S
  · exact S.of_records rfl rfl (S.records.of_same rfl rfl rfl rfl)

theorem setting {s : State} (S : s.BillingSound) : (setting s).BillingSound := S.requestCheckpoint _

theorem failCheckpoints {s : State} (S : s.BillingSound) : (failCheckpoints s).BillingSound := by
  refine S.of_records rfl rfl ⟨S.records.stored, S.records.pending, S.records.programming, fun c waits => ?_⟩
  cases waits

theorem judgeRing {s : State} (S : s.BillingSound) : (judgeRing s).BillingSound := by
  by_cases another : s.hst.nextRing s.hst.ckptSector = s.hst.ckptSector
  · rw [judgeRing_alone another]
    split_ifs
    · exact S.failCheckpoints
    · exact S
  · rw [judgeRing_goesOn another]
    split_ifs
    · exact S.updHst (enterErase_records S.records _)
    · exact S

theorem judgeLogPreErase {s : State} (S : s.BillingSound) : (Machine.updHst Hst.judgeLogPreErase s).BillingSound :=
  S.updHst (judgeLogPreErase_records S.records)

theorem capture {s : State} (S : s.BillingSound) (causes : CauseSet) : (captureNow causes s).ok = true := by
  simp [Checkpoint.ok, captureNow, S.reg, S.cap]

/-! ### Calendars (R64, R71, R76) -/

theorem requestImage {s : State} (S : s.BillingSound) : (requestImage s).BillingSound := by
  refine S.of_records (by simp) (by simp) ?_
  unfold Machine.requestImage
  dsimp only
  split_ifs
  · exact S.records
  · exact S.records.of_same rfl rfl rfl rfl

theorem passiveEdit {s : State} (S : s.BillingSound) (c : Calendar) : (passiveEdit c s).BillingSound := by
  unfold Machine.passiveEdit
  dsimp only
  set u := Machine.updHst _ _ with hu
  have edited : u.BillingSound := ⟨S.reg, S.cap, S.records.of_same rfl rfl rfl rfl⟩
  split_ifs
  · exact edited.requestCheckpoint _
  · exact edited

theorem activate {s : State} (S : s.BillingSound) : (activate s).BillingSound := by
  unfold Machine.activate
  split
  · exact S
  · refine requestCheckpoint (raise (evalBand ?_) _) _
    exact ⟨S.reg, S.cap, S.records.of_same rfl rfl rfl rfl⟩

/-! ### Closes (R85 to R92) -/

/-- A settlement leaves no more credit than the cap (R98). -/
theorem creditOut_le (s : State) : (settlementNow s).creditOut ≤ s.set.cap := by
  unfold settlementNow settle
  split
  · exact min_le_right _ _
  · exact min_le_right _ _

theorem snapshot_ok {s : State} (S : s.BillingSound) (o : CloseOrder) (below : s.reg.period < periodMax) :
    (snapshotNow o s).ok = true := by
  have R := (RegBank.ok_iff _).mp S.reg
  have credit := (creditOut_le s).trans_lt S.cap
  simp [Snapshot.ok, snapshotNow, R.imported.total_lt, R.exported.total_lt, credit, below]

/-- The Register Bank of the new period (R92). -/
theorem openPeriod_ok {s : State} (S : s.BillingSound) (below : s.reg.period < periodMax) :
    (openPeriod s).reg.ok = true := by
  have R := (RegBank.ok_iff _).mp S.reg
  exact (RegBank.ok_iff _).mpr
    { ri := R.ri, re := R.re, imported := .opens R.imported.total_lt, exported := .opens R.exported.total_lt
      forfeit := addWh_lt _ _, credit := (creditOut_le s).trans_lt S.cap
      period := ⟨Nat.succ_pos _, below⟩ }

theorem periodOpened {s : State} (S : s.BillingSound) (o : CloseOrder) (k : Nat) (below : s.reg.period < periodMax) :
    (periodOpened o k s).BillingSound := by
  unfold Machine.periodOpened
  set u := Machine.updHst _ s with hu
  have queued : u.BillingSound := by
    refine S.updHst (judgeLogPreErase_records ⟨S.records.stored, fun e mem => ?_, S.records.programming, S.records.retry⟩)
    rcases List.mem_append.mp mem with old | new
    · exact S.records.pending e old
    · obtain rfl := List.mem_singleton.mp new
      exact S.snapshot_ok o below
  exact ⟨queued.openPeriod_ok below, queued.cap, queued.records⟩

theorem performClose {s : State} (S : s.BillingSound) (o : CloseOrder) (k : Nat) (below : s.reg.period < periodMax) :
    (performClose o k s).BillingSound := by
  have opened := S.periodOpened o k below
  have activated : (if o.activates then Machine.activate (Machine.periodOpened o k s)
      else Machine.periodOpened o k s).BillingSound := by
    split_ifs
    · exact opened.activate
    · exact opened
  rw [performClose_eq, closeEnded_eq]
  exact activated.of_same rfl rfl rfl

theorem trigger {s : State} (S : s.BillingSound) (r : Reason) (date : Option Nat) : (trigger r date s).BillingSound := by
  cases owed : s.set.owed with
  | some o =>
    rw [trigger_merges r date owed]
    exact S.of_same rfl rfl rfl
  | none =>
    by_cases can : ∃ k, closable k s
    · obtain ⟨k, can⟩ := can
      rw [trigger_performs r date owed can]
      exact S.performClose _ k can.2.2.1
    · rw [trigger_defers r date owed (not_exists.mp can)]
      exact S.of_same rfl rfl rfl

theorem retryOwed {s : State} (S : s.BillingSound) : (retryOwed s).BillingSound := by
  by_cases can : ∃ o k, s.set.owed = some o ∧ closable k s
  · obtain ⟨o, k, owed, can⟩ := can
    rw [retryOwed_performs owed can]
    exact S.performClose _ k can.2.2.1
  · have waits : s.set.owed = none ∨ ∀ k, ¬closable k s := by
      cases owed : s.set.owed with
      | none => exact .inl rfl
      | some o => exact .inr fun k closes => can ⟨o, k, owed, closes⟩
    rwa [retryOwed_waits waits]

theorem retryIf {s : State} (S : s.BillingSound) (b : Bool) :
    (if b then Machine.retryOwed s else s).BillingSound := by
  split_ifs
  · exact S.retryOwed
  · exact S

theorem localMidnight {s : State} (S : s.BillingSound) : (localMidnight s).BillingSound := by
  unfold Machine.localMidnight
  dsimp only
  split_ifs
  · exact (S.trigger _ _).retryOwed
  · exact S.retryOwed

theorem stepTrigger {s : State} (S : s.BillingSound) (due : Option Nat) : (stepTrigger due s).BillingSound := by
  unfold Machine.stepTrigger
  split
  · split_ifs
    · exact S
    · exact S.trigger _ _
  · exact S

theorem checkActivation {s : State} (S : s.BillingSound) : (checkActivation s).BillingSound := by
  unfold Machine.checkActivation
  split_ifs
  · refine trigger ?_ _ _
    exact S.of_same rfl rfl rfl
  · exact S

/-! ### The wall-time events (R47 to R50, R72, R81, R82) -/

theorem calendarEvent {s : State} (S : s.BillingSound) : (calendarEvent s).BillingSound :=
  eitherIf_keeps _ S (fun T => T.draws _) (fun _ T => T.evalBand) fun _ T => T.checkActivation

theorem localMinute {s : State} (S : s.BillingSound) : (localMinute s).BillingSound := by
  unfold Machine.localMinute
  split_ifs
  · refine anyOrder_keeps S (fun n T => T.draws n) fun f mem t T => ?_
    simp only [List.mem_cons, List.not_mem_nil, or_false] at mem
    rcases mem with rfl | rfl | rfl
    · exact T.evalBand
    · exact T.checkActivation
    · exact T.localMidnight
  · exact S.evalBand.localMidnight
  · exact S.calendarEvent

theorem takeStep {s : State} (S : s.BillingSound) (resume : Bool) (earlier : Option Nat) :
    (takeStep resume earlier s).BillingSound := by
  unfold Machine.takeStep
  split_ifs
  · refine anyOrder_keeps S (fun n T => T.draws n) fun f mem t T => ?_
    simp only [List.mem_cons, List.not_mem_nil, or_false] at mem
    rcases mem with rfl | rfl | rfl | rfl
    · exact T.evalBand
    · exact T.checkActivation
    · exact T.stepTrigger _
    · exact T.retryIf _
  · exact eitherIf_keeps _ S.evalBand (fun T => T.draws _) (fun _ T => T.stepTrigger _) fun _ T => T.retryIf _

theorem capExpiry {s : State} (S : s.BillingSound) : (capExpiry s).BillingSound :=
  S.of_same (by simp) (by simp) (by simp)

theorem stepEvent {s : State} (S : s.BillingSound) (resume : Bool) (earlier : Option Nat) :
    (stepEvent resume earlier s).BillingSound := S.capExpiry.takeStep resume earlier

theorem markCountEnd {s : State} (S : s.BillingSound) (before : Tim) : (markCountEnd before s).BillingSound := by
  unfold Machine.markCountEnd
  split_ifs
  · exact (S.setFlags _).raise _
  · exact S

theorem secondTick {s : State} (S : s.BillingSound) : (secondTick s).BillingSound := by
  unfold Machine.secondTick
  dsimp only
  set u := Machine.markCountEnd _ _ with hu
  have counted : u.BillingSound := by
    refine markCountEnd ?_ _
    exact S.of_same rfl rfl rfl
  split_ifs
  · unfold secondInRun secondEvents
    dsimp only
    split_ifs
    · exact counted.stepEvent _ _
    · exact counted.capExpiry.localMinute
    · exact counted.capExpiry
    · exact counted
  · exact counted

end State.BillingSound

end Sys2Proof.Machine
end

section
/-! PROOFS. The billing record, continued: frames, the store engine, the resets, the supply, recovery, the requests, and
the step. -/
namespace Sys2Proof.Machine
open Sys2Proof.Claim

namespace State.BillingSound

/-! ### Frames and frame health (R8, R14, R19 to R24) -/

theorem capHealth {s : State} (S : s.BillingSound) (h : Health) : (capHealth h s).BillingSound :=
  S.of_same (by simp) (by simp) (by simp)

theorem changeHealth {s : State} (S : s.BillingSound) (h : Health) (relock : Nat) :
    (changeHealth h relock s).BillingSound := by
  unfold Machine.changeHealth
  dsimp only
  set u : State := { s with frx := _ } with hu
  have moved : u.BillingSound := S.of_same rfl rfl rfl
  refine capHealth (raise ?_ _) h
  split_ifs
  · exact moved.setFlags _
  · exact moved

theorem arrivalHealth {s : State} (S : s.BillingSound) : (arrivalHealth s).BillingSound := by
  unfold Machine.arrivalHealth
  dsimp only
  split_ifs
  · exact S.of_same rfl rfl rfl
  · exact S.changeHealth _ _

theorem bookFrame {s : State} (S : s.BillingSound) (f : PhaseFrame) : (bookFrame f s).BillingSound :=
  ⟨(RegBank.ok_iff _).mpr (((RegBank.ok_iff _).mp S.reg).book _ _ _), S.cap, S.records⟩

theorem acceptFrame {s : State} (S : s.BillingSound) (f : PhaseFrame) (j : SeqJudge) :
    (acceptFrame f j s).BillingSound := by
  have marked : (acceptMarks f j s).BillingSound := S.of_same rfl (by simp) (by simp)
  exact (marked.bookFrame f).of_same (by simp [Machine.acceptFrame]) (by simp) (by simp)

theorem updCounters {s : State} (S : s.BillingSound) (f : Counters → Counters) : (updCounters f s).BillingSound :=
  S.of_same rfl rfl rfl

theorem takeArrival {s : State} (S : s.BillingSound) (f : PhaseFrame) : (takeArrival f s).BillingSound := by
  unfold Machine.takeArrival
  split_ifs
  · split
    · exact S.updCounters _
    · exact S.acceptFrame _ _
  · exact S.updCounters _

theorem runEnded {s : State} (S : s.BillingSound) (l : List RxChar) : (runEnded l s).BillingSound := by
  unfold Machine.runEnded
  split
  · exact eitherIf_keeps (P := State.BillingSound) _ (S.of_same rfl rfl rfl) (fun T => T.draws _)
      (fun _ T => T.arrivalHealth) fun _ T => T.takeArrival _
  · exact S.updCounters _

theorem collectRun {s : State} (S : s.BillingSound) (r : LinkRun) : (collectRun r s).BillingSound := by
  unfold Machine.collectRun
  dsimp only
  split_ifs
  · refine runEnded ?_ _
    exact S.of_same rfl rfl rfl
  · exact S.of_same rfl rfl rfl

theorem passTo {s : State} (S : s.BillingSound) (t : Nat) : (passTo t s).BillingSound := S.of_same rfl rfl rfl

theorem silence500 {s : State} (S : s.BillingSound) : (silence500 s).BillingSound := by
  unfold Machine.silence500
  split
  · exact (S.passTo _).changeHealth _ _
  · exact (S.passTo _).changeHealth _ _
  · exact S

theorem silence2000 {s : State} (S : s.BillingSound) : (silence2000 s).BillingSound := by
  unfold Machine.silence2000
  split
  · exact (S.passTo _).changeHealth _ _
  · exact (S.passTo _).changeHealth _ _
  · exact S

/-! ### The store engine (R152, R154, R163) -/

/-- The engine begins an operation that is no checkpoint program. -/
theorem starts {s : State} (S : s.BillingSound) {e : Engine} (ok : e.ok = true) (suspended : Option Nat) :
    (Machine.updHst (fun h => { h with suspended := suspended, engine := e }) s).BillingSound :=
  S.updHst ⟨S.records.stored, S.records.pending, ok, S.records.retry⟩

theorem grantCheckpoint {s : State} (S : s.BillingSound) (p : Nat) : (grantCheckpoint p s).BillingSound := by
  obtain ⟨stored, pending, programming, retry⟩ := S.records
  unfold Machine.grantCheckpoint
  split
  next c waits =>
    refine S.updHst ⟨stored, pending, retry c waits, fun d hd => ?_⟩
    cases hd
  next =>
    split
    · exact S.updHst ⟨stored, pending, S.capture _, retry⟩
    · exact S

theorem grantWrite {s : State} (S : s.BillingSound) (w : CalWrite) (rest : List CalWrite) :
    (grantWrite w rest s).BillingSound := by
  have begun := beginErase_records S.records w.sector
  unfold Machine.grantWrite
  refine S.updHst ?_
  dsimp only
  generalize s.hst.beginErase w.sector = h at begun ⊢
  exact begun.of_same rfl rfl rfl rfl

theorem arbitrateRun {s : State} (S : s.BillingSound) : (arbitrateRun s).BillingSound := by
  unfold Machine.arbitrateRun
  split
  · exact S.starts rfl none
  · split
    · split_ifs
      · exact S.updHst (nextErase_records S.records)
      · exact S.starts rfl s.hst.suspended
    · exact S.grantWrite _ _
    · exact S.updHst (nextErase_records S.records)

theorem arbitrate {s : State} (S : s.BillingSound) : (arbitrate s).BillingSound := by
  unfold Machine.arbitrate
  split
  · exact S
  · split
    · exact S.starts rfl s.hst.suspended
    · split
      · exact S.starts rfl s.hst.suspended
      · split
        · exact S.grantCheckpoint _
        · split
          · exact S.arbitrateRun
          · exact S

/-! ### Resets and the end of a command (R156, R170, R171) -/

theorem factory_ok : RegBank.factory.ok = true := by decide

theorem factory_cap : SetUnit.factory.cap < whModulus := by decide

/-- What a reset leaves of a program in progress may be brought back (log 6). -/
theorem tornStore {s : State} (S : s.BillingSound) : Store.Sound (tornStore s) := by
  obtain ⟨stored, pending, programming, -⟩ := S.records
  unfold Machine.tornStore
  dsimp only
  split
  · split
    next e rest queue => exact stored.tear _ _ (pending e (by simp [queue]))
    next => exact stored
  next c p r engine =>
    have ok : c.ok = true := by simpa [engine, Engine.ok] using programming
    have half (n : Fin 2) : (SlotContent.half n c).ok = true := ok
    split_ifs
    · exact (stored.tear _ _ (half 0)).tear _ _ (half 1)
    · exact stored.tear _ _ (half 0)
  · split
    · exact stored.tear _ _ rfl
    · exact stored
  · exact stored

theorem resetWith {s : State} (S : s.BillingSound) (utc subMs : Nat) (valid : Bool) :
    (resetWith utc subMs valid s).BillingSound :=
  ⟨factory_ok, factory_cap, reset_records S.tornStore⟩

theorem resetEngine {s : State} (S : s.BillingSound) : (resetEngine s).BillingSound := S.resetWith _ _ _

theorem powerOn {s : State} (S : s.BillingSound) : (powerOn s).BillingSound := by
  unfold Machine.powerOn
  split_ifs
  · exact S.resetEngine
  · exact S.resetWith _ _ _

theorem supplyLost {s : State} (S : s.BillingSound) : (supplyLost s).BillingSound := S.resetEngine.of_same rfl rfl rfl

theorem withdrawLost {s : State} (S : s.BillingSound) : (withdrawLost s).BillingSound := by
  unfold Machine.withdrawLost
  split_ifs
  · refine S.of_records rfl rfl ⟨S.records.stored, S.records.pending, S.records.programming, fun c waits => ?_⟩
    cases waits
  · exact S

theorem finish {s : State} (S : s.BillingSound) : (finish s).BillingSound := by
  unfold Machine.finish
  refine withdrawLost (arbitrate ?_)
  split_ifs
  · exact S.resetEngine
  · exact S

theorem command {s : State} (S : s.BillingSound) {f : State → State} (h : (f s).BillingSound) :
    (command f s).BillingSound := by
  unfold Machine.command
  split_ifs
  · exact h.finish
  · exact S

/-! ### The ends of programs, erases and reads (R146, R151, R153, R158 to R160) -/

theorem failLog {s : State} (S : s.BillingSound) : (failLog s).BillingSound :=
  S.of_records rfl rfl (S.records.of_same rfl rfl rfl rfl)

theorem snapshotDone {s : State} (S : s.BillingSound) {e : PendingSnap} {rest : List PendingSnap}
    (oldest : s.hst.queue = e :: rest) : (snapshotDone e rest s).BillingSound := by
  obtain ⟨stored, pending, -, retry⟩ := S.records
  refine requestCheckpoint (retryOwed (S.updHst ⟨?_, fun x mem => ?_, rfl, retry⟩)) _
  · exact stored.put _ (pending e (by simp [oldest]))
  · exact pending x (by simp [oldest, mem])

theorem snapshotFailed {s : State} (S : s.BillingSound) (e : PendingSnap) : (snapshotFailed e s).BillingSound := by
  obtain ⟨stored, pending, -, retry⟩ := S.records
  unfold Machine.snapshotFailed
  dsimp only
  set u := Machine.updHst _ s with hu
  have failed : u.BillingSound :=
    S.updHst (judgeLogPreErase_records (rebind_records ⟨stored.put _ rfl, pending, rfl, retry⟩))
  split_ifs
  · exact failed.failLog
  · exact failed

theorem snapshotProgrammed {s : State} (S : s.BillingSound) (valid : Bool) :
    (snapshotProgrammed valid s).BillingSound := by
  unfold Machine.snapshotProgrammed
  split
  next oldest =>
    split_ifs
    · exact S.snapshotDone oldest
    · exact S.snapshotFailed _
  next => exact S

theorem checkpointProgrammed {s : State} (S : s.BillingSound) (valid0 valid1 : Bool) :
    (checkpointProgrammed valid0 valid1 s).BillingSound := by
  unfold Machine.checkpointProgrammed
  split
  next c p r engine =>
    have ok : c.ok = true := by simpa [engine, Engine.ok] using S.records.programming
    have programmed := programHalves_records S.records ok p valid0 valid1
    have done : (Machine.updHst (Hst.programHalves c p valid0 valid1) s).BillingSound := S.updHst programmed
    dsimp only
    split_ifs
    · exact judgeRing (done.updHst (programmed.of_same rfl rfl rfl rfl))
    · exact done.failCheckpoints.judgeRing
    · refine judgeRing (done.updHst ⟨programmed.stored, programmed.pending, programmed.programming, fun d hd => ?_⟩)
      obtain rfl := Option.some.inj hd
      exact ok
  next => exact S

theorem failCalendar {s : State} (S : s.BillingSound) : (failCalendar s).BillingSound :=
  S.of_records rfl rfl (S.records.of_same rfl rfl rfl rfl)

theorem writeComplete {s : State} (S : s.BillingSound) (j : CalJob) : (writeComplete j s).BillingSound := by
  have ended : (writeEnded s).BillingSound := S.updHst (S.records.of_same rfl rfl rfl rfl)
  unfold Machine.writeComplete
  dsimp only
  split_ifs
  · exact ended
  all_goals refine requestCheckpoint ?_ _
  · exact ended.of_same rfl rfl rfl
  · exact ended
  · exact ended.of_same rfl rfl rfl

theorem partWritten {s : State} (S : s.BillingSound) (j : CalJob) (valid : Bool) {c : SlotContent} (ok : c.ok = true) :
    (partWritten j valid c s).BillingSound :=
  S.updHst ⟨S.records.stored.put _ ok, S.records.pending, rfl, S.records.retry⟩

theorem partProgrammed {s : State} (S : s.BillingSound) (valid : Bool) : (partProgrammed valid s).BillingSound := by
  by_cases engine : s.hst.engine = .part
  · cases job : s.hst.calJob with
    | none => rwa [partProgrammed_absent (.inr job)]
    | some j =>
      have part := S.partWritten (c := .part j.next j.parts j.content) j valid rfl
      have junk := S.partWritten (c := .junk) j valid rfl
      rw [partProgrammed_eq engine job]
      split_ifs
      · exact part.writeComplete j
      · exact part
      · exact junk.failCalendar
      · exact junk
  · rwa [partProgrammed_absent (.inl engine)]

theorem areaLoses {s : State} (S : s.BillingSound) (x : Nat) : (areaLoses x s).BillingSound := by
  unfold Machine.areaLoses
  split_ifs
  · exact S.failCheckpoints
  · exact S.judgeRing
  · exact S.failLog
  · exact S
  · exact S.failCalendar

theorem sectorErased {s : State} (S : s.BillingSound) (x : Nat) : (sectorErased x s).BillingSound := by
  unfold Machine.sectorErased
  dsimp only
  set u := Machine.updHst _ s with hu
  have goesOn : u.BillingSound := S.updHst (S.records.of_same rfl rfl rfl rfl)
  refine judgeLogPreErase ?_
  split_ifs
  · exact goesOn.retryOwed
  · exact goesOn

theorem retireSector {s : State} (S : s.BillingSound) (x : Nat) : (retireSector x s).BillingSound :=
  judgeLogPreErase (areaLoses (raise (S.updHst (S.records.of_same rfl rfl rfl rfl)) _) x)

theorem eraseDone {s : State} (S : s.BillingSound) (notBlank : BitVec 16) : (eraseDone notBlank s).BillingSound := by
  unfold Machine.eraseDone
  split
  next x _ =>
    have erased : (erasedHst x notBlank s).BillingSound :=
      S.updHst ⟨S.records.stored.erased x notBlank, S.records.pending, rfl, S.records.retry⟩
    dsimp only
    split_ifs
    · exact erased.sectorErased x
    · exact erased.retireSector x
  next => exact S

theorem answerRead {s : State} (S : s.BillingSound) (p : Port) (n k : Nat) : (answerRead p n k s).BillingSound := by
  unfold Machine.answerRead
  split
  · exact S.of_same (by simp) (by simp) (by simp)
  · refine of_same (S.updHst (f := fun h => { h with index := h.index.filter fun x => x.1 != n }) ?_)
      (by simp) (by simp) (by simp)
    exact S.records.of_same rfl rfl rfl rfl

theorem readEnded {s : State} (S : s.BillingSound) (decayed : Bool) (k : Nat) : (readEnded decayed k s).BillingSound := by
  refine S.updHst ⟨?_, S.records.pending, rfl, S.records.retry⟩
  cases decayed with
  | true => exact S.records.stored.put k rfl
  | false => exact S.records.stored

theorem readDone {s : State} (S : s.BillingSound) (decayed : Bool) : (readDone decayed s).BillingSound := by
  by_cases engine : ∃ who k, s.hst.engine = .read who k
  · obtain ⟨who, k, engine⟩ := engine
    have ended := S.readEnded decayed k
    cases who with
    | recovery =>
      rw [readDone_recovery engine]
      exact ended.of_same rfl rfl rfl
    | port p n =>
      rw [readDone_port engine]
      exact answerRead (ended.updHst (ended.records.of_same rfl rfl rfl rfl)) p n k
  · rwa [readDone_absent (by simpa using engine)]

theorem intervalEnds {s : State} (S : s.BillingSound) : (intervalEnds s).BillingSound := by
  unfold Machine.intervalEnds
  split_ifs
  · exact S
  · exact requestCheckpoint ((S.passTo _).updHst (S.records.of_same rfl rfl rfl rfl)) _

/-! ### Changes of the supply state (R165 to R169) -/

theorem setSupply {s : State} (S : s.BillingSound) (u : Supply) : (setSupply u s).BillingSound := S.of_same rfl rfl rfl

theorem enterDown {s : State} (S : s.BillingSound) : (enterDown s).BillingSound := S.of_same rfl rfl rfl

theorem enterWarning {s : State} (S : s.BillingSound) : (enterWarning s).BillingSound := by
  refine requestCheckpoint (setSupply ?_ _) _
  exact S.of_records rfl rfl (suspendErase_records S.records)

theorem enterRun {s : State} (S : s.BillingSound) : (enterRun s).BillingSound := by
  refine eitherIf_keeps (P := State.BillingSound) _ ?_ (fun T => T.draws _) (fun t T => ?_) fun _ T => T.stepEvent _ _
  · exact S.of_same rfl rfl rfl
  · exact T.of_same (by simp) (by simp) (by simp)

theorem rideThrough {s : State} (S : s.BillingSound) : (rideThrough s).BillingSound := by
  refine enterRun (requestCheckpoint ?_ _)
  exact S.of_same rfl rfl rfl

theorem endSequence {s : State} (S : s.BillingSound) : (endSequence s).BillingSound := by
  unfold Machine.endSequence
  split_ifs
  · exact S.resetEngine
  · exact S.enterDown
  · exact S.rideThrough

theorem mainsWarns {s : State} (S : s.BillingSound) : (mainsWarns s).BillingSound := by
  have level : ({ s with sup := { s.sup with mainsWarn := true } } : State).BillingSound := S.of_same rfl rfl rfl
  cases supply : s.sup.supply with
  | run =>
    rw [mainsWarns_run supply]
    exact level.enterWarning
  | down =>
    rw [mainsWarns_down supply]
    exact S.of_same rfl rfl rfl
  | starting | warning =>
    rw [mainsWarns_level (by simp [supply])]
    exact level

theorem mainsClears {s : State} (S : s.BillingSound) : (mainsClears s).BillingSound := by
  unfold Machine.mainsClears
  dsimp only
  split_ifs
  · exact S.of_same rfl rfl rfl
  · exact S.of_same rfl rfl rfl

theorem mainsLevel {s : State} (S : s.BillingSound) (level : Bool) {f : State → State} (h : (f s).BillingSound) :
    (mainsLevel level f s).BillingSound := by
  unfold Machine.mainsLevel
  split_ifs
  · exact S
  · exact h.finish
  · exact S.of_same rfl rfl rfl

theorem supplySettles {s : State} (S : s.BillingSound) : (supplySettles s).BillingSound := by
  unfold Machine.supplySettles
  split
  · exact (S.passTo _).rideThrough
  · exact S

/-! ### Recovery (R28, R172 to R179) -/

theorem endReads {s : State} (S : s.BillingSound) (g : Stage) (l : List Nat) : (endReads g l s).BillingSound :=
  S.of_records rfl rfl (by rw [endReads_hst]; exact readsEnded_records S.records)

/-- The checkpoint loaded is one that the ring holds. -/
theorem scanRing {s : State} (S : s.BillingSound) : (scanRing s).BillingSound := by
  have records := (S.endReads .log ((List.range 96).map (64 + ·))).records
  unfold Machine.scanRing
  dsimp only
  split
  next p c newest =>
    have held := ((mem_ringCheckpoints _ _ _).mp ((selectNewest_mem _).2 _ newest)).2
    have ok := S.records.stored.checkpointAt_ok held
    simp only [Checkpoint.ok, Bool.and_eq_true, decide_eq_true_eq] at ok
    exact ⟨ok.1, ok.2, records.of_same rfl rfl rfl rfl⟩
  next =>
    set u := factory _ with hu
    have made : u.BillingSound := ⟨factory_ok, S.cap, records.of_same rfl rfl rfl rfl⟩
    split_ifs
    · exact made.raise _
    · exact made

theorem enterErases {s : State} (S : s.BillingSound) : (enterErases s).BillingSound :=
  judgeLogPreErase (judgeRing (S.updHst (S.records.of_same rfl rfl rfl rfl)))

/-- The forfeits of the snapshots reconciled with, added modulo 10^9 (R32, R177). -/
theorem forfeits_lt (snaps : List Snapshot) {f : Nat} (h : f < whModulus) :
    snaps.foldl (fun f x => addWh f x.forfeit) f < whModulus := by
  induction snaps generalizing f with
  | nil => exact h
  | cons x rest ih => exact ih (addWh_lt _ _)

/-- A snapshot that the store holds opens the next period in range (R177). -/
theorem reconcile_ok {r : RegBank} (R : r.Sound) (snaps : List Snapshot) {last : Snapshot} (ok : last.ok = true) :
    (r.reconcile snaps last).ok = true := by
  simp only [Snapshot.ok, Bool.and_eq_true, decide_eq_true_eq] at ok
  obtain ⟨⟨⟨ti, te⟩, credit⟩, number⟩ := ok
  exact (RegBank.ok_iff _).mpr
    { ri := R.ri, re := R.re, imported := .opens ti, exported := .opens te, forfeit := forfeits_lt snaps R.forfeit
      credit := credit, period := ⟨Nat.succ_pos _, number⟩ }

theorem reconcile {s : State} (S : s.BillingSound) : (reconcile s).BillingSound := by
  unfold Machine.reconcile
  dsimp only
  split
  next last newest =>
    have ok := S.records.stored.newerSnapshots_ok (List.mem_of_getLast? newest)
    refine requestCheckpoint ?_ _
    refine ⟨?_, S.cap, S.records⟩
    exact reconcile_ok ((RegBank.ok_iff _).mp S.reg) _ ok
  next => exact S

theorem markRecovered {s : State} (S : s.BillingSound) (n : Nat) (applied : Bool) :
    (markRecovered n applied s).BillingSound :=
  ⟨S.reg, S.cap, S.records.of_same rfl rfl rfl rfl⟩

theorem scanLog {s : State} (S : s.BillingSound) : (scanLog s).BillingSound := by
  have read := S.endReads .images ((List.range 32).map (160 + ·))
  exact markRecovered (reconcile (enterErases (read.updHst (scanLog_records read.records)))) _ _

theorem foldActive {s : State} (S : s.BillingSound) : (foldActive s).BillingSound :=
  ⟨(RegBank.ok_iff _).mpr (((RegBank.ok_iff _).mp S.reg).fold _ _), S.cap, S.records⟩

theorem leaveStarting {s : State} (S : s.BillingSound) : (leaveStarting s).BillingSound := by
  unfold Machine.leaveStarting
  split_ifs
  · exact (S.setSupply _).requestCheckpoint _
  · exact S.enterDown
  · exact S.enterRun

theorem loadCalendars {s : State} (S : s.BillingSound) : (loadCalendars s).BillingSound := by
  have loaded : (loadPassive (loadActive (Machine.endReads .done [] s))).BillingSound :=
    (S.endReads .done []).of_same (by simp) (by simp) (by simp)
  exact leaveStarting (loaded.foldActive.of_same (by simp) (by simp) (by simp))

theorem atStage {s : State} (S : s.BillingSound) {g : Stage} {f : State → State} (h : (f s).BillingSound) :
    (atStage g f s).BillingSound := by
  unfold Machine.atStage
  split_ifs
  · exact h
  · exact S

/-! ### The requests on the store and the calendars (R63 to R73, R149, R150, R157) -/

theorem ownReadSnapshot {s : State} (S : s.BillingSound) (p : Port) (key : SnapshotKey) :
    (ownReadSnapshot p key s).1.BillingSound := by
  unfold Machine.ownReadSnapshot
  split_ifs
  · exact S
  · split
    · exact S
    · exact S
    · exact S.of_records rfl rfl (S.records.of_same rfl rfl rfl rfl)

theorem ownArchive {s : State} (S : s.BillingSound) (on : Bool) (l : SectorList) :
    (ownArchive on l s).1.BillingSound := by
  unfold Machine.ownArchive
  split
  · exact S
  · refine S.of_records rfl rfl (judgeLogPreErase_records ?_)
    exact S.records.of_same rfl rfl rfl rfl

theorem edit {s : State} (S : s.BillingSound) (fault : Option CalFault) (f : Calendar → Calendar) :
    (edit fault f s).1.BillingSound := by
  unfold Machine.edit
  split
  · exact S
  · split
    · exact S
    · exact S.passiveEdit _

theorem scheduleImage {s : State} (S : s.BillingSound) : (scheduleImage s).BillingSound := by
  unfold Machine.scheduleImage
  split_ifs
  · exact S.setting
  · exact S.requestImage

theorem ownPassiveActivateAt {s : State} (S : s.BillingSound) (t : RawDateTime) :
    (ownPassiveActivateAt t s).1.BillingSound := by
  unfold Machine.ownPassiveActivateAt
  split_ifs
  · split
    · exact S
    · split
      · exact S
      · dsimp only
        set u := cancelOwedActivation _ with hu
        have timed : u.BillingSound := S.of_same rfl rfl rfl
        refine checkActivation (scheduleImage ?_)
        split_ifs
        · exact timed.setting
        · exact timed
  · exact S

theorem ownPassiveActivateNow {s : State} (S : s.BillingSound) : (ownPassiveActivateNow s).1.BillingSound := by
  unfold Machine.ownPassiveActivateNow
  split
  · exact S
  · split
    · exact S
    · dsimp only
      have untimed : ({ s with cal := { s.cal with activation := none } } : State).BillingSound := S.of_same rfl rfl rfl
      set u := (if s.cal.persisted then _ else _ : State) with hu
      have imaged : u.BillingSound := by
        rw [hu]
        split_ifs
        · exact untimed
        · exact untimed.requestImage
      have triggered := imaged.trigger .calendar none
      split_ifs
      · exact triggered
      · exact triggered

/-! ### The requests on time, the lines and settlement (R44 to R49, R59 to R62, R79, R83) -/

theorem ownSetTime {s : State} (S : s.BillingSound) (t : Nat) : (ownSetTime t s).1.BillingSound := by
  by_cases h : timeInRange t = true
  · rw [ownSetTime_inRange s h]
    refine stepEvent ?_ _ _
    exact S.of_same rfl rfl rfl
  · rwa [ownSetTime_outOfRange s h]

theorem ownSetLocalOffset {s : State} (S : s.BillingSound) (o : Option Int) : (ownSetLocalOffset o s).1.BillingSound := by
  cases o with
  | none => exact S
  | some o =>
    have moved : (Machine.raise .time { s with tim := { s.tim with offset := o } }).BillingSound := S.of_same rfl rfl rfl
    by_cases h : offsetInRange o = true
    · by_cases stays : o = s.tim.offset
      · subst stays
        rw [ownSetLocalOffset_same s h]
        exact S.setting
      · rw [ownSetLocalOffset_moved h stays]
        exact (moved.stepEvent _ _).setting
    · rwa [ownSetLocalOffset_outOfRange s h]

theorem updLine {s : State} (S : s.BillingSound) (i : Fin 2) (f : OvLine → OvLine) : (updLine i f s).BillingSound :=
  S.of_same (by simp) (by simp) (by simp)

theorem ownSetOverrideMap {s : State} (S : s.BillingSound) (m : Option (Vector RawMapEntry 4)) :
    (ownSetOverrideMap m s).1.BillingSound := by
  unfold Machine.ownSetOverrideMap
  split
  · exact S
  · split
    · exact S
    · exact setting (S.of_same (by simp) (by simp) (by simp))

theorem ownSetOverrideSource {s : State} (S : s.BillingSound) (line : Nat) (source : Option Nat) :
    (ownSetOverrideSource line source s).1.BillingSound := by
  unfold Machine.ownSetOverrideSource
  split
  · exact S
  · exact (S.updLine _ _).setting

theorem ownSetOverride {s : State} (S : s.BillingSound) (line value : Nat) :
    (ownSetOverride line value s).1.BillingSound := by
  unfold Machine.ownSetOverride
  split_ifs
  · exact (S.updLine _ _).setting
  · exact S

/-- A credit cap that SET_SETTLEMENT stores lies in its range (R79). -/
theorem ownSetSettlement {s : State} (S : s.BillingSound) (mode cap day : Option Nat) :
    (ownSetSettlement mode cap day s).1.BillingSound := by
  unfold Machine.ownSetSettlement
  dsimp only
  split_ifs with tooHigh
  · exact S
  · exact S
  all_goals
    set u : State := { s with set := _ } with hu
    have stored : u.BillingSound := by
      refine ⟨S.reg, ?_, S.records⟩
      cases cap with
      | none => exact S.cap
      | some n => exact Nat.lt_of_le_of_lt (Nat.le_of_not_lt tooHigh) (by decide)
  · exact stored
  · exact stored.setting

theorem ownClosePeriod {s : State} (S : s.BillingSound) : (ownClosePeriod s).1.BillingSound := by
  have triggered := S.trigger .commanded none
  unfold Machine.ownClosePeriod
  dsimp only
  split
  · exact S
  · split
    · exact triggered
    · exact triggered

/-! ### The requests that only ask for a checkpoint -/

theorem ownSetNettingMethod {s : State} (S : s.BillingSound) (m : Option Nat) :
    (ownSetNettingMethod m s).1.BillingSound := by
  unfold Machine.ownSetNettingMethod
  split
  · exact S
  · refine setting ?_
    exact S.of_same rfl rfl rfl

theorem setCap {s : State} (S : s.BillingSound) (src : CapSource) (limit hyst : Nat) (expiry : Option Nat) :
    (setCap src limit hyst expiry s).1.BillingSound := by
  unfold Machine.setCap
  split_ifs
  · exact setting (S.of_same (by simp) (by simp) (by simp))
  · exact S

theorem clearCap {s : State} (S : s.BillingSound) (src : CapSource) : (clearCap src s).1.BillingSound := by
  unfold Machine.clearCap
  split_ifs
  · exact setting (S.of_same (by simp) (by simp) (by simp))
  · exact S

theorem ownSetCapControl {s : State} (S : s.BillingSound) (fsc enable trip hold : Option Nat) :
    (ownSetCapControl fsc enable trip hold s).1.BillingSound := by
  unfold Machine.ownSetCapControl
  dsimp only
  split_ifs
  · exact S
  · exact setting (S.of_same (by simp) (by simp) (by simp))
  · exact S

theorem ownSetUnitConfig {s : State} (S : s.BillingSound) (unit : Nat) (enable slot maskOff : Option Nat) :
    (ownSetUnitConfig unit enable slot maskOff s).1.BillingSound := by
  unfold Machine.ownSetUnitConfig
  split
  · split
    · exact S
    · split
      · exact S
      · split
        · exact S
        · dsimp only
          split
          · exact S
          · exact setting (S.of_same (by simp) (by simp) (by simp))
  · exact S

theorem ownSetUnitStandby {s : State} (S : s.BillingSound) (unit : Nat) (standby : Option Nat) :
    (ownSetUnitStandby unit standby s).1.BillingSound := by
  unfold Machine.ownSetUnitStandby
  split_ifs
  · split
    · exact S
    · split
      · exact setting (S.of_same (by simp) (by simp) (by simp))
      · exact S
  · exact S

theorem ownSetProfileWeights {s : State} (S : s.BillingSound) (w : Vector (Option Nat) 4) :
    (ownSetProfileWeights w s).1.BillingSound := by
  unfold Machine.ownSetProfileWeights
  dsimp only
  split_ifs
  · exact S
  · exact setting (S.of_same (by simp) (by simp) (by simp))

theorem updPort {s : State} (S : s.BillingSound) (p : Port) (f : PortState → PortState) : (s.updPort p f).BillingSound :=
  S.of_same (by simp) (by simp) (by simp)

theorem ownSetNoticeMask {s : State} (S : s.BillingSound) (p : Port) (m : Option (BitVec 16)) :
    (ownSetNoticeMask p m s).1.BillingSound := by
  unfold Machine.ownSetNoticeMask
  split
  · exact S
  · split_ifs
    · exact (S.updPort _ _).setting
    · exact S

theorem ownLock {s : State} (S : s.BillingSound) (b : Bool) : (ownLock b s).1.BillingSound := by
  refine setting ?_
  exact S.of_same rfl rfl rfl

theorem ownRestart {s : State} (S : s.BillingSound) : (ownRestart s).1.BillingSound := by
  unfold Machine.ownRestart
  split_ifs
  · exact S
  · refine requestCheckpoint ?_ _
    exact S.of_same rfl rfl rfl

/-- Every owner keeps the billing record sound. -/
theorem serve {s : State} (S : s.BillingSound) (p : Port) (q : Request) : (serve p q s).1.BillingSound := by
  cases q with
  | setNettingMethod m => exact S.ownSetNettingMethod m
  | setTime t => exact S.ownSetTime t
  | setLocalOffset o => exact S.ownSetLocalOffset o
  | setOverrideSource line source => exact S.ownSetOverrideSource line source
  | setOverride line value => exact S.ownSetOverride line value
  | setOverrideMap m => exact S.ownSetOverrideMap m
  | passiveClear name => exact S.passiveEdit _
  | passiveBands nb fb l => exact S.edit _ _
  | passiveSeason i x => exact S.edit _ _
  | passiveWeek i w => exact S.edit _ _
  | passiveDay i d => exact S.edit _ _
  | passiveSpecial i x => exact S.edit _ _
  | passiveActivateAt t => exact S.ownPassiveActivateAt t
  | passiveActivateNow => exact S.ownPassiveActivateNow
  | setSettlement m k d => exact S.ownSetSettlement m k d
  | closePeriod => exact S.ownClosePeriod
  | setUtilityCap l h e => exact S.setCap .utility l h e
  | clearUtilityCap => exact S.clearCap .utility
  | setPremisesCap l h e => exact S.setCap .premises l h e
  | clearPremisesCap => exact S.clearCap .premises
  | setCapControl f e t h => exact S.ownSetCapControl f e t h
  | setUnitConfig u e slot m => exact S.ownSetUnitConfig u e slot m
  | setUnitStandby u r => exact S.ownSetUnitStandby u r
  | setProfileWeights w => exact S.ownSetProfileWeights w
  | readSnapshot key => exact S.ownReadSnapshot p key
  | lockArchive l => exact S.ownArchive true l
  | unlockArchive l => exact S.ownArchive false l
  | restart => exact S.ownRestart
  | setNoticeMask m => exact S.ownSetNoticeMask p m
  | lockPremises => exact S.ownLock true
  | unlockPremises => exact S.ownLock false
  | clearFrameLoss | readTime | readCaps | readUnits | getStatus => exact S.of_same rfl rfl rfl
  | readCalendar | readRegisters | readNotices | freezeView | releaseView =>
    exact S.of_same (by simp [Machine.serve]) (by simp [Machine.serve]) (by simp [Machine.serve])

theorem keptByOwners : KeptByOwners State.BillingSound where
  port p f S := S.updPort p f
  serve p q _ S := S.serve p q

/-! ### Every command -/

/-- A command that carries no request keeps the billing record sound. -/
theorem exec_event {s : State} (S : s.BillingSound) {i : Instr} (event : i.request = none) :
    ∃ t, exec i s = .next t ∧ t.BillingSound := by
  have same {f : State → State} (reg : (f s).reg = s.reg) (set : (f s).set = s.set) (hst : (f s).hst = s.hst) :
      (Machine.command f s).BillingSound := S.command (S.of_same (by rw [reg]) (by rw [set]) hst)
  cases i with
  | phaseFrame run => exact ⟨_, rfl, S.command (S.collectRun run)⟩
  | silence500 => exact ⟨_, rfl, S.command S.silence500⟩
  | silence2000 => exact ⟨_, rfl, S.command S.silence2000⟩
  | secondTick =>
    refine ⟨_, rfl, ?_⟩
    split_ifs
    · exact S.secondTick.finish
    · exact S.of_same (by simp) (by simp) (by simp)
  | backupDomainLoss => exact ⟨_, rfl, S.of_same (by simp) (by simp) (by simp)⟩
  | overrideLineLevelChange line level => exact ⟨_, rfl, S.of_same (by simp) (by simp) (by simp)⟩
  | overrideDebounceExpiry line => exact ⟨_, rfl, same (by simp) (by simp) (by simp)⟩
  | mainsWarnAssert => exact ⟨_, rfl, S.mainsLevel true S.mainsWarns⟩
  | mainsWarnDeassert => exact ⟨_, rfl, S.mainsLevel false S.mainsClears⟩
  | supplyDebounceExpiry => exact ⟨_, rfl, S.command S.supplySettles⟩
  | writeSequenceEnd =>
    refine ⟨_, rfl, S.command ?_⟩
    split_ifs
    · exact S.endSequence
    · exact S
  | powerOnReset => exact ⟨_, rfl, S.powerOn⟩
  | resetLine => exact ⟨_, rfl, S.command S.resetEngine⟩
  | mainSupplyLoss =>
    refine ⟨_, rfl, ?_⟩
    split_ifs
    · exact S.supplyLost
    · exact S
  | recoveryCheckpointScan => exact ⟨_, rfl, S.command (S.atStage S.scanRing)⟩
  | recoveryLogScan => exact ⟨_, rfl, S.command (S.atStage S.scanLog)⟩
  | recoveryCalendarLoad => exact ⟨_, rfl, S.command (S.atStage S.loadCalendars)⟩
  | periodicCheckpointTimer => exact ⟨_, rfl, S.command S.intervalEnds⟩
  | snapshotProgramComplete valid => exact ⟨_, rfl, S.command (S.snapshotProgrammed valid)⟩
  | checkpointProgramComplete valid0 valid1 => exact ⟨_, rfl, S.command (S.checkpointProgrammed valid0 valid1)⟩
  | calendarPartProgramComplete valid => exact ⟨_, rfl, S.command (S.partProgrammed valid)⟩
  | sectorEraseComplete notBlank => exact ⟨_, rfl, S.command (S.eraseDone notBlank)⟩
  | eraseSuspend =>
    refine ⟨_, rfl, S.command ?_⟩
    split_ifs
    · exact S.updHst (suspendErase_records S.records)
    · exact S
  | slotReadComplete decayed => exact ⟨_, rfl, S.command (S.readDone decayed)⟩
  | requestFrame port chars => exact ⟨_, rfl, S.command (keptByOwners.receiveAll port chars S)⟩
  | frameLengthOverflow port length => exact ⟨_, rfl, S.command (keptByOwners.receiveAll port _ S)⟩
  | frameStall port => exact ⟨_, rfl, same (by simp) (by simp) (by simp)⟩
  | ignoreIdleExpiry port => exact ⟨_, rfl, same (by simp) (by simp) (by simp)⟩
  | responseTransmitComplete port => exact ⟨_, rfl, same (by simp) (by simp) (by simp)⟩
  | viewExpiry port => exact ⟨_, rfl, same (by simp) (by simp) (by simp)⟩
  | pollCycleStart => exact ⟨_, rfl, same (by simp) (by simp) (by simp)⟩
  | allowanceSent => exact ⟨_, rfl, same (by simp) (by simp) (by simp)⟩
  | unitReport chars => exact ⟨_, rfl, same (by simp) (by simp) (by simp)⟩
  | replyWindowExpiry => exact ⟨_, rfl, same (by simp) (by simp) (by simp)⟩
  | _ => cases event

/-- Every command keeps the billing record sound. -/
theorem exec {s t : State} (S : s.BillingSound) {i : Instr} (h : exec i s = .next t) : t.BillingSound := by
  cases request : i.request with
  | none =>
    obtain ⟨u, executed, sound⟩ := S.exec_event request
    obtain rfl : u = t := Host.Outcome.next.inj (executed.symm.trans h)
    exact sound
  | some r =>
    obtain rfl : Machine.command (takeRequest r.1 r.2) s = t :=
      Host.Outcome.next.inj ((exec_request request s).symm.trans h)
    exact S.command (keptByOwners.takeRequest r.1 r.2 S)

end State.BillingSound

/-- Settles O55: a booking and a band fold keep the balance of each band set, a close and a reconciliation open it anew,
and every other effect of a step only moves records that are sound. -/
theorem billingRecordKept : Obligations.BillingRecordKept := by
  intro s t sound h
  rw [inv_iff] at sound ⊢
  unfold step at h
  split at h
  next => exact Host.Outcome.next.inj h ▸ sound.of_same (by simp) (by simp) (by simp)
  next c rest _ => exact (sound.of_same (t := { s with pending := rest }) rfl rfl rfl).exec h

end Sys2Proof.Machine
end

section
/-! PROOFS. The ends of recovery's reads (R172 to R178): the checkpoint loaded, and the log scanned with its reconciliation,
each by what it makes of the state. -/
namespace Sys2Proof.Machine
open Sys2Proof.Claim

/-! ### A stage of recovery (R172; log 3, log 27) -/

theorem command_atStage_due {s : State} {g : Stage} (f : State → State) (powered : s.sup.powered = true)
    (due : s.sup.supply = .starting ∧ s.sup.stage = g) : command (atStage g f) s = finish (f s) := by
  rw [command_powered _ powered, atStage, if_pos due]

theorem command_atStage_absent {s : State} {g : Stage} (f : State → State) (powered : s.sup.powered = true)
    (absent : ¬(s.sup.supply = .starting ∧ s.sup.stage = g)) : command (atStage g f) s = finish s := by
  rw [command_powered _ powered, atStage, if_neg absent]

theorem readsEnded_eq (h : Hst) : h.readsEnded = Claim.readEnded h := by
  obtain ⟨⟩ := h
  unfold Hst.readsEnded Claim.readEnded
  dsimp only
  split <;> rfl

/-! ### The checkpoint scan (R173, R174) -/

/-- The checkpoint reads have ended, and the ring has been looked at (R173). -/
def ringRead (s : State) : State :=
  let r := endReads .log ((List.range 96).map (64 + ·)) s
  { r with sup := { r.sup with ringHeld := ringUsed s.hst.store } }

theorem scanRing_loads {s : State} {p : Nat} {c : Checkpoint}
    (newest : selectNewest (ringCheckpoints s.hst.store) = some (p, c)) :
    scanRing s = loadCheckpoint c { ringRead s with
      hst := { s.hst.readsEnded with ckptSector := p / 8, ckptLast := some (p % 8), newestSeq := some c.seq }
      sup := { (ringRead s).sup with selected := some { period := c.reg.period, causes := c.causes } } } := by
  simp only [scanRing, newest]
  rfl

/-- No checkpoint is found: the ring goes on in its first blank sector, with factory values (R173, R174). -/
def ringStarted (s : State) : State :=
  factory { ringRead s with
    hst := { s.hst.readsEnded with ckptSector := firstBlankRing s.hst.store, ckptLast := none }
    sup := { (ringRead s).sup with selected := none } }

theorem scanRing_factory {s : State} (absent : selectNewest (ringCheckpoints s.hst.store) = none) :
    scanRing s = if ringUsed s.hst.store then raise .storeFault (ringStarted s) else ringStarted s := by
  simp only [scanRing, absent]
  rfl

theorem readsEnded_store (h : Hst) : h.readsEnded.store = h.store := by rw [readsEnded_eq, Claim.readEnded]

theorem readsEnded_newestSeq (h : Hst) : h.readsEnded.newestSeq = h.newestSeq := by rw [readsEnded_eq, Claim.readEnded]

/-- What the scan does whether or not it finds a checkpoint. -/
theorem scanRing_always (s : State) : (scanRing s).sup.supply = s.sup.supply ∧ (scanRing s).sup.stage = .log ∧
    (scanRing s).sup.unread = (List.range 96).map (64 + ·) ∧ (scanRing s).hst.store = s.hst.store ∧
    (scanRing s).sup.ringHeld = ringUsed s.hst.store := by
  cases newest : selectNewest (ringCheckpoints s.hst.store) with
  | some x =>
    rw [scanRing_loads newest]
    exact ⟨rfl, rfl, rfl, readsEnded_store _, rfl⟩
  | none =>
    rw [scanRing_factory newest]
    split_ifs
    · exact ⟨rfl, rfl, rfl, readsEnded_store _, rfl⟩
    · exact ⟨rfl, rfl, rfl, readsEnded_store _, rfl⟩

theorem ringUsed_iff (m : Store) : ringUsed m = true ↔ ∃ k, k < 64 ∧ Store.at m k ≠ none := by
  have blank : ringUsed m = false ↔ ∀ x < 4, Store.sectorBlank m x = true := by simp [ringUsed]
  rw [← not_iff_not, Bool.not_eq_true, blank]
  simp only [sectorBlank_iff, Store.blank_iff]
  constructor
  · rintro all ⟨k, low, held⟩
    exact held (all (k / 16) (by omega) k rfl)
  · intro none_held x low k sector
    by_contra held
    exact none_held ⟨k, by omega, held⟩

theorem firstBlankRing_first {m : Store} {x : Nat} (ring : x < 4) (blank : Store.sectorBlank m x = true)
    (first : ∀ y, y < x → Store.sectorBlank m y = false) : firstBlankRing m = x := by
  have found : (List.range 4).find? (fun y => Store.sectorBlank m y) = some x := by
    rw [List.find?_range_eq_some]
    exact ⟨blank, by simpa using ring, fun y less => by simp [first y less]⟩
  rw [firstBlankRing, found]
  rfl

theorem firstBlankRing_none {m : Store} (used : ∀ x, x < 4 → Store.sectorBlank m x = false) : firstBlankRing m = 0 := by
  have absent : (List.range 4).find? (fun y => Store.sectorBlank m y) = none := by
    simpa [List.find?_eq_none] using used
  rw [firstBlankRing, absent]
  rfl

theorem checkpointScan : CheckpointScan := by
  intro s powered
  dsimp only
  refine ⟨fun absent => ?_, fun due => ⟨scanRing s, ?_, ?_⟩⟩
  · exact congrArg Host.Outcome.next (command_atStage_absent _ powered absent)
  · exact congrArg Host.Outcome.next (command_atStage_due _ powered due)
  obtain ⟨supply, stage, unread, store, held⟩ := scanRing_always s
  refine ⟨supply.trans due.1, stage, unread, store, held ▸ ringUsed_iff _, fun p c newest => ?_, fun absent => ?_⟩
  · rw [scanRing_loads newest]
    refine ⟨rfl, rfl, rfl, rfl, rfl, rfl, rfl, rfl, rfl, rfl, rfl, rfl, rfl, rfl, fun i => ?_, fun i => ?_, rfl, rfl,
      rfl, rfl, rfl, rfl, rfl, rfl⟩
    · simp [loadCheckpoint]
    · simp [loadCheckpoint]
  · rw [← ringUsed_iff, scanRing_factory absent]
    split_ifs with used
    · refine ⟨rfl, rfl, rfl, rfl, rfl, rfl, rfl, rfl, rfl, rfl, readsEnded_newestSeq _, ?_, firstBlankRing_none,
        fun unused => absurd used unused, fun _ => ⟨rfl, rfl⟩⟩
      exact fun x ring blank first => firstBlankRing_first ring blank first
    · refine ⟨rfl, rfl, rfl, rfl, rfl, rfl, rfl, rfl, rfl, rfl, readsEnded_newestSeq _, ?_, firstBlankRing_none,
        fun _ => ⟨rfl, rfl⟩, fun held => absurd held used⟩
      exact fun x ring blank first => firstBlankRing_first ring blank first

/-! ### The erases that recovery enters (R176) -/

theorem scanLog_readsEnded (h : Hst) : h.readsEnded.scanLog = { Claim.readEnded h with
    writePtr := h.scanLog.writePtr, curLog := h.scanLog.curLog, index := h.scanLog.index } := by
  rw [readsEnded_eq]
  unfold Hst.scanLog Claim.readEnded
  dsimp only
  split <;> rfl

theorem needsErase_iff (designation : Option Nat) (h : Hst) (x : Nat) :
    x < 12 ∧ h.needsErase designation x = true ↔ erasedAtRecovery designation h x := by
  have ring : (∀ i < 8, checkpointAt h.store (8 * x + i) = none) ↔ ∀ p, p / 8 = x → checkpointAt h.store p = none := by
    refine ⟨fun all p sector => ?_, fun all i low => all _ (by omega)⟩
    have position : 8 * x + p % 8 = p := by omega
    exact position ▸ all (p % 8) (by omega)
  simp only [Hst.needsErase, erasedAtRecovery, Bool.and_eq_true, Bool.not_eq_true', ← ring]
  rw [and_left_comm]
  refine and_congr_right fun _ => ?_
  split_ifs with inRing inLog
  · simp [inRing, show x < 12 by omega, show ¬4 ≤ x by omega, show ¬10 ≤ x by omega]
  · simp [inRing, inLog, show x < 12 by omega, show 4 ≤ x by omega, show ¬10 ≤ x by omega]
  · simp [inRing, inLog, show 4 ≤ x by omega, show 10 ≤ x by omega]

/-- Sectors behind the ERASE list. -/
def Hst.listing (post : List Nat) (h : Hst) : Hst := { h with eraseList := h.eraseList ++ post }

theorem enterErase_listing (x : Nat) (h : Hst) : ∃ post, h.enterErase x = h.listing post ∧ ∀ y ∈ post, y = x := by
  rcases enterErase_cases x h with stays | ⟨-, enters⟩
  · exact ⟨[], by simp [stays, Hst.listing], nofun⟩
  · exact ⟨[x], enters, by simp⟩

theorem judgeLogPreErase_listing (h : Hst) :
    ∃ post, h.judgeLogPreErase = h.listing post ∧ ∀ y ∈ post, y = h.nextLog h.curLog := by
  by_cases due : h.preEraseDue
  · rw [judgeLogPreErase_due due]
    exact enterErase_listing _ h
  · exact ⟨[], by simp [judgeLogPreErase_rests due, Hst.listing], nofun⟩

/-- The ring can go on nowhere: its area becomes FAILED where it is judged (R151). -/
def Hst.RingEnds (h : Hst) : Prop :=
  h.ckptFailed = false ∧ h.nextRing h.ckptSector = h.ckptSector ∧
    ∀ p, p / 8 = h.ckptSector → Store.at h.store (2 * p) ≠ none ∨ Store.at h.store (2 * p + 1) ≠ none

theorem ringUsed_eq_eight_iff (h : Hst) : h.ringUsed = 8 ↔
    ∀ p, p / 8 = h.ckptSector → Store.at h.store (2 * p) ≠ none ∨ Store.at h.store (2 * p + 1) ≠ none := by
  have used (p : Nat) : h.positionUsed p = true ↔
      Store.at h.store (2 * p) ≠ none ∨ Store.at h.store (2 * p + 1) ≠ none := by
    rw [← not_iff_not, Bool.not_eq_true, positionUsed_eq_false_iff]
    tauto
  have whole := List.length_filter_eq_length_iff (l := List.range 8) (p := fun p => h.positionUsed (8 * h.ckptSector + p))
  rw [List.length_range] at whole
  rw [Hst.ringUsed, whole]
  simp only [List.mem_range, used]
  refine ⟨fun all p sector => ?_, fun all i low => all _ (by omega)⟩
  have position : 8 * h.ckptSector + p % 8 = p := by omega
  exact position ▸ all (p % 8) (by omega)

theorem judgeRing_ends {s : State} (ends : s.hst.RingEnds) : judgeRing s = failCheckpoints s := by
  obtain ⟨running, alone, full⟩ := ends
  rw [judgeRing_alone alone, if_pos ⟨(ringUsed_eq_eight_iff _).mpr full, running⟩]

theorem judgeRing_listing {s : State} (goesOn : ¬s.hst.RingEnds) :
    ∃ post, judgeRing s = updHst (Hst.listing post) s ∧ ∀ y ∈ post, y = s.hst.nextRing s.hst.ckptSector := by
  have stays : s = updHst (Hst.listing []) s := by simp [updHst, Hst.listing]
  by_cases alone : s.hst.nextRing s.hst.ckptSector = s.hst.ckptSector
  · rw [judgeRing_alone alone, if_neg fun ⟨full, running⟩ => goesOn ⟨running, alone, (ringUsed_eq_eight_iff _).mp full⟩]
    exact ⟨[], stays, nofun⟩
  · rw [judgeRing_goesOn alone]
    split_ifs
    · obtain ⟨post, enters, entered⟩ := enterErase_listing (s.hst.nextRing s.hst.ckptSector) s.hst
      exact ⟨post, by rw [updHst, updHst, enters], entered⟩
    · exact ⟨[], stays, nofun⟩

/-- The store as the log scan leaves it. -/
theorem logScanned_eq (designation : Option Nat) (h : Hst) : h.logScanned designation = { Claim.readEnded h with
    writePtr := h.scanLog.writePtr, curLog := h.scanLog.curLog, index := h.scanLog.index
    eraseList := (List.range 12).filter (h.scanLog.needsErase designation) } := by
  have same : h.readsEnded.scanLog.needsErase designation = h.scanLog.needsErase designation := by
    rw [scanLog_readsEnded, scanLog_eq_frame]
    rfl
  rw [Hst.logScanned, same, scanLog_readsEnded]

/-- The pre-erases of recovery concern the sectors that come next (R176). -/
def preErased (h : Hst) (post : List Nat) : Prop := ∀ x ∈ post, x = h.nextLog h.curLog ∨ x = h.nextRing h.ckptSector

theorem erasesEntered_ends {s : State} (ends : s.hst.RingEnds) : ∃ post, preErased s.hst.scanLog post ∧
    erasesEntered s = updHst (Hst.listing post) (failCheckpoints (logRead s)) := by
  have ends' : (logRead s).hst.RingEnds := by
    rw [logRead_hst, logScanned_eq]
    exact ends
  obtain ⟨post, enters, entered⟩ := judgeLogPreErase_listing (failCheckpoints (logRead s)).hst
  refine ⟨post, fun x mem => .inl ?_, ?_⟩
  · rw [entered x mem, scanLog_eq_frame]
    change (logRead s).hst.nextLog (logRead s).hst.curLog = _
    rw [logRead_hst, logScanned_eq]
    rfl
  · rw [erasesEntered, judgeRing_ends ends', updHst, updHst, enters]

theorem erasesEntered_goesOn {s : State} (goesOn : ¬s.hst.RingEnds) : ∃ post, preErased s.hst.scanLog post ∧
    erasesEntered s = updHst (Hst.listing post) (logRead s) := by
  have goesOn' : ¬(logRead s).hst.RingEnds := by
    rw [logRead_hst, logScanned_eq]
    exact goesOn
  obtain ⟨ring, judged, enteredRing⟩ := judgeRing_listing goesOn'
  obtain ⟨log, enters, enteredLog⟩ := judgeLogPreErase_listing ((logRead s).hst.listing ring)
  refine ⟨ring ++ log, fun x mem => ?_, ?_⟩
  · rw [scanLog_eq_frame]
    rcases List.mem_append.mp mem with mem | mem
    · rw [enteredRing x mem, logRead_hst, logScanned_eq]
      exact .inr rfl
    · rw [enteredLog x mem, logRead_hst, logScanned_eq]
      exact .inl rfl
  · rw [erasesEntered, judged]
    simp only [updHst, enters]
    simp only [Hst.listing, List.append_assoc]

end Sys2Proof.Machine
end

section
/-! PROOFS. The log scan of recovery (R175 to R178), continued: what the erases leave of the state, the reconciliation, and
what the two make of the state together. -/
namespace Sys2Proof.Machine
open Sys2Proof.Claim

/-! ### What the erases leave (R151, R176) -/

theorem erasesEntered_frame (s : State) :
    (erasesEntered s).reg = s.reg ∧ (erasesEntered s).frx = s.frx ∧ (erasesEntered s).set = s.set ∧
    (erasesEntered s).tim = s.tim ∧
    (erasesEntered s).sup = { s.sup with stage := .images, unread := (List.range 32).map (160 + ·) } := by
  simp [erasesEntered, logRead, endReads]

/-- The recovery erases in ascending order, the pre-erases behind them. -/
theorem erasesEntered_hst (s : State) : ∃ post, preErased s.hst.scanLog post ∧
    (erasesEntered s).hst = { Claim.readEnded s.hst with
      writePtr := s.hst.scanLog.writePtr, curLog := s.hst.scanLog.curLog, index := s.hst.scanLog.index
      eraseList := (List.range 12).filter (s.hst.scanLog.needsErase s.cal.designation) ++ post
      ckptFailed := (erasesEntered s).hst.ckptFailed, ckptReq := (erasesEntered s).hst.ckptReq
      ckptRetry := (erasesEntered s).hst.ckptRetry } := by
  by_cases ends : s.hst.RingEnds
  · obtain ⟨post, next, entered⟩ := erasesEntered_ends ends
    refine ⟨post, next, ?_⟩
    have failed : (failCheckpoints (logRead s)).hst =
        { (logRead s).hst with ckptFailed := true, ckptReq := none, ckptRetry := none } := rfl
    rw [entered, updHst_hst, failed, logRead_hst, logScanned_eq]
    rfl
  · obtain ⟨post, next, entered⟩ := erasesEntered_goesOn ends
    refine ⟨post, next, ?_⟩
    rw [entered, updHst_hst, logRead_hst, logScanned_eq]
    rfl

theorem erasesEntered_fails {s : State} (ends : s.hst.RingEnds) :
    (erasesEntered s).hst.ckptFailed = true ∧ (erasesEntered s).hst.ckptReq = none ∧
    (erasesEntered s).hst.ckptRetry = none ∧ (erasesEntered s).upt = s.upt.raise .storeFault ∧
    (erasesEntered s).ppt = s.ppt.raise .storeFault := by
  obtain ⟨post, -, entered⟩ := erasesEntered_ends ends
  rw [entered]
  exact ⟨rfl, rfl, rfl, rfl, rfl⟩

theorem erasesEntered_runs {s : State} (goesOn : ¬s.hst.RingEnds) :
    (erasesEntered s).hst.ckptFailed = s.hst.ckptFailed ∧ (erasesEntered s).hst.ckptReq = s.hst.ckptReq ∧
    (erasesEntered s).hst.ckptRetry = s.hst.ckptRetry ∧ (erasesEntered s).upt = s.upt ∧
    (erasesEntered s).ppt = s.ppt := by
  obtain ⟨post, -, entered⟩ := erasesEntered_goesOn goesOn
  have hst : (erasesEntered s).hst = (s.hst.logScanned s.cal.designation).listing post := by rw [entered]; rfl
  rw [hst, logScanned_eq]
  refine ⟨rfl, rfl, rfl, ?_, ?_⟩
  · rw [entered]
    rfl
  · rw [entered]
    rfl

/-- The snapshots that are newer than the checkpoint are those of the index of the scan (R177). -/
theorem erasesEntered_snaps (s : State) (n : Nat) :
    (erasesEntered s).hst.newerSnapshots n = s.hst.scanLog.newerSnapshots n := by
  obtain ⟨post, -, hst⟩ := erasesEntered_hst s
  have store : (erasesEntered s).hst.store = s.hst.scanLog.store := by rw [hst, Hst.scanLog_store]; rfl
  have index : (erasesEntered s).hst.index = s.hst.scanLog.index := by rw [hst]
  rw [Hst.newerSnapshots, Hst.newerSnapshots, store, index]

/-! ### The reconciliation (R177) -/

theorem reconcile_none {s : State} (empty : s.hst.newerSnapshots s.reg.period = []) : reconcile s = s := by
  simp only [reconcile, empty]
  rfl

/-- The state as the close of the newest snapshot left it. -/
def reconciled (last : Snapshot) (s : State) : State := { s with
  reg := s.reg.reconcile (s.hst.newerSnapshots s.reg.period) last
  frx := { s.frx with counters := .zero }
  set := { s.set with owed := none }
  tim := { s.tim with lastClose :=
    match last.billingDate with
    | some d => laterDate s.tim.lastClose (some d)
    | none => s.tim.lastClose } }

theorem reconcile_newest {s : State} {last : Snapshot}
    (newest : (s.hst.newerSnapshots s.reg.period).getLast? = some last) :
    reconcile s = requestCheckpoint .restart (reconciled last s) := by
  simp only [reconcile, newest]
  rfl

theorem requestCheckpoint_hst (c : Cause) (s : State) : (requestCheckpoint c s).hst = { s.hst with
    ckptReq := if s.hst.ckptFailed = true then s.hst.ckptReq else some (s.hst.ckptReq.getD 0 ||| c.bit) } := by
  unfold requestCheckpoint
  split_ifs <;> rfl

/-- A reconciliation asks for a RESTART checkpoint and leaves the rest of the store alone. -/
theorem reconcile_hst (s : State) : (reconcile s).hst = { s.hst with
    ckptReq := if s.hst.newerSnapshots s.reg.period = [] ∨ s.hst.ckptFailed = true then s.hst.ckptReq
      else some (s.hst.ckptReq.getD 0 ||| Cause.restart.bit) } := by
  cases newest : (s.hst.newerSnapshots s.reg.period).getLast? with
  | none =>
    have empty := List.getLast?_eq_none_iff.mp newest
    rw [reconcile_none empty, if_pos (.inl empty)]
  | some last =>
    have some_newer : s.hst.newerSnapshots s.reg.period ≠ [] := by
      rintro empty
      simp [empty] at newest
    rw [reconcile_newest newest, requestCheckpoint_hst]
    simp only [some_newer, false_or]
    rfl

theorem laterDate_eq (a d : Option Nat) :
    (match d with
      | some x => laterDate a (some x)
      | none => a) =
    match a, d with
    | some a, some b => some (max a b)
    | none, some b => some b
    | a, none => a := by
  cases a <;> cases d <;> rfl

/-! ### The marks of recovery (R34, R178) -/

theorem restartLossDue_iff (applied : Bool) (s : State) : restartLossDue applied s = true ↔
    applied = true ∨ (∃ x, s.sup.selected = some x ∧ Cause.powerFail.isIn x.causes = false) ∨
      s.sup.selected = none ∧ s.sup.ringHeld = true := by
  unfold restartLossDue
  cases s.sup.selected <;> simp

/-- The loss is judged on what the checkpoint scan found. -/
theorem restartLossDue_congr (applied : Bool) {s t : State} (selected : t.sup.selected = s.sup.selected)
    (ringHeld : t.sup.ringHeld = s.sup.ringHeld) : restartLossDue applied t = restartLossDue applied s := by
  rw [restartLossDue, selected, ringHeld, restartLossDue]

theorem markRecovered_hst (n : Nat) (applied : Bool) (s : State) : (markRecovered n applied s).hst = { s.hst with
    gap := if s.hst.newestNumber < n - 1 then some (n - 1 - s.hst.newestNumber) else none } := rfl

theorem markRecovered_reg (n : Nat) (applied : Bool) (s : State) : (markRecovered n applied s).reg = { s.reg with
    flags := { s.reg.flags with
      restartLoss := s.reg.flags.restartLoss || restartLossDue applied s
      timeInvalidSeen := s.reg.flags.timeInvalidSeen || !s.tim.valid } } := rfl

/-! ### The scan as a whole (R175 to R178) -/

/-- The snapshots of the log numbered from the open period on. -/
def State.newer (s : State) : List Snapshot := s.hst.scanLog.newerSnapshots s.reg.period

theorem erasesEntered_newer (s : State) :
    (erasesEntered s).hst.newerSnapshots (erasesEntered s).reg.period = s.newer := by
  rw [(erasesEntered_frame s).1, erasesEntered_snaps, State.newer]

theorem scanLog_marks (s : State) :
    scanLog s = markRecovered s.reg.period (!s.newer.isEmpty) (reconcile (erasesEntered s)) := by
  rw [scanLog_eq, erasesEntered_newer, (erasesEntered_frame s).1]

theorem scanLog_ports (s : State) :
    (scanLog s).upt = (erasesEntered s).upt ∧ (scanLog s).ppt = (erasesEntered s).ppt := by
  simp [scanLog_marks]

theorem scanLog_sup (s : State) :
    (scanLog s).sup = { s.sup with stage := .images, unread := (List.range 32).map (160 + ·) } := by
  obtain ⟨-, -, -, -, sup⟩ := erasesEntered_frame s
  simp [scanLog_marks, sup]

/-- What the log scan leaves of the store, with the requests and the failure of the erases before it. -/
theorem scanLog_hst (s : State) : ∃ post, preErased s.hst.scanLog post ∧
    (scanLog s).hst = { Claim.readEnded s.hst with
      writePtr := s.hst.scanLog.writePtr, curLog := s.hst.scanLog.curLog, index := s.hst.scanLog.index
      eraseList := (List.range 12).filter (s.hst.scanLog.needsErase s.cal.designation) ++ post
      ckptFailed := (erasesEntered s).hst.ckptFailed
      ckptReq := if s.newer = [] ∨ (erasesEntered s).hst.ckptFailed = true then (erasesEntered s).hst.ckptReq
        else some ((erasesEntered s).hst.ckptReq.getD 0 ||| Cause.restart.bit)
      ckptRetry := (erasesEntered s).hst.ckptRetry
      gap := if s.hst.scanLog.newestNumber < s.reg.period - 1 then
        some (s.reg.period - 1 - s.hst.scanLog.newestNumber) else none } := by
  obtain ⟨post, next, hst⟩ := erasesEntered_hst s
  have newest : (reconcile (erasesEntered s)).hst.newestNumber = s.hst.scanLog.newestNumber := by
    rw [reconcile_hst, hst]
    rfl
  refine ⟨post, next, ?_⟩
  rw [scanLog_marks, markRecovered_hst, newest, reconcile_hst, erasesEntered_newer]
  generalize (erasesEntered s).hst = h at hst ⊢
  rw [hst]

/-- With no newer snapshot only the flags of the open period move. -/
theorem scanLog_quiet {s : State} (empty : s.newer = []) :
    (scanLog s).reg = { s.reg with flags := { s.reg.flags with
      restartLoss := s.reg.flags.restartLoss || restartLossDue false s
      timeInvalidSeen := s.reg.flags.timeInvalidSeen || !s.tim.valid } } ∧
    (scanLog s).set = s.set ∧ (scanLog s).tim = s.tim ∧ (scanLog s).frx = s.frx := by
  obtain ⟨reg, frx, set, tim, sup⟩ := erasesEntered_frame s
  have due : restartLossDue false (erasesEntered s) = restartLossDue false s :=
    restartLossDue_congr _ (by rw [sup]) (by rw [sup])
  have stands : reconcile (erasesEntered s) = erasesEntered s := reconcile_none ((erasesEntered_newer s).trans empty)
  rw [scanLog_marks, stands, empty, List.isEmpty_nil, Bool.not_true]
  generalize erasesEntered s = t at reg frx set tim due ⊢
  refine ⟨?_, set, tim, frx⟩
  rw [markRecovered_reg, reg, tim, due]

/-- The newest snapshot opens the period behind it, with RESTART_LOSS. -/
theorem scanLog_reconciled {s : State} {last : Snapshot} (newest : s.newer.getLast? = some last) :
    (scanLog s).reg = { s.reg.reconcile s.newer last with
      flags := { PeriodFlags.clear with restartLoss := true, timeInvalidSeen := !s.tim.valid } } ∧
    (scanLog s).frx = { s.frx with counters := .zero } ∧ (scanLog s).set = { s.set with owed := none } ∧
    (scanLog s).tim = { s.tim with lastClose := match s.tim.lastClose, last.billingDate with
      | some a, some b => some (max a b)
      | none, some b => some b
      | a, none => a } := by
  obtain ⟨reg, frx, set, tim, -⟩ := erasesEntered_frame s
  have applied : s.newer.isEmpty = false := by
    cases newer : s.newer with
    | nil => simp [newer] at newest
    | cons => rfl
  have newer := erasesEntered_newer s
  have due (t : State) : restartLossDue true t = true := (restartLossDue_iff true t).mpr (.inl rfl)
  have loads : reconcile (erasesEntered s) = requestCheckpoint .restart (reconciled last (erasesEntered s)) :=
    reconcile_newest ((congrArg _ newer).trans newest)
  rw [scanLog_marks, loads, applied, Bool.not_false, reconciled, newer, reg, frx, set, tim, laterDate_eq]
  generalize erasesEntered s = t
  simp only [markRecovered_reg, markRecovered_frame, requestCheckpoint_frame, due, Bool.or_true, RegBank.reconcile,
    PeriodFlags.clear, Bool.false_or, and_self]

/-- A state with the fields the log scan leaves alone, and a supply record that is known. -/
theorem logScan_update {s u : State} {sup : Sup} (kept : u.netting = s.netting ∧ u.cal = s.cal ∧ u.xcc = s.xcc ∧
    u.ulc = s.ulc ∧ u.premLock = s.premLock ∧ u.draws = s.draws ∧ u.pending = s.pending) (known : u.sup = sup) :
    u = { s with
      reg := u.reg, frx := u.frx, set := u.set, tim := u.tim, hst := u.hst, upt := u.upt, ppt := u.ppt
      sup := sup } := by
  obtain ⟨netting, cal, xcc, ulc, premLock, draws, pending⟩ := kept
  rw [← netting, ← cal, ← xcc, ← ulc, ← premLock, ← draws, ← pending, ← known]

theorem scanLog_restartLoss (s : State) : (scanLog s).reg.flags.restartLoss = true ↔
    (s.newer ≠ [] ∨ (∃ x, s.sup.selected = some x ∧ Cause.powerFail.isIn x.causes = false) ∨
      s.sup.selected = none ∧ s.sup.ringHeld = true) ∨ s.newer = [] ∧ s.reg.flags.restartLoss = true := by
  cases newest : s.newer.getLast? with
  | none =>
    have empty := List.getLast?_eq_none_iff.mp newest
    simp only [(scanLog_quiet empty).1, Bool.or_eq_true, restartLossDue_iff, empty, ne_eq, not_true, false_or,
      Bool.false_eq_true, true_and]
    exact or_comm
  | some last =>
    have some_newer : s.newer ≠ [] := by
      rintro empty
      simp [empty] at newest
    simp [(scanLog_reconciled newest).1, some_newer]

theorem logScan : LogScan := by
  intro s powered
  dsimp only
  refine ⟨fun absent => ?_, fun due => ⟨scanLog s, ?_, logScan_update (scanLog_frame s) (scanLog_sup s), ?_⟩⟩
  · exact congrArg Host.Outcome.next (command_atStage_absent _ powered absent)
  · exact congrArg Host.Outcome.next (command_atStage_due _ powered due)
  obtain ⟨post, next, hst⟩ := scanLog_hst s
  obtain ⟨upt, ppt⟩ := scanLog_ports s
  refine ⟨?_, fun ends => ?_, fun goesOn => ?_, ⟨_, post, congrArg Hst.eraseList hst, ?_, fun x => ?_, next⟩,
    scanLog_restartLoss s, fun empty => ?_, fun last newest => ?_⟩
  · rw [hst]
  · obtain ⟨failed, req, retry, upt', ppt'⟩ := erasesEntered_fails ends
    rw [hst]
    exact ⟨failed, by simp [failed, req], retry, upt.trans upt', ppt.trans ppt'⟩
  · obtain ⟨failed, req, retry, upt', ppt'⟩ := erasesEntered_runs goesOn
    rw [hst]
    exact ⟨failed, retry, upt.trans upt', ppt.trans ppt', by simp only [failed, req]; rfl⟩
  · exact List.pairwise_lt_range.filter _
  · rw [List.mem_filter, List.mem_range]
    exact needsErase_iff _ _ x
  · obtain ⟨reg, set, tim, frx⟩ := scanLog_quiet empty
    exact ⟨by rw [reg], set, tim, frx, by rw [reg]⟩
  · obtain ⟨reg, frx, set, tim⟩ := scanLog_reconciled newest
    rw [reg]
    exact ⟨rfl, rfl, rfl, rfl, rfl, rfl, rfl, rfl, rfl, rfl, rfl, rfl, rfl, frx, set, tim⟩

end Sys2Proof.Machine
end

section
/-! PROOFS. The calendar load of recovery and the exit from STARTING (R28, R78, R122, R141, R169, R179): the calendars read,
the notices told, the running states established, and the three ways out. -/
namespace Sys2Proof.Machine
open Sys2Proof.Claim

/-! ### What the ports are told (R189) -/

/-- The bit of a notice where it is raised. -/
def Notice.bitIf (n : Notice) (b : Bool) : BitVec 11 := if b then n.bit else 0

/-- A port is told the kinds of a set at once. -/
def PortState.tell (told : BitVec 11) (p : PortState) : PortState := { p with notices := p.notices ||| told }

theorem tell_nothing (n : Notice) (p : PortState) : p.tell (n.bitIf false) = p := by
  simp [PortState.tell, Notice.bitIf]

theorem tell_tell (a b : BitVec 11) (p : PortState) : (p.tell a).tell b = p.tell (a ||| b) := by
  simp [PortState.tell, BitVec.or_assoc]

theorem told_iff (a p b : Bool) (n : Notice) :
    (Notice.storeFault.bitIf a ||| Notice.storeFault.bitIf p ||| Notice.band.bitIf b) &&& n.bit ≠ 0 ↔
      n = .storeFault ∧ (a = true ∨ p = true) ∨ n = .band ∧ b = true := by
  cases n <;> revert a p b <;> decide

/-! ### The calendars (R78) -/

/-- An image is designated and not held. -/
def State.activeLost (s : State) : Bool :=
  match s.cal.designation with
  | some k => (imageIn s.hst.store k).isNone
  | none => false

theorem activeLost_iff (s : State) :
    s.activeLost = true ↔ ∃ k, s.cal.designation = some k ∧ imageIn s.hst.store k = none := by
  unfold State.activeLost
  cases s.cal.designation <;> simp

/-- The passive calendar's image was written and is not held. -/
def State.passiveLost (s : State) : Bool := s.cal.persisted && (imageIn s.hst.store s.cal.passiveAt).isNone

theorem passiveLost_iff (s : State) :
    s.passiveLost = true ↔ s.cal.persisted = true ∧ imageIn s.hst.store s.cal.passiveAt = none := by
  simp [State.passiveLost]

theorem loadActive_held {s : State} {k : Nat} {c : Calendar} (named : s.cal.designation = some k)
    (held : imageIn s.hst.store k = some c) :
    loadActive s = { s with cal := { s.cal with active := c, imageHeld := true } } := by
  simp only [loadActive, named, held]

theorem loadActive_unnamed {s : State} (unnamed : s.cal.designation = none) :
    loadActive s = { s with cal := { s.cal with active := .builtIn, imageHeld := false } } := by
  simp only [loadActive, unnamed]

theorem loadActive_lost {s : State} (lost : s.activeLost = true) : loadActive s = raise .storeFault
    { s with cal := { s.cal with active := .builtIn, designation := none, imageHeld := false } } := by
  obtain ⟨k, named, absent⟩ := (activeLost_iff s).mp lost
  simp only [loadActive, named, absent]

/-- An image that is designated and not lost is held. -/
theorem image_held {s : State} {k : Nat} (named : s.cal.designation = some k) (present : s.activeLost = false) :
    ∃ c, imageIn s.hst.store k = some c := by
  rw [State.activeLost, named] at present
  exact Option.isSome_iff_exists.mp (by simpa using present)

theorem loadActive_ports (s : State) : (loadActive s).upt = s.upt.tell (Notice.storeFault.bitIf s.activeLost) ∧
    (loadActive s).ppt = s.ppt.tell (Notice.storeFault.bitIf s.activeLost) := by
  cases lost : s.activeLost with
  | true =>
    rw [loadActive_lost lost]
    exact ⟨rfl, rfl⟩
  | false =>
    rw [tell_nothing, tell_nothing]
    cases named : s.cal.designation with
    | none =>
      rw [loadActive_unnamed named]
      exact ⟨rfl, rfl⟩
    | some k =>
      obtain ⟨c, held⟩ := image_held named lost
      rw [loadActive_held named held]
      exact ⟨rfl, rfl⟩

/-- With no image to load the built-in calendar is active. -/
theorem loadActive_builtIn {s : State} (none_held : s.cal.designation = none ∨ s.activeLost = true) :
    (loadActive s).cal.active = .builtIn ∧ (loadActive s).cal.designation = none ∧
    (loadActive s).cal.imageHeld = false := by
  rcases none_held with unnamed | lost
  · rw [loadActive_unnamed unnamed]
    exact ⟨rfl, unnamed, rfl⟩
  · rw [loadActive_lost lost]
    exact ⟨rfl, rfl, rfl⟩

theorem loadActive_cal (s : State) : (loadActive s).cal = { s.cal with
    active := (loadActive s).cal.active, designation := (loadActive s).cal.designation
    imageHeld := (loadActive s).cal.imageHeld } := by
  unfold loadActive
  split
  · rfl
  · split <;> rfl

theorem loadPassive_held {s : State} {c : Calendar} (written : s.cal.persisted = true)
    (held : imageIn s.hst.store s.cal.passiveAt = some c) :
    loadPassive s = { s with cal := { s.cal with passive := some c } } := by
  simp only [loadPassive, written, held, if_true]

theorem loadPassive_unwritten {s : State} (unwritten : s.cal.persisted = false) :
    loadPassive s = { s with cal := { s.cal with passive := none, activation := none } } := by
  simp [loadPassive, unwritten]

theorem loadPassive_lost {s : State} (lost : s.passiveLost = true) : loadPassive s = raise .storeFault
    { s with cal := { s.cal with passive := none, persisted := false, activation := none } } := by
  obtain ⟨written, absent⟩ := (passiveLost_iff s).mp lost
  simp only [loadPassive, written, absent, if_true]

theorem loadPassive_ports (s : State) : (loadPassive s).upt = s.upt.tell (Notice.storeFault.bitIf s.passiveLost) ∧
    (loadPassive s).ppt = s.ppt.tell (Notice.storeFault.bitIf s.passiveLost) := by
  cases lost : s.passiveLost with
  | true =>
    rw [loadPassive_lost lost]
    exact ⟨rfl, rfl⟩
  | false =>
    rw [tell_nothing, tell_nothing]
    cases written : s.cal.persisted with
    | false =>
      rw [loadPassive_unwritten written]
      exact ⟨rfl, rfl⟩
    | true =>
      rw [State.passiveLost, written, Bool.true_and] at lost
      obtain ⟨c, held⟩ := Option.isSome_iff_exists.mp (by simpa using lost)
      rw [loadPassive_held written held]
      exact ⟨rfl, rfl⟩

/-- With no image to load the passive calendar is absent. -/
theorem loadPassive_absent {s : State} (none_held : s.cal.persisted = false ∨ s.passiveLost = true) :
    (loadPassive s).cal.passive = none ∧ (loadPassive s).cal.persisted = false ∧
    (loadPassive s).cal.activation = none := by
  rcases none_held with unwritten | lost
  · rw [loadPassive_unwritten unwritten]
    exact ⟨rfl, unwritten, rfl⟩
  · rw [loadPassive_lost lost]
    exact ⟨rfl, rfl, rfl⟩

theorem loadPassive_cal (s : State) : (loadPassive s).cal = { s.cal with
    passive := (loadPassive s).cal.passive, persisted := (loadPassive s).cal.persisted
    activation := (loadPassive s).cal.activation } := by
  unfold loadPassive
  split_ifs
  · split <;> rfl
  · rfl

/-! ### The running states (R55, R122, R141) -/

theorem establishCap_uncapped {s : State} (absent : s.xcc.cfg.ceff = none) :
    (establishCap s).xcc = s.xcc.toUncapped := by
  simp [establishCap, absent]

theorem establishCap_failsafe {s : State} (capped : s.xcc.cfg.ceff ≠ none)
    (due : s.xcc.cfg.fsEnable = true ∧ s.frx.health = .lost) :
    (establishCap s).xcc = { s.xcc.toFailsafe with q := 0 } := by
  simp [establishCap, Option.isSome_iff_ne_none.mpr capped, due]

theorem establishCap_normal {s : State} (capped : s.xcc.cfg.ceff ≠ none)
    (quiet : ¬(s.xcc.cfg.fsEnable = true ∧ s.frx.health = .lost)) : (establishCap s).xcc = s.xcc.toNormal := by
  have off : (s.xcc.cfg.fsEnable && s.frx.health == .lost) = false := by simpa using quiet
  simp [establishCap, Option.isSome_iff_ne_none.mpr capped, off]

theorem establishCap_xcc (s : State) : (establishCap s).xcc = { s.xcc with
    state := (establishCap s).xcc.state, q := 0, holdEnd := none, load := none
    allowance := (establishCap s).xcc.allowance } := by
  unfold establishCap
  split_ifs <;> rfl

section Reshare
variable (l : Ulc)

theorem reshare_activeSet : l.reshare.activeSet = l.activeSet := by
  unfold Ulc.activeSet
  refine List.filter_congr fun i _ => ?_
  rw [reshare_units]
  rfl

theorem reshare_sharePool : l.reshare.sharePool = l.sharePool := by
  have offline : l.reshare.offlineOutput = l.offlineOutput := by
    simp only [Ulc.offlineOutput, reshare_units]
    rfl
  rw [Ulc.sharePool, offline]
  rfl

theorem reshare_weight (i : Fin 4) : l.reshare.weight i = l.weight i := by
  have slot : l.reshare.units[i].cfg.slot = l.units[i].cfg.slot := by rw [reshare_units]
  exact congrArg (fun k : Fin 4 => l.weights[k]) slot

theorem reshare_share (i : Fin 4) : l.reshare.share i = l.share i := by
  have raw : l.reshare.rawShare = l.rawShare := by
    funext j
    simp only [Ulc.rawShare, Ulc.totalWeight, reshare_activeSet, reshare_sharePool, funext (reshare_weight l)]
  simp only [Ulc.share, Ulc.remainder, reshare_activeSet, reshare_sharePool, raw]

theorem reshare_allowanceFor (i : Fin 4) : l.reshare.allowanceFor i = l.allowanceFor i := by
  unfold Ulc.allowanceFor
  dsimp only
  rw [reshare_units, reshare_share]
  rfl

/-- A sharing does not depend on the allowances in force, so made again it changes nothing (R136 to R138). -/
theorem reshare_reshare : l.reshare.reshare = l.reshare := by
  have units : l.reshare.reshare.units = l.reshare.units := by
    ext1 i h
    have again := reshare_units l.reshare ⟨i, h⟩
    rw [reshare_allowanceFor, reshare_units l] at again
    exact again.trans (reshare_units l ⟨i, h⟩).symm
  have fields : l.reshare.reshare = { l.reshare with
      units := l.reshare.reshare.units
      pool := if l.reshare.curtailed then some l.reshare.sharePool else none
      noActive := l.reshare.curtailed && l.reshare.activeSet.isEmpty } := rfl
  rw [fields, units, reshare_activeSet, reshare_sharePool]
  rfl

end Reshare

theorem establish_xcc (s : State) : (establish s).xcc = (establishCap s).xcc := by simp [establish]

/-- The Unit Link Controller as recovery establishes it, with what the Export Cap Controller hands on. -/
theorem establish_ulc (s : State) : (establish s).ulc =
    ({ s.ulc.establish with handState := (establish s).xcc.state, handA := (establish s).xcc.allowance } : Ulc).reshare := by
  rw [establish_xcc]
  simp only [establish, evalBand_frame, handOn, share_ulc, establishCap_frame]

/-- The band is evaluated once the rest stands. -/
theorem establish_cal (s : State) : (establish s).cal =
    { s.cal with band := (evaluate s.tim s.cal).1, source := (evaluate s.tim s.cal).2 } := by
  simp [establish, evalBand_cal]

theorem evalBand_ports (s : State) :
    (evalBand s).upt = s.upt.tell (Notice.band.bitIf (decide ((evaluate s.tim s.cal).1 ≠ s.cal.band))) ∧
    (evalBand s).ppt = s.ppt.tell (Notice.band.bitIf (decide ((evaluate s.tim s.cal).1 ≠ s.cal.band))) := by
  by_cases moved : (evaluate s.tim s.cal).1 ≠ s.cal.band
  · rw [evalBand, if_pos moved, decide_eq_true moved]
    exact ⟨rfl, rfl⟩
  · rw [evalBand, if_neg moved, decide_eq_false moved, tell_nothing, tell_nothing]
    exact ⟨rfl, rfl⟩

theorem establish_ports (s : State) :
    (establish s).upt = s.upt.tell (Notice.band.bitIf (decide ((evaluate s.tim s.cal).1 ≠ s.cal.band))) ∧
    (establish s).ppt = s.ppt.tell (Notice.band.bitIf (decide ((evaluate s.tim s.cal).1 ≠ s.cal.band))) := by
  simp [establish, evalBand_ports]

/-! ### The load as a whole (R179) -/

/-- The calendars of recovery, read once its reads have ended. -/
def calendarsLoaded (s : State) : State := loadPassive (loadActive (endReads .done [] s))

/-- The running states on them, still in STARTING. -/
def established (s : State) : State := establish (foldActive (calendarsLoaded s))

theorem endReads_store (g : Stage) (l : List Nat) (s : State) : (endReads g l s).hst.store = s.hst.store :=
  readsEnded_store s.hst

theorem loadActive_hst (s : State) : (loadActive s).hst = s.hst := by simp

theorem endReads_activeLost (g : Stage) (l : List Nat) (s : State) : (endReads g l s).activeLost = s.activeLost := by
  simp only [State.activeLost, endReads_store, endReads_frame]

/-- What the active calendar's image decides stands when the passive one is read. -/
theorem loadActive_passiveSide (s : State) : (loadActive s).cal.persisted = s.cal.persisted ∧
    (loadActive s).cal.passiveAt = s.cal.passiveAt ∧ (loadActive s).cal.activation = s.cal.activation := by
  rw [loadActive_cal]
  exact ⟨rfl, rfl, rfl⟩

theorem loadActive_passiveLost (s : State) : (loadActive s).passiveLost = s.passiveLost := by
  obtain ⟨persisted, passiveAt, -⟩ := loadActive_passiveSide s
  simp only [State.passiveLost, persisted, passiveAt, loadActive_frame]

theorem endReads_passiveLost (g : Stage) (l : List Nat) (s : State) : (endReads g l s).passiveLost = s.passiveLost := by
  simp only [State.passiveLost, endReads_store, endReads_frame]

theorem calendarsLoaded_cal (s : State) : (calendarsLoaded s).cal = { s.cal with
    active := (loadActive (endReads .done [] s)).cal.active
    designation := (loadActive (endReads .done [] s)).cal.designation
    imageHeld := (loadActive (endReads .done [] s)).cal.imageHeld
    passive := (calendarsLoaded s).cal.passive
    persisted := (calendarsLoaded s).cal.persisted
    activation := (calendarsLoaded s).cal.activation } := by
  have active := loadActive_cal (endReads .done [] s)
  have passive := loadPassive_cal (loadActive (endReads .done [] s))
  rw [calendarsLoaded]
  generalize (loadPassive (loadActive (endReads .done [] s))).cal = loaded at passive ⊢
  generalize (loadActive (endReads .done [] s)).cal = read at active passive ⊢
  rw [active] at passive
  exact passive

theorem calendarsLoaded_frame (s : State) : (calendarsLoaded s).frx = s.frx ∧ (calendarsLoaded s).tim = s.tim ∧
    (calendarsLoaded s).reg = s.reg ∧ (calendarsLoaded s).xcc = s.xcc ∧ (calendarsLoaded s).ulc = s.ulc := by
  simp [calendarsLoaded]

theorem established_frame (s : State) : (established s).frx = s.frx ∧ (established s).netting = s.netting ∧
    (established s).tim = s.tim ∧ (established s).set = s.set ∧ (established s).premLock = s.premLock ∧
    (established s).draws = s.draws ∧ (established s).pending = s.pending ∧
    (established s).hst = Claim.readEnded s.hst ∧
    (established s).sup = { s.sup with stage := .done, unread := [] } := by
  have sup : (endReads .done [] s).sup = { s.sup with stage := .done, unread := [] } := rfl
  simp [established, calendarsLoaded, endReads_hst, readsEnded_eq, sup]

/-- The calendars stand as they were loaded; the band is evaluated on them. -/
theorem established_evaluated (s : State) : (established s).cal = { (calendarsLoaded s).cal with
    band := (evaluate s.tim (calendarsLoaded s).cal).1, source := (evaluate s.tim (calendarsLoaded s).cal).2 } := by
  rw [established, establish_cal]
  simp only [foldActive_frame, calendarsLoaded_frame]

theorem established_cal (s : State) : (established s).cal = { s.cal with
    active := (established s).cal.active, designation := (established s).cal.designation
    imageHeld := (established s).cal.imageHeld, passive := (established s).cal.passive
    persisted := (established s).cal.persisted, activation := (established s).cal.activation
    band := (evaluate (established s).tim (established s).cal).1
    source := (evaluate (established s).tim (established s).cal).2 } := by
  obtain ⟨-, -, tim, -⟩ := established_frame s
  have loaded := calendarsLoaded_cal s
  rw [tim, established_evaluated]
  generalize (calendarsLoaded s).cal = cal at loaded ⊢
  generalize (loadActive (endReads .done [] s)).cal = read at loaded
  rw [loaded]
  rfl

theorem established_active (s : State) :
    (established s).cal.active = (loadActive (endReads .done [] s)).cal.active ∧
    (established s).cal.designation = (loadActive (endReads .done [] s)).cal.designation ∧
    (established s).cal.imageHeld = (loadActive (endReads .done [] s)).cal.imageHeld := by
  rw [established_evaluated, calendarsLoaded_cal]
  exact ⟨rfl, rfl, rfl⟩

theorem established_passive (s : State) : (established s).cal.passive = (calendarsLoaded s).cal.passive ∧
    (established s).cal.persisted = (calendarsLoaded s).cal.persisted ∧
    (established s).cal.activation = (calendarsLoaded s).cal.activation := by
  rw [established_evaluated]
  exact ⟨rfl, rfl, rfl⟩

theorem established_reg (s : State) :
    (established s).reg = s.reg.fold (established s).cal.active.nb (established s).cal.active.fallback := by
  have active : (established s).cal.active = (calendarsLoaded s).cal.active := by rw [established_evaluated]
  obtain ⟨-, -, reg, -⟩ := calendarsLoaded_frame s
  obtain ⟨-, -, folded, -⟩ := establish_frame (foldActive (calendarsLoaded s))
  rw [active, established, folded, foldActive, reg]

/-- Every notice of the load: a fault for an image that is lost, and a band that has changed. -/
def State.loadNotices (s : State) : BitVec 11 :=
  Notice.storeFault.bitIf s.activeLost ||| Notice.storeFault.bitIf s.passiveLost |||
    Notice.band.bitIf (decide ((established s).cal.band ≠ s.cal.band))

theorem established_ports (s : State) :
    (established s).upt = s.upt.tell s.loadNotices ∧ (established s).ppt = s.ppt.tell s.loadNotices := by
  obtain ⟨activeUpt, activePpt⟩ := loadActive_ports (endReads .done [] s)
  obtain ⟨passiveUpt, passivePpt⟩ := loadPassive_ports (loadActive (endReads .done [] s))
  obtain ⟨bandUpt, bandPpt⟩ := establish_ports (foldActive (calendarsLoaded s))
  have before : (calendarsLoaded s).cal.band = s.cal.band := by rw [calendarsLoaded_cal]
  have after : (established s).cal.band = (evaluate s.tim (calendarsLoaded s).cal).1 := by rw [established_evaluated]
  rw [loadActive_passiveLost, endReads_passiveLost] at passiveUpt passivePpt
  rw [endReads_activeLost] at activeUpt activePpt
  simp only [foldActive_frame, calendarsLoaded_frame, before, ← after] at bandUpt bandPpt
  rw [established, bandUpt, bandPpt, calendarsLoaded, passiveUpt, passivePpt, activeUpt, activePpt]
  simp only [tell_tell, endReads_frame, State.loadNotices, and_self]

/-- A state with the fields the calendar load leaves alone, and the ports told some notices. -/
theorem load_update {s v : State} {h : Hst} {sup : Sup} {told : BitVec 11} (kept : v.frx = s.frx ∧ v.netting = s.netting ∧
    v.tim = s.tim ∧ v.set = s.set ∧ v.premLock = s.premLock ∧ v.draws = s.draws ∧ v.pending = s.pending ∧ v.hst = h ∧
    v.sup = sup) {reg : RegBank} (folded : v.reg = reg) (upt : v.upt = s.upt.tell told)
    (ppt : v.ppt = s.ppt.tell told) :
    v = { s with
      cal := v.cal, reg := reg, xcc := v.xcc, ulc := v.ulc, hst := h, sup := sup
      upt := { s.upt with notices := v.upt.notices }, ppt := { s.ppt with notices := v.ppt.notices } } := by
  obtain ⟨frx, netting, tim, set, premLock, draws, pending, hst, sup⟩ := kept
  have upt' : ({ s.upt with notices := v.upt.notices } : PortState) = v.upt := by rw [upt]; rfl
  have ppt' : ({ s.ppt with notices := v.ppt.notices } : PortState) = v.ppt := by rw [ppt]; rfl
  rw [upt', ppt', ← frx, ← netting, ← tim, ← set, ← premLock, ← draws, ← pending, ← hst, ← sup, ← folded]

/-! ### The exit from STARTING (R169, R179) -/

theorem leaveStarting_run {s : State} (off : s.sup.mainsWarn = false) : RunEntered s (leaveStarting s) := by
  rw [leaveStarting, if_neg (by simp [off])]
  exact enterRun_entered s

theorem leaveStarting_warning {s : State} (on : s.sup.mainsWarn = true) (pending : s.hst.checkpointPending = true) :
    leaveStarting s =
      requestCheckpoint .powerFail (raise .supply { s with sup := { s.sup with supply := .warning } }) := by
  rw [leaveStarting, if_pos on, if_pos pending]
  rfl

theorem leaveStarting_down {s : State} (on : s.sup.mainsWarn = true) (quiet : s.hst.checkpointPending = false) :
    leaveStarting s = raise .supply { s with sup := { s.sup with supply := .down, debounce := none } } := by
  rw [leaveStarting, if_pos on, if_neg (by simp [quiet])]
  rfl

/-! ### The running states of the load (R122, R141, R179) -/

/-- What XCC starts from: its records as loaded, and the frame health. -/
theorem loaded_cap (s : State) : (foldActive (calendarsLoaded s)).xcc = s.xcc ∧
    (foldActive (calendarsLoaded s)).frx = s.frx := by
  simp only [foldActive_frame, calendarsLoaded_frame, and_self]

theorem established_xcc (s : State) : (established s).xcc = (establishCap (foldActive (calendarsLoaded s))).xcc :=
  establish_xcc _

theorem established_xcc_fields (s : State) : (established s).xcc = { s.xcc with
    state := (established s).xcc.state, q := 0, holdEnd := none, load := none
    allowance := (established s).xcc.allowance } := by
  have fields := establishCap_xcc (foldActive (calendarsLoaded s))
  rwa [(loaded_cap s).1, ← established_xcc] at fields

theorem established_uncapped {s : State} (absent : s.xcc.cfg.ceff = none) :
    (established s).xcc.state = .uncapped ∧ (established s).xcc.allowance = none := by
  obtain ⟨xcc, -⟩ := loaded_cap s
  rw [established_xcc, establishCap_uncapped (xcc ▸ absent)]
  exact ⟨rfl, rfl⟩

theorem established_failsafe {s : State} (capped : s.xcc.cfg.ceff ≠ none)
    (due : s.xcc.cfg.fsEnable = true ∧ s.frx.health = .lost) :
    (established s).xcc.state = .failsafe ∧ (established s).xcc.allowance = some s.xcc.cfg.fsc := by
  obtain ⟨xcc, frx⟩ := loaded_cap s
  rw [← xcc, ← frx] at due
  rw [established_xcc, establishCap_failsafe (xcc ▸ capped) due, xcc]
  exact ⟨rfl, rfl⟩

theorem established_normal {s : State} (capped : s.xcc.cfg.ceff ≠ none)
    (quiet : ¬(s.xcc.cfg.fsEnable = true ∧ s.frx.health = .lost)) :
    (established s).xcc.state = .normal ∧ (established s).xcc.allowance = none := by
  obtain ⟨xcc, frx⟩ := loaded_cap s
  rw [← xcc, ← frx] at quiet
  rw [established_xcc, establishCap_normal (xcc ▸ capped) quiet]
  exact ⟨rfl, rfl⟩

theorem established_ulc (s : State) : (established s).ulc =
    ({ s.ulc.establish with
      handState := (established s).xcc.state, handA := (established s).xcc.allowance } : Ulc).reshare := by
  rw [established, establish_ulc]
  simp only [foldActive_frame, calendarsLoaded_frame]

theorem established_ulc_fields (s : State) : (established s).ulc = { s.ulc with
    units := (established s).ulc.units, handState := (established s).xcc.state
    handA := (established s).xcc.allowance, pool := (established s).ulc.pool
    noActive := (established s).ulc.noActive } := by
  rw [established_ulc]
  rfl

theorem established_unit (s : State) (i : Fin 4) : (established s).ulc.units[i] = { s.ulc.units[i] with
    link := if s.ulc.units[i].cfg.enable then .probing else .disabled
    allowance := (established s).ulc.units[i].allowance } := by
  rw [established_ulc, reshare_units]
  simp [Ulc.establish]

/-! ### The active and the passive calendar of the load (R78) -/

theorem established_named {s : State} {k : Nat} {c : Calendar} (named : s.cal.designation = some k)
    (held : imageIn s.hst.store k = some c) :
    (established s).cal.active = c ∧ (established s).cal.designation = some k ∧
    (established s).cal.imageHeld = true := by
  rw [← endReads_store .done [] s] at held
  obtain ⟨active, designation, imageHeld⟩ := established_active s
  rw [active, designation, imageHeld, loadActive_held (s := endReads .done [] s) named held]
  exact ⟨rfl, named, rfl⟩

theorem established_builtIn {s : State} (none_held : s.cal.designation = none ∨ s.activeLost = true) :
    (established s).cal.active = .builtIn ∧ (established s).cal.designation = none ∧
    (established s).cal.imageHeld = false := by
  rw [← endReads_activeLost .done [] s] at none_held
  obtain ⟨active, designation, imageHeld⟩ := established_active s
  rw [active, designation, imageHeld]
  exact loadActive_builtIn none_held

theorem established_written {s : State} {c : Calendar} (written : s.cal.persisted = true)
    (held : imageIn s.hst.store s.cal.passiveAt = some c) :
    (established s).cal.passive = some c ∧ (established s).cal.persisted = true ∧
    (established s).cal.activation = s.cal.activation := by
  obtain ⟨persisted, passiveAt, activation⟩ := loadActive_passiveSide (endReads .done [] s)
  have read : imageIn (loadActive (endReads .done [] s)).hst.store (loadActive (endReads .done [] s)).cal.passiveAt =
      some c := by
    rw [passiveAt, loadActive_hst, endReads_store]
    exact held
  obtain ⟨passive, persisted', activation'⟩ := established_passive s
  rw [passive, persisted', activation', calendarsLoaded, loadPassive_held (persisted.trans written) read]
  exact ⟨rfl, persisted.trans written, activation⟩

theorem established_unwritten {s : State} (none_held : s.cal.persisted = false ∨ s.passiveLost = true) :
    (established s).cal.passive = none ∧ (established s).cal.persisted = false ∧
    (established s).cal.activation = none := by
  obtain ⟨persisted, -, -⟩ := loadActive_passiveSide (endReads .done [] s)
  have lost : (loadActive (endReads .done [] s)).passiveLost = s.passiveLost := by
    rw [loadActive_passiveLost, endReads_passiveLost]
  obtain ⟨passive, persisted', activation'⟩ := established_passive s
  rw [passive, persisted', activation']
  refine loadPassive_absent ?_
  rwa [persisted, lost]

theorem loadNotices_iff (s : State) (n : Notice) : s.loadNotices &&& n.bit ≠ 0 ↔
    n = .storeFault ∧ (s.activeLost = true ∨ s.passiveLost = true) ∨
      n = .band ∧ (established s).cal.band ≠ s.cal.band := by
  rw [State.loadNotices, told_iff, decide_eq_true_iff]

theorem calendarLoad : CalendarLoad := by
  intro s powered
  obtain ⟨upt, ppt⟩ := established_ports s
  have frame := established_frame s
  have ⟨_, _, _, _, _, _, _, _, sup⟩ := frame
  have warns : (established s).sup.mainsWarn = s.sup.mainsWarn := by rw [sup]
  dsimp only
  rw [← activeLost_iff, ← passiveLost_iff]
  refine ⟨fun absent => ?_, fun due => ⟨established s, leaveStarting (established s), ?_,
    load_update frame (established_reg s) upt ppt, established_cal s, fun k c => established_named, established_builtIn,
    fun c => established_written, established_unwritten, ⟨s.loadNotices, ?_, ?_, loadNotices_iff s⟩,
    established_xcc_fields s, established_uncapped, fun capped enabled lost => established_failsafe capped ⟨enabled, lost⟩,
    established_normal, established_ulc_fields s, established_unit s, ?_,
    fun off => leaveStarting_run (warns.trans off), fun on => leaveStarting_warning (warns.trans on),
    fun on => leaveStarting_down (warns.trans on)⟩⟩
  · exact congrArg Host.Outcome.next (command_atStage_absent _ powered absent)
  · exact congrArg Host.Outcome.next (command_atStage_due _ powered due)
  · rw [upt]
    rfl
  · rw [ppt]
    rfl
  · rw [established_ulc, reshare_reshare]

/-- Settles O46: each scan and the load by the equation of its cases, and the parts that no case touches by its frame. -/
theorem recovery : Obligations.Recovery := ⟨checkpointScan, logScan, calendarLoad⟩

end Sys2Proof.Machine
end
